-- ==== Sys2Proof/Word.lean ====
section
/-!
DEFINITION. The word types of the manual, and the one shape of sparse table that the state uses. Scalars, addresses in
registers and encoded fields are bit vectors; keys of memories and tables are natural numbers.
-/
namespace Sys2Proof

/-- A scalar register's value (R177). -/
abbrev Word := BitVec 64
/-- A byte of memory. -/
abbrev Byte := BitVec 8
/-- The bits of one vector lane: W_reg of them are used, 16 to 76 by class (R26, R27). -/
abbrev Lane := BitVec 76
/-- The eight sticky flags of FLG (R187). -/
abbrev Flags := BitVec 8
/-- A sparse table, sorted by key: what a key that is not listed holds is named where the table is read. -/
abbrev FMap (α : Type) := List (Nat × α)
/-- Bytes by address, in the canonical form of `Machine.Memory.wf`: an unlisted address reads as zero. -/
abbrev Memory := List Host.Cell

/-- A number whose low `8 * bs.length` bits are the little-endian bytes `bs` (R2). -/
def natOfBytes : List Byte → Nat
  | [] => 0
  | b :: bs => b.toNat + 256 * natOfBytes bs

/-- The `n` little-endian bytes of a number (R2). -/
def leBytes : Nat → Nat → List Byte
  | 0, _ => []
  | n + 1, w => BitVec.ofNat 8 w :: leBytes n (w / 256)

/-- Bits `hi` down to `lo` of a natural number (R3). -/
def bitsOf (w hi lo : Nat) : Nat := (w / 2 ^ lo) % 2 ^ (hi + 1 - lo)

/-- Bit `i` of a natural number (R3). -/
def bitOf (w i : Nat) : Bool := (w / 2 ^ i) % 2 = 1

/-- A Bool as a bit. -/
def b2n (b : Bool) : Nat := if b then 1 else 0

end Sys2Proof
end

