-- ==== Sys2Proof/Syntax.lean ====
section
/-!
DEFINITION. The abstract syntax of Napra: one constructor for every row of spec/opcode_table.json. The 250 rows that
have an encoding are the instructions of chapters 05 to 13 and 18; their operands are the encoded fields at their
encoded widths (R60, R61), in rising bit order. The 99 rows without an encoding are the steps that the device's other
agents take (host link, firmware, engines, home slices, directories, steal engines). They have no operand fields; the
place where such a step happens, and whatever the outside world brings to it, stand in the state (`State.ev`). The file
spec/95_what_each_step_holds.md says which rules bear on which step.
-/
namespace Sys2Proof

/-- An instruction of Napra, or a step of one of the device's other agents. -/
inductive Instr where
  /-- add, R203: Writes s[a] + s[b], wrapping modulo 2^64, to s[d]. -/
  | add (d : BitVec 5) (a : BitVec 5) (b : BitVec 5)
  /-- sub, R203: Writes s[a] − s[b], wrapping, to s[d]. -/
  | sub (d : BitVec 5) (a : BitVec 5) (b : BitVec 5)
  /-- and, R203: Writes the bitwise AND of s[a] and s[b] to s[d]. -/
  | and (d : BitVec 5) (a : BitVec 5) (b : BitVec 5)
  /-- or, R203: Writes the bitwise OR of s[a] and s[b] to s[d]. -/
  | or (d : BitVec 5) (a : BitVec 5) (b : BitVec 5)
  /-- xor, R203: Writes the bitwise XOR of s[a] and s[b] to s[d]. -/
  | xor (d : BitVec 5) (a : BitVec 5) (b : BitVec 5)
  /-- andn, R203: Writes s[a] AND NOT s[b] to s[d]. -/
  | andn (d : BitVec 5) (a : BitVec 5) (b : BitVec 5)
  /-- orn, R203: Writes s[a] OR NOT s[b] to s[d]. -/
  | orn (d : BitVec 5) (a : BitVec 5) (b : BitVec 5)
  /-- shl, R203: Shifts s[a] left by s[b]<5:0>, shifting in zeros. -/
  | shl (d : BitVec 5) (a : BitVec 5) (b : BitVec 5)
  /-- shr, R203: Shifts s[a] right logically by s[b]<5:0>. -/
  | shr (d : BitVec 5) (a : BitVec 5) (b : BitVec 5)
  /-- sar, R203: Shifts s[a] right arithmetically by s[b]<5:0>. -/
  | sar (d : BitVec 5) (a : BitVec 5) (b : BitVec 5)
  /-- rol, R203: Rotates s[a] left by s[b]<5:0>. -/
  | rol (d : BitVec 5) (a : BitVec 5) (b : BitVec 5)
  /-- ror, R203: Rotates s[a] right by s[b]<5:0>. -/
  | ror (d : BitVec 5) (a : BitVec 5) (b : BitVec 5)
  /-- mul, R203: Writes the low 64 bits of s[a] × s[b] to s[d]. -/
  | mul (d : BitVec 5) (a : BitVec 5) (b : BitVec 5)
  /-- mulh, R203: Long-latency instruction that writes the high 64 bits of the signed product, with a lookahead shadow. -/
  | mulh (d : BitVec 5) (a : BitVec 5) (b : BitVec 5) (la : BitVec 4)
  /-- mulhu, R203: Long-latency instruction that writes the high 64 bits of the unsigned product, with a lookahead shadow. -/
  | mulhu (d : BitVec 5) (a : BitVec 5) (b : BitVec 5) (la : BitVec 4)
  /-- div, R204: Long-latency signed division that truncates toward zero, with defined results for division by zero and overflow. -/
  | div (d : BitVec 5) (a : BitVec 5) (b : BitVec 5) (la : BitVec 4)
  /-- divu, R204: Long-latency unsigned division. -/
  | divu (d : BitVec 5) (a : BitVec 5) (b : BitVec 5) (la : BitVec 4)
  /-- rem, R204: Long-latency signed remainder, which takes the sign of the dividend. -/
  | rem (d : BitVec 5) (a : BitVec 5) (b : BitVec 5) (la : BitVec 4)
  /-- remu, R204: Long-latency unsigned remainder. -/
  | remu (d : BitVec 5) (a : BitVec 5) (b : BitVec 5) (la : BitVec 4)
  /-- min, R203: Writes the signed minimum of s[a] and s[b]. -/
  | min (d : BitVec 5) (a : BitVec 5) (b : BitVec 5)
  /-- max, R203: Writes the signed maximum of s[a] and s[b]. -/
  | max (d : BitVec 5) (a : BitVec 5) (b : BitVec 5)
  /-- minu, R203: Writes the unsigned minimum of s[a] and s[b]. -/
  | minu (d : BitVec 5) (a : BitVec 5) (b : BitVec 5)
  /-- maxu, R203: Writes the unsigned maximum of s[a] and s[b]. -/
  | maxu (d : BitVec 5) (a : BitVec 5) (b : BitVec 5)
  /-- slt, R203: Writes 1 if s[a] is less than s[b] as signed numbers, else 0. -/
  | slt (d : BitVec 5) (a : BitVec 5) (b : BitVec 5)
  /-- sltu, R203: Writes 1 if s[a] is less than s[b] as unsigned numbers, else 0. -/
  | sltu (d : BitVec 5) (a : BitVec 5) (b : BitVec 5)
  /-- seq, R203: Writes 1 if s[a] equals s[b], else 0. -/
  | seq (d : BitVec 5) (a : BitVec 5) (b : BitVec 5)
  /-- sel, R203: Writes s[a] if the old s[d] is nonzero, and s[b] otherwise. -/
  | sel (d : BitVec 5) (a : BitVec 5) (b : BitVec 5)
  /-- clz, R203: Counts the leading zero bits of s[a]. -/
  | clz (d : BitVec 5) (a : BitVec 5)
  /-- ctz, R203: Counts the trailing zero bits of s[a]. -/
  | ctz (d : BitVec 5) (a : BitVec 5)
  /-- popc, R203: Counts the one bits of s[a]. -/
  | popc (d : BitVec 5) (a : BitVec 5)
  /-- brev, R203: Reverses the bit order of s[a]. -/
  | brev (d : BitVec 5) (a : BitVec 5)
  /-- bswap, R203: Reverses the byte order of s[a]. -/
  | bswap (d : BitVec 5) (a : BitVec 5)
  /-- sextb, R203: Sign-extends s[a]<7:0>. -/
  | sextb (d : BitVec 5) (a : BitVec 5)
  /-- sexth, R203: Sign-extends s[a]<15:0>. -/
  | sexth (d : BitVec 5) (a : BitVec 5)
  /-- sextw, R203: Sign-extends s[a]<31:0>. -/
  | sextw (d : BitVec 5) (a : BitVec 5)
  /-- addi, R205: Adds the sign-extended imm15 to s[a]. -/
  | addi (d : BitVec 5) (a : BitVec 5) (imm : BitVec 15)
  /-- andi, R205: ANDs s[a] with the zero-extended imm15. -/
  | andi (d : BitVec 5) (a : BitVec 5) (imm : BitVec 15)
  /-- ori, R205: ORs s[a] with the zero-extended imm15. -/
  | ori (d : BitVec 5) (a : BitVec 5) (imm : BitVec 15)
  /-- xori, R205: XORs s[a] with the zero-extended imm15. -/
  | xori (d : BitVec 5) (a : BitVec 5) (imm : BitVec 15)
  /-- slti, R205: Signed comparison of s[a] with the sign-extended immediate. -/
  | slti (d : BitVec 5) (a : BitVec 5) (imm : BitVec 15)
  /-- sltiu, R205: Unsigned comparison of s[a] with the sign-extended immediate. -/
  | sltiu (d : BitVec 5) (a : BitVec 5) (imm : BitVec 15)
  /-- muli, R205: Writes the low 64 bits of s[a] × the sign-extended immediate. -/
  | muli (d : BitVec 5) (a : BitVec 5) (imm : BitVec 15)
  /-- shli, R206: Shifts s[a] left by an immediate amount. -/
  | shli (d : BitVec 5) (a : BitVec 5) (amt : BitVec 6)
  /-- shri, R206: Shifts s[a] right logically by an immediate amount. -/
  | shri (d : BitVec 5) (a : BitVec 5) (amt : BitVec 6)
  /-- sari, R206: Shifts s[a] right arithmetically by an immediate amount. -/
  | sari (d : BitVec 5) (a : BitVec 5) (amt : BitVec 6)
  /-- bext, R207: Extracts a bit field of s[a], zero-extended. -/
  | bext (d : BitVec 5) (a : BitVec 5) (len1 : BitVec 6) (pos : BitVec 6)
  /-- bins, R207: Inserts the low bits of s[a] into a field of s[d]. -/
  | bins (d : BitVec 5) (a : BitVec 5) (len1 : BitVec 6) (pos : BitVec 6)
  /-- lui, R208: Writes sext(imm20) × 4096 to s[d]. -/
  | lui (d : BitVec 5) (imm : BitVec 20)
  /-- adpc, R208: Writes PC + sext(imm20) × 4096 to s[d]. -/
  | adpc (d : BitVec 5) (imm : BitVec 20)
  /-- beq, R209: Branches if s[a] equals s[b]. -/
  | beq (a : BitVec 5) (b : BitVec 5) (off : BitVec 12)
  /-- bne, R209: Branches if s[a] differs from s[b]. -/
  | bne (a : BitVec 5) (b : BitVec 5) (off : BitVec 12)
  /-- blt, R209: Branches if s[a] is less than s[b] as signed numbers. -/
  | blt (a : BitVec 5) (b : BitVec 5) (off : BitVec 12)
  /-- bge, R209: Branches if s[a] is not less than s[b] as signed numbers. -/
  | bge (a : BitVec 5) (b : BitVec 5) (off : BitVec 12)
  /-- bltu, R209: Branches if s[a] is less than s[b] as unsigned numbers. -/
  | bltu (a : BitVec 5) (b : BitVec 5) (off : BitVec 12)
  /-- bgeu, R209: Branches if s[a] is not less than s[b] as unsigned numbers. -/
  | bgeu (a : BitVec 5) (b : BitVec 5) (off : BitVec 12)
  /-- jal, R210: Writes the link PC + 4 to s[d] and jumps PC-relative. -/
  | jal (d : BitVec 5) (off : BitVec 20)
  /-- jalr, R210: Writes the link and jumps to s[a] + imm, with bit 0 cleared. -/
  | jalr (d : BitVec 5) (a : BitVec 5) (imm : BitVec 15)
  /-- mfs, R213: Reads a special register into s[d], after the waits of R215. -/
  | mfs (d : BitVec 5) (sr : BitVec 12)
  /-- mts, R213: Writes s[a] to a special register, checked under R214. -/
  | mts (a : BitVec 5) (sr : BitVec 12)
  /-- mtsset, R213: Sets the bits of s[a] in a special register. -/
  | mtsset (a : BitVec 5) (sr : BitVec 12)
  /-- mtsclr, R213: Clears the bits of s[a] in a special register. -/
  | mtsclr (a : BitVec 5) (sr : BitVec 12)
  /-- ldb, R303: Loads a sign-extended byte, with a lookahead shadow. -/
  | ldb (d : BitVec 5) (a : BitVec 5) (la : BitVec 4) (imm : BitVec 11)
  /-- ldbu, R303: Loads a zero-extended byte. -/
  | ldbu (d : BitVec 5) (a : BitVec 5) (la : BitVec 4) (imm : BitVec 11)
  /-- ldh, R303: Loads a sign-extended halfword. -/
  | ldh (d : BitVec 5) (a : BitVec 5) (la : BitVec 4) (imm : BitVec 11)
  /-- ldhu, R303: Loads a zero-extended halfword. -/
  | ldhu (d : BitVec 5) (a : BitVec 5) (la : BitVec 4) (imm : BitVec 11)
  /-- ldw, R303: Loads a sign-extended word. -/
  | ldw (d : BitVec 5) (a : BitVec 5) (la : BitVec 4) (imm : BitVec 11)
  /-- ldwu, R303: Loads a zero-extended word. -/
  | ldwu (d : BitVec 5) (a : BitVec 5) (la : BitVec 4) (imm : BitVec 11)
  /-- ldd, R303: Loads a doubleword. -/
  | ldd (d : BitVec 5) (a : BitVec 5) (la : BitVec 4) (imm : BitVec 11)
  /-- stb, R303: Posts a store of s[d]<7:0>. -/
  | stb (d : BitVec 5) (a : BitVec 5) (imm : BitVec 11)
  /-- sth, R303: Posts a store of s[d]<15:0>. -/
  | sth (d : BitVec 5) (a : BitVec 5) (imm : BitVec 11)
  /-- stw, R303: Posts a store of s[d]<31:0>. -/
  | stw (d : BitVec 5) (a : BitVec 5) (imm : BitVec 11)
  /-- std, R303: Posts a store of s[d]. -/
  | std (d : BitVec 5) (a : BitVec 5) (imm : BitVec 11)
  /-- lda.d, R308: Acquiring 8-byte load at the encoded scope. -/
  | ldaD (d : BitVec 5) (a : BitVec 5) (scope : BitVec 3) (la : BitVec 4)
  /-- lda.w, R308: Acquiring 4-byte load at the encoded scope. -/
  | ldaW (d : BitVec 5) (a : BitVec 5) (scope : BitVec 3) (la : BitVec 4)
  /-- stl.d, R308: Releasing 8-byte store; at device scope or wider it is written through to the home. -/
  | stlD (a : BitVec 5) (b : BitVec 5) (scope : BitVec 3)
  /-- stl.w, R308: Releasing 4-byte store. -/
  | stlW (a : BitVec 5) (b : BitVec 5) (scope : BitVec 3)
  /-- lde, R309: Reads a full scratch word, or parks until the word is full. -/
  | lde (d : BitVec 5) (a : BitVec 5) (la : BitVec 4)
  /-- ldx, R309: Reads a full scratch word and empties it, or parks. -/
  | ldx (d : BitVec 5) (a : BitVec 5) (la : BitVec 4)
  /-- stf, R309: Writes an empty scratch word and fills it, or parks. -/
  | stf (a : BitVec 5) (b : BitVec 5)
  /-- sto, R309: Writes a scratch word and marks it full, unconditionally. -/
  | sto (a : BitVec 5) (b : BitVec 5)
  /-- lde.try, R309: Non-parking form of lde that reports its status in s[d]. -/
  | ldeTry (d : BitVec 5) (a : BitVec 5) (b : BitVec 5)
  /-- ldx.try, R309: Non-parking form of ldx that reports its status. -/
  | ldxTry (d : BitVec 5) (a : BitVec 5) (b : BitVec 5)
  /-- stf.try, R309: Non-parking form of stf that reports its status. -/
  | stfTry (d : BitVec 5) (a : BitVec 5) (b : BitVec 5)
  /-- amo.add, R348: Atomic add at the point of serialisation. -/
  | amoAdd (d : BitVec 5) (a : BitVec 5) (b : BitVec 5) (scope : BitVec 3) (ord : BitVec 2) (sz : BitVec 1)
  /-- amo.and, R348: Atomic AND. -/
  | amoAnd (d : BitVec 5) (a : BitVec 5) (b : BitVec 5) (scope : BitVec 3) (ord : BitVec 2) (sz : BitVec 1)
  /-- amo.or, R348: Atomic OR. -/
  | amoOr (d : BitVec 5) (a : BitVec 5) (b : BitVec 5) (scope : BitVec 3) (ord : BitVec 2) (sz : BitVec 1)
  /-- amo.xor, R348: Atomic XOR. -/
  | amoXor (d : BitVec 5) (a : BitVec 5) (b : BitVec 5) (scope : BitVec 3) (ord : BitVec 2) (sz : BitVec 1)
  /-- amo.min, R348: Atomic signed minimum. -/
  | amoMin (d : BitVec 5) (a : BitVec 5) (b : BitVec 5) (scope : BitVec 3) (ord : BitVec 2) (sz : BitVec 1)
  /-- amo.max, R348: Atomic signed maximum. -/
  | amoMax (d : BitVec 5) (a : BitVec 5) (b : BitVec 5) (scope : BitVec 3) (ord : BitVec 2) (sz : BitVec 1)
  /-- amo.minu, R348: Atomic unsigned minimum. -/
  | amoMinu (d : BitVec 5) (a : BitVec 5) (b : BitVec 5) (scope : BitVec 3) (ord : BitVec 2) (sz : BitVec 1)
  /-- amo.maxu, R348: Atomic unsigned maximum. -/
  | amoMaxu (d : BitVec 5) (a : BitVec 5) (b : BitVec 5) (scope : BitVec 3) (ord : BitVec 2) (sz : BitVec 1)
  /-- amo.swp, R348: Atomic swap. -/
  | amoSwp (d : BitVec 5) (a : BitVec 5) (b : BitVec 5) (scope : BitVec 3) (ord : BitVec 2) (sz : BitVec 1)
  /-- cas, R348: Compare-and-swap against the expected value in s[d]. -/
  | cas (d : BitVec 5) (a : BitVec 5) (b : BitVec 5) (scope : BitVec 3) (ord : BitVec 2) (sz : BitVec 1)
  /-- accs.i32, R352: Posted accumulate of an int32 scalar into memory. -/
  | accsI32 (a : BitVec 5) (b : BitVec 5)
  /-- accs.i64, R352: Posted accumulate of an int64 scalar. -/
  | accsI64 (a : BitVec 5) (b : BitVec 5)
  /-- accs.f32, R352: Posted accumulate of a binary32 scalar. -/
  | accsF32 (a : BitVec 5) (b : BitVec 5)
  /-- accs.f64, R352: Posted accumulate of a binary64 scalar. -/
  | accsF64 (a : BitVec 5) (b : BitVec 5)
  /-- fence, R391: Acquire, release or full fence at the encoded scope. -/
  | fence (scope : BitVec 3) (kind : BitVec 2)
  /-- wbr, R328: Writes back the dirty grains of a range at the given scope. -/
  | wbr (d : BitVec 5) (a : BitVec 5) (scope : BitVec 3)
  /-- invr, R328: Drops the clean grains of a range. -/
  | invr (d : BitVec 5) (a : BitVec 5) (scope : BitVec 3)
  /-- flr, R328: Writes back and drops the grains of a range. -/
  | flr (d : BitVec 5) (a : BitVec 5) (scope : BitVec 3)
  /-- drain, R329: Waits for the core's earlier copies and the slot's write-stream vectors of one memory kind, then acquires them. -/
  | drain (kind : BitVec 2)
  /-- bar.init, R397: Initialises a barrier object with an expected count. -/
  | barInit (a : BitVec 5) (b : BitVec 5)
  /-- bar.arv, R397: Arrives at a barrier: decrements PENDING, returns the phase and applies the opening test. -/
  | barArv (d : BitVec 5) (a : BitVec 5)
  /-- bar.drop, R397: Arrives at a barrier and leaves it for later phases. -/
  | barDrop (d : BitVec 5) (a : BitVec 5)
  /-- bar.exp, R397: Adds an expected byte count to a barrier's BYTES. -/
  | barExp (a : BitVec 5) (b : BitVec 5)
  /-- bar.wait, R397: Parks until the barrier's phase differs from the given one. -/
  | barWait (a : BitVec 5) (b : BitVec 5)
  /-- bar.wait.try, R397: Tests a barrier's phase without parking. -/
  | barWaitTry (d : BitVec 5) (a : BitVec 5) (b : BitVec 5)
  /-- fpub, R145: Writes the published scalars, vectors and tile names into the current frame. -/
  | fpub (a : BitVec 5) (b : BitVec 5)
  /-- spawn, R146: Allocates a child frame, pushes the continuation onto the deque and jumps to the child. -/
  | spawn (a : BitVec 5) (b : BitVec 5)
  /-- sync.try, R147: Writes JOIN to s[d] without waiting. -/
  | syncTry (d : BitVec 5)
  /-- launch, R150: Admits a launch record, or a DRAIN, RESUME or ABORT command, from memory; never parks. -/
  | launch (d : BitVec 5) (a : BitVec 5)
  /-- donate, R151: Posts a 64-byte task descriptor to a donation queue named by a handle. -/
  | donate (a : BitVec 5) (b : BitVec 5)
  /-- dtake, R152: Takes the oldest descriptor of a local donation queue, parking while the queue is empty. -/
  | dtake (d : BitVec 5) (a : BitVec 5) (b : BitVec 5)
  /-- dtake.try, R152: Non-parking form of dtake. -/
  | dtakeTry (d : BitVec 5) (a : BitVec 5) (b : BitVec 5)
  /-- dqstat, R153: Reads the status of a deque, cluster queue, die queue or donation queue. -/
  | dqstat (d : BitVec 5) (a : BitVec 5)
  /-- trap, R424: Raises TRAP with the code in TVAL. -/
  | trap (code : BitVec 11)
  /-- brk, R424: Raises BRK, or halts the slot under break-to-halt. -/
  | brk (code : BitVec 11)
  /-- tlbi, R172: Invalidates the translations and instruction lines of one page device-wide. -/
  | tlbi (a : BitVec 5)
  /-- tlbia, R172: Invalidates every translation of an ASID, or every translation. -/
  | tlbia (a : BitVec 5)
  /-- vadd, R225: 32-bit integer lane add. -/
  | vadd (d : BitVec 6) (a : BitVec 6) (b : BitVec 6) (k : BitVec 3)
  /-- vsub, R225: Integer lane subtract. -/
  | vsub (d : BitVec 6) (a : BitVec 6) (b : BitVec 6) (k : BitVec 3)
  /-- vmul, R225: Integer lane multiply, low 32 bits. -/
  | vmul (d : BitVec 6) (a : BitVec 6) (b : BitVec 6) (k : BitVec 3)
  /-- vmulh, R225: Integer lane multiply, high 32 bits. -/
  | vmulh (d : BitVec 6) (a : BitVec 6) (b : BitVec 6) (k : BitVec 3)
  /-- vand, R225: Lane AND. -/
  | vand (d : BitVec 6) (a : BitVec 6) (b : BitVec 6) (k : BitVec 3)
  /-- vor, R225: Lane OR. -/
  | vor (d : BitVec 6) (a : BitVec 6) (b : BitVec 6) (k : BitVec 3)
  /-- vxor, R225: Lane XOR. -/
  | vxor (d : BitVec 6) (a : BitVec 6) (b : BitVec 6) (k : BitVec 3)
  /-- vandn, R225: Lane AND NOT. -/
  | vandn (d : BitVec 6) (a : BitVec 6) (b : BitVec 6) (k : BitVec 3)
  /-- vshl, R225: Lane shift left. -/
  | vshl (d : BitVec 6) (a : BitVec 6) (b : BitVec 6) (k : BitVec 3)
  /-- vshr, R225: Lane logical shift right. -/
  | vshr (d : BitVec 6) (a : BitVec 6) (b : BitVec 6) (k : BitVec 3)
  /-- vsar, R225: Lane arithmetic shift right. -/
  | vsar (d : BitVec 6) (a : BitVec 6) (b : BitVec 6) (k : BitVec 3)
  /-- vmin, R225: Lane signed minimum. -/
  | vmin (d : BitVec 6) (a : BitVec 6) (b : BitVec 6) (k : BitVec 3)
  /-- vmax, R225: Lane signed maximum. -/
  | vmax (d : BitVec 6) (a : BitVec 6) (b : BitVec 6) (k : BitVec 3)
  /-- vminu, R225: Lane unsigned minimum. -/
  | vminu (d : BitVec 6) (a : BitVec 6) (b : BitVec 6) (k : BitVec 3)
  /-- vmaxu, R225: Lane unsigned maximum. -/
  | vmaxu (d : BitVec 6) (a : BitVec 6) (b : BitVec 6) (k : BitVec 3)
  /-- vsel, R225: Selects whole lanes from va or vb by a mask. -/
  | vsel (d : BitVec 6) (a : BitVec 6) (b : BitVec 6) (k : BitVec 3)
  /-- vcmp.eq, R227: Integer equality compare into a mask. -/
  | vcmpEq (d : BitVec 6) (a : BitVec 6) (b : BitVec 6) (k : BitVec 3)
  /-- vcmp.ne, R227: Integer inequality compare into a mask. -/
  | vcmpNe (d : BitVec 6) (a : BitVec 6) (b : BitVec 6) (k : BitVec 3)
  /-- vcmp.lt, R227: Signed less-than compare into a mask. -/
  | vcmpLt (d : BitVec 6) (a : BitVec 6) (b : BitVec 6) (k : BitVec 3)
  /-- vcmp.ge, R227: Signed greater-or-equal compare into a mask. -/
  | vcmpGe (d : BitVec 6) (a : BitVec 6) (b : BitVec 6) (k : BitVec 3)
  /-- vcmp.ltu, R227: Unsigned less-than compare into a mask. -/
  | vcmpLtu (d : BitVec 6) (a : BitVec 6) (b : BitVec 6) (k : BitVec 3)
  /-- vcmp.geu, R227: Unsigned greater-or-equal compare into a mask. -/
  | vcmpGeu (d : BitVec 6) (a : BitVec 6) (b : BitVec 6) (k : BitVec 3)
  /-- vredadd, R228: Integer sum reduction into lane 0. -/
  | vredadd (d : BitVec 6) (a : BitVec 6) (k : BitVec 3)
  /-- vredmin, R228: Signed minimum reduction into lane 0. -/
  | vredmin (d : BitVec 6) (a : BitVec 6) (k : BitVec 3)
  /-- vredmax, R228: Signed maximum reduction into lane 0. -/
  | vredmax (d : BitVec 6) (a : BitVec 6) (k : BitVec 3)
  /-- vperm, R229: Permutes lanes by an index vector. -/
  | vperm (d : BitVec 6) (a : BitVec 6) (b : BitVec 6) (k : BitVec 3)
  /-- vslideup, R229: Slides lanes up by a scalar count. -/
  | vslideup (d : BitVec 6) (a : BitVec 6) (b : BitVec 6) (k : BitVec 3)
  /-- vslidedn, R229: Slides lanes down by a scalar count. -/
  | vslidedn (d : BitVec 6) (a : BitVec 6) (b : BitVec 6) (k : BitVec 3)
  /-- vbcast, R230: Broadcasts a scalar, raw or converted from binary64, to every lane. -/
  | vbcast (d : BitVec 6) (a : BitVec 6) (cv : BitVec 3)
  /-- vins, R230: Inserts a scalar into one lane. -/
  | vins (d : BitVec 6) (a : BitVec 6) (b : BitVec 6) (cv : BitVec 3)
  /-- vext, R230: Extracts one lane into a scalar. -/
  | vext (d : BitVec 6) (a : BitVec 6) (b : BitVec 6) (cv : BitVec 3)
  /-- vmov, R229: Copies active lanes. -/
  | vmov (d : BitVec 6) (a : BitVec 6) (k : BitVec 3)
  /-- fadd, R232: VLF lane add, rounded once. -/
  | fadd (d : BitVec 6) (a : BitVec 6) (b : BitVec 6) (k : BitVec 3)
  /-- fsub, R232: VLF lane subtract. -/
  | fsub (d : BitVec 6) (a : BitVec 6) (b : BitVec 6) (k : BitVec 3)
  /-- fmul, R232: VLF lane multiply. -/
  | fmul (d : BitVec 6) (a : BitVec 6) (b : BitVec 6) (k : BitVec 3)
  /-- fdiv, R232: VLF lane divide. -/
  | fdiv (d : BitVec 6) (a : BitVec 6) (b : BitVec 6) (k : BitVec 3)
  /-- fsqrt, R232: VLF lane square root. -/
  | fsqrt (d : BitVec 6) (b : BitVec 6) (k : BitVec 3)
  /-- fmin, R234: VLF lane minimum, without rounding. -/
  | fmin (d : BitVec 6) (a : BitVec 6) (b : BitVec 6) (k : BitVec 3)
  /-- fmax, R234: VLF lane maximum. -/
  | fmax (d : BitVec 6) (a : BitVec 6) (b : BitVec 6) (k : BitVec 3)
  /-- fabs, R234: Clears the sign of each active lane. -/
  | fabs (d : BitVec 6) (b : BitVec 6) (k : BitVec 3)
  /-- fneg, R234: Inverts the sign of each active lane. -/
  | fneg (d : BitVec 6) (b : BitVec 6) (k : BitVec 3)
  /-- fcmp.eq, R235: VLF equality compare into a mask. -/
  | fcmpEq (d : BitVec 6) (a : BitVec 6) (b : BitVec 6) (k : BitVec 3)
  /-- fcmp.lt, R235: VLF less-than compare into a mask. -/
  | fcmpLt (d : BitVec 6) (a : BitVec 6) (b : BitVec 6) (k : BitVec 3)
  /-- fcmp.le, R235: VLF less-or-equal compare into a mask. -/
  | fcmpLe (d : BitVec 6) (a : BitVec 6) (b : BitVec 6) (k : BitVec 3)
  /-- fcmp.un, R235: VLF unordered compare into a mask. -/
  | fcmpUn (d : BitVec 6) (a : BitVec 6) (b : BitVec 6) (k : BitVec 3)
  /-- fclass, R236: Writes a one-hot class code into each active lane. -/
  | fclass (d : BitVec 6) (b : BitVec 6) (k : BitVec 3)
  /-- fscl, R232: Scales each active lane by 2^n, with n from a scalar. -/
  | fscl (d : BitVec 6) (a : BitVec 6) (b : BitVec 6) (k : BitVec 3)
  /-- fround, R233: Rounds each active lane to an integer. -/
  | fround (d : BitVec 6) (b : BitVec 6) (k : BitVec 3)
  /-- fcvt.fi, R238: Converts VLF lanes to int32. -/
  | fcvtFi (d : BitVec 6) (a : BitVec 6) (k : BitVec 3)
  /-- fcvt.if, R238: Converts int32 lanes to VLF. -/
  | fcvtIf (d : BitVec 6) (a : BitVec 6) (k : BitVec 3)
  /-- fredsum, R239: Sums the active lanes in a fixed tree, rounding at each node. -/
  | fredsum (d : BitVec 6) (a : BitVec 6) (k : BitVec 3)
  /-- fredmax, R240: Maximum reduction by the fixed tree. -/
  | fredmax (d : BitVec 6) (a : BitVec 6) (k : BitVec 3)
  /-- fredmin, R240: Minimum reduction by the fixed tree. -/
  | fredmin (d : BitVec 6) (a : BitVec 6) (k : BitVec 3)
  /-- fdot, R241: Exact dot product of the active lanes, rounded once into lane 0. -/
  | fdot (d : BitVec 6) (a : BitVec 6) (b : BitVec 6) (k : BitVec 3)
  /-- kand, R242: Mask AND. -/
  | kand (d : BitVec 6) (a : BitVec 6) (b : BitVec 6)
  /-- kor, R242: Mask OR. -/
  | kor (d : BitVec 6) (a : BitVec 6) (b : BitVec 6)
  /-- kxor, R242: Mask XOR. -/
  | kxor (d : BitVec 6) (a : BitVec 6) (b : BitVec 6)
  /-- knot, R242: Mask NOT. -/
  | knot (d : BitVec 6) (a : BitVec 6)
  /-- kfs, R242: Loads a mask from s[a]<31:0>. -/
  | kfs (d : BitVec 6) (a : BitVec 6)
  /-- ksf, R242: Writes a mask, zero-extended, to a scalar. -/
  | ksf (d : BitVec 6) (a : BitVec 6)
  /-- vwin, R245: Allocates, resizes or releases the vector window to an immediate count and class. -/
  | vwinImm (count : BitVec 7) (cls : BitVec 6)
  /-- vwin, R245: Allocates, resizes or releases the vector window to a count and class held in scalars. -/
  | vwinReg (d : BitVec 6) (a : BitVec 6)
  /-- ffma, R243: Fused multiply-add, rounded once. -/
  | ffma (d : BitVec 6) (a : BitVec 6) (b : BitVec 6) (c : BitVec 6) (k1en : BitVec 1)
  /-- ffms, R243: Fused multiply-subtract. -/
  | ffms (d : BitVec 6) (a : BitVec 6) (b : BitVec 6) (c : BitVec 6) (k1en : BitVec 1)
  /-- fnma, R243: Negated fused multiply-add. -/
  | fnma (d : BitVec 6) (a : BitVec 6) (b : BitVec 6) (c : BitVec 6) (k1en : BitVec 1)
  /-- vld, R312: Unit-stride vector load with conversion by type. -/
  | vldUnit (v : BitVec 6) (s : BitVec 5) (k : BitVec 3) (ty : BitVec 3)
  /-- vld, R312: Vector load with a scalar byte stride. -/
  | vldStrided (v : BitVec 6) (s : BitVec 5) (x : BitVec 5) (k : BitVec 3) (ty : BitVec 3)
  /-- vld, R312: Gather load indexed by a vector. -/
  | vldGather (v : BitVec 6) (s : BitVec 5) (x : BitVec 5) (k : BitVec 3) (ty : BitVec 3)
  /-- vst, R312: Unit-stride vector store. -/
  | vstUnit (v : BitVec 6) (s : BitVec 5) (k : BitVec 3) (ty : BitVec 3)
  /-- vst, R312: Strided vector store. -/
  | vstStrided (v : BitVec 6) (s : BitVec 5) (x : BitVec 5) (k : BitVec 3) (ty : BitVec 3)
  /-- vst, R312: Scatter store indexed by a vector. -/
  | vstScatter (v : BitVec 6) (s : BitVec 5) (x : BitVec 5) (k : BitVec 3) (ty : BitVec 3)
  /-- vldd, R318: Loads described elements into lanes, parking on EMPTY blocks. -/
  | vldd (v : BitVec 6) (s : BitVec 5) (x : BitVec 5) (k : BitVec 3)
  /-- vstd, R319: Writes whole VLF D-blocks from lanes, with a computed SCL. -/
  | vstd (v : BitVec 6) (s : BitVec 5) (x : BitVec 5) (k : BitVec 3)
  /-- vstdp, R320: Read-modify-write of the selected elements of D-blocks. -/
  | vstdp (v : BitVec 6) (s : BitVec 5) (x : BitVec 5) (k : BitVec 3)
  /-- vqnt.peb7, R321: Quantises two registers into one PEB7 block. -/
  | vqntPeb7 (v : BitVec 6) (s : BitVec 5)
  /-- vqnt.peb3, R321: Quantises four registers into one PEB3 block. -/
  | vqntPeb3 (v : BitVec 6) (s : BitVec 5)
  /-- acc, R353: Accumulates 32 lanes into consecutive plain elements as home requests. -/
  | acc (v : BitVec 6) (s : BitVec 5) (k : BitVec 3) (ty : BitVec 3)
  /-- acc.d, R354: Accumulates lanes into described elements. -/
  | accD (v : BitVec 6) (s : BitVec 5) (x : BitVec 5) (k : BitVec 3)
  /-- sbind, R323: Binds a vector register to a stream engine by a parameter record. -/
  | sbind (v : BitVec 6) (a : BitVec 5)
  /-- sunbind, R327: Releases a stream binding, completing its writes first. -/
  | sunbind (v : BitVec 6)
  /-- sstat, R327: Reads a binding's status into a scalar. -/
  | sstat (v : BitVec 6) (a : BitVec 5)
  /-- mma, R257: Tile multiply-accumulate in a fixed sum order, one rounding per group. -/
  | mma (d : BitVec 4) (a : BitVec 4) (b : BitVec 4)
  /-- mma.dc, R256: Multiply-accumulate with an ACC32 operand down-converted to bfloat16. -/
  | mmaDc (d : BitVec 4) (a : BitVec 4) (b : BitVec 4) (h : BitVec 1)
  /-- mmab, R259: Sixteen independent 8×8 block products. -/
  | mmab (d : BitVec 4) (a : BitVec 4) (b : BitVec 4) (part : BitVec 2)
  /-- mmas, R260: Structured-sparse multiply-accumulate with a metadata tile. -/
  | mmas (d : BitVec 4) (a : BitVec 4) (b : BitVec 4) (c : BitVec 4)
  /-- maddt, R261: Element-wise tile add. -/
  | maddt (d : BitVec 4) (a : BitVec 4) (b : BitVec 4)
  /-- msubt, R261: Element-wise tile subtract. -/
  | msubt (d : BitVec 4) (a : BitVec 4) (b : BitVec 4)
  /-- mscl, R261: Scales a tile by a scalar. -/
  | mscl (d : BitVec 4) (a : BitVec 4) (s : BitVec 5)
  /-- mzero, R261: Zeroes a tile and sets its tag. -/
  | mzero (d : BitVec 4) (tag : BitVec 4)
  /-- mcvt, R262: Converts a tile between tags. -/
  | mcvt (d : BitVec 4) (a : BitVec 4) (h : BitVec 3) (tag : BitVec 4)
  /-- mtrn, R263: Transposes a tile. -/
  | mtrn (d : BitVec 4) (a : BitVec 4) (h : BitVec 1)
  /-- mchol, R268: Serialising L·D·Lᵀ factorisation with pivot regularisation. -/
  | mchol (d : BitVec 4) (a : BitVec 4)
  /-- mtrsv, R269: Serialising triangular or diagonal solve of a vector against a factored tile. -/
  | mtrsv (v : BitVec 6) (a : BitVec 4) (mode : BitVec 2)
  /-- mstat, R272: Writes a tile's status into a scalar. -/
  | mstat (d : BitVec 5) (a : BitVec 4)
  /-- twin, R271: Sets the tile window to an immediate count. -/
  | twinImm (count : BitVec 5)
  /-- twin, R271: Sets the tile window to a count held in a scalar. -/
  | twinReg (a : BitVec 5)
  /-- mldt, R264: Loads 32 rows into a tile and sets its tag. -/
  | mldt (d : BitVec 4) (s : BitVec 5) (stride : BitVec 5) (tag : BitVec 4)
  /-- mstt, R265: Stores the 32 rows of a tile. -/
  | mstt (d : BitVec 4) (s : BitVec 5) (stride : BitVec 5) (tag : BitVec 4)
  /-- cpy, R333: Starts a bulk copy on the copy engine and returns its id. -/
  | cpy (d : BitVec 5) (a : BitVec 5) (b : BitVec 5) (c : BitVec 5)
  /-- cpyt, R334: Starts a copy of 32 rows into a tile of the issuing slot. -/
  | cpyt (d : BitVec 5) (a : BitVec 5) (b : BitVec 5) (c : BitVec 5)
  /-- cpym, R334: Starts a multicast copy of 32 rows into the tiles of several cores. -/
  | cpym (d : BitVec 5) (a : BitVec 5) (b : BitVec 5) (c : BitVec 5)
  /-- ibx.recv, R340: Takes the slot's oldest inbox message, parking until one arrives. -/
  | ibxRecv (d : BitVec 5) (a : BitVec 5)
  /-- ibx.try, R340: Takes the slot's oldest inbox message, if any, without parking. -/
  | ibxTry (d : BitVec 5) (a : BitVec 5)
  /-- swpout, R343: Queues a swap-out request for a page. -/
  | swpout (d : BitVec 5) (a : BitVec 5) (b : BitVec 5) (c : BitVec 5)
  /-- swpin, R343: Queues a swap-in request and sets T in the PTE. -/
  | swpin (d : BitVec 5) (a : BitVec 5) (b : BitVec 5) (c : BitVec 5)
  /-- swpstat, R345: Reads a status, pushes to the free-page ring, reads the ring occupancy, sends a page notice or recalls a page, as s[a] selects. -/
  | swpstat (d : BitVec 5) (a : BitVec 5) (b : BitVec 5)
  /-- c.vadd, R63: Compact form of vadd vd, vd, vb. -/
  | cVadd (d : BitVec 5) (b : BitVec 5) (m : BitVec 1)
  /-- c.vsub, R63: Compact vsub. -/
  | cVsub (d : BitVec 5) (b : BitVec 5) (m : BitVec 1)
  /-- c.vand, R63: Compact vand. -/
  | cVand (d : BitVec 5) (b : BitVec 5) (m : BitVec 1)
  /-- c.vor, R63: Compact vor. -/
  | cVor (d : BitVec 5) (b : BitVec 5) (m : BitVec 1)
  /-- c.vxor, R63: Compact vxor. -/
  | cVxor (d : BitVec 5) (b : BitVec 5) (m : BitVec 1)
  /-- c.vshl, R63: Compact vshl. -/
  | cVshl (d : BitVec 5) (b : BitVec 5) (m : BitVec 1)
  /-- c.vshr, R63: Compact vshr. -/
  | cVshr (d : BitVec 5) (b : BitVec 5) (m : BitVec 1)
  /-- c.vmin, R63: Compact vmin. -/
  | cVmin (d : BitVec 5) (b : BitVec 5) (m : BitVec 1)
  /-- c.vmax, R63: Compact vmax. -/
  | cVmax (d : BitVec 5) (b : BitVec 5) (m : BitVec 1)
  /-- c.fadd, R63: Compact fadd. -/
  | cFadd (d : BitVec 5) (b : BitVec 5) (m : BitVec 1)
  /-- c.fsub, R63: Compact fsub. -/
  | cFsub (d : BitVec 5) (b : BitVec 5) (m : BitVec 1)
  /-- c.fmul, R63: Compact fmul. -/
  | cFmul (d : BitVec 5) (b : BitVec 5) (m : BitVec 1)
  /-- c.fmin, R63: Compact fmin. -/
  | cFmin (d : BitVec 5) (b : BitVec 5) (m : BitVec 1)
  /-- c.fmax, R63: Compact fmax. -/
  | cFmax (d : BitVec 5) (b : BitVec 5) (m : BitVec 1)
  /-- c.fneg, R63: Compact fneg vd, vb. -/
  | cFneg (d : BitVec 5) (b : BitVec 5) (m : BitVec 1)
  /-- c.fabs, R63: Compact fabs vd, vb. -/
  | cFabs (d : BitVec 5) (b : BitVec 5) (m : BitVec 1)
  /-- flushr, R371: Performs the residual flush of the slot's launch, invalidates the accumulated units, then takes any accumulate fault. -/
  | flushr
  /-- ifence, R173: Waits for the slot's stores to reach the cluster cache, then invalidates the core's instruction cache and the slot's fetch buffer. -/
  | ifence
  /-- sync, R147: Passes if JOIN is zero; otherwise the frame goes WAITING and the slot goes idle. -/
  | sync
  /-- tend, R148: Ends the task: frees its frame, then pops a local continuation, ends a root, or decrements the parent's JOIN. -/
  | tend
  /-- yield, R149: Task boundary that ends the slot's issue turn, or pushes an unstarted entry under a drain. -/
  | yield
  /-- rett, R425: Returns from the handler of the current level, performing a pending access if one is recorded. -/
  | rett
  /-- replay, R426: Performs again the faulting access of the level's deferred-fault record. -/
  | replay
  /-- wfi, R427: Consumes the slot's event latch, or parks until the latch is set. -/
  | wfi
  /-- R104: A launch record consumed from a host queue is checked, given an id and a journal entry, and placed or held for resources. -/
  | launchCommand
  /-- R429: A DRAIN command stops task hand-out for the target launch and begins its pre-emption. -/
  | drainCommand
  /-- R432: A RESUME command names a drained launch and its image to reload. -/
  | resumeCommand
  /-- R116: An ABORT command stops every task of the target and ends it FENCED. -/
  | abortCommand
  /-- R105: A held launch receives its resources; its root frame is built and pushed, and the entry goes to PLACED. -/
  | admissionGrant
  /-- R432: Once every domain cluster can supply scratch, the image is restored, its entries pushed and its messages requeued. -/
  | resumeReload
  /-- R100: A host write of a queue's producer index, discarded with OVF on overflow. -/
  | qpiWrite
  /-- R99: A write of a queue's configuration; enabling resets PI and CI, and disabling stops consumption. -/
  | qcfgWrite
  /-- R114: A host write of JREL frees journal entries for reuse. -/
  | jrelWrite
  /-- R95: A write of a host window entry, which firmware refuses if it overlaps a sealed region. -/
  | hostWindowWrite
  /-- R214: A write of a register that has no row of its own stores its writable fields as that register's map gives. -/
  | registerWrite
  /-- R276: A BANKCFG write is checked and converts each bank whose mode changes. -/
  | bankcfgWrite
  /-- R292: A DOMn write moves homes: old homes write dirty bytes back and drop lines, and requests are remapped. -/
  | domWrite
  /-- R289: A HSEL write selects the storage variant, checked against the active M-dies. -/
  | hselWrite
  /-- R157: A PTBR write changes the root of the slot's ASID for every later walk. -/
  | ptbrWrite
  /-- R96: A host read through BAR2 is served at the home slice, or returns all ones through an invalid window. -/
  | hostBar2Read
  /-- R96: A host write through BAR2 is served at the home slice, or dropped through an invalid or read-only window. -/
  | hostBar2Write
  /-- R110: Returns part of the device identity certificate chain. -/
  | getCert
  /-- R109: Returns a signed report over the firmware digest, SVN, serial number, capability record and a nonce. -/
  | attest
  /-- R109: Seals an ASID with an encrypted session secret. -/
  | sealCmd
  /-- R109: Recalls and zeroes the owned regions, erases the secret and draws a new storage key. -/
  | unsealCmd
  /-- R111: Assigns 2 MiB regions to a sealed ASID and invalidates the overlapping host windows. -/
  | sealRange
  /-- R109: Makes an ASID live with a page-table root and a new storage key. -/
  | asidSet
  /-- R109: Makes an ASID not live. -/
  | asidClear
  /-- R464: Sets the device-wide supervisor trap vector. -/
  | stvecSet
  /-- R141: Opens a donation queue for a launch and returns its handle. -/
  | dqOpen
  /-- R141: Closes a donation queue, discards its descriptors and advances its generation. -/
  | dqClose
  /-- R437: Returns the fenced clusters, dies, link ports and flash ports. -/
  | fenceStatus
  /-- R438: Halts a slot, or every slot of a C-die, after draining its pipe. -/
  | dbgHalt
  /-- R438: Releases a halt. -/
  | dbgRun
  /-- R438: Issues one instruction of a halted slot, then halts it again. -/
  | dbgStep
  /-- R438: Reads a slot's register aperture. -/
  | dbgRead
  /-- R438: Writes a slot's register aperture. -/
  | dbgWrite
  /-- R438: Sets break-to-halt. -/
  | dbgCfg
  /-- R463: Returns the telemetry record. -/
  | telem
  /-- R462: Caps the wide duty of a C-die. -/
  | thrSet
  /-- R462: Management command with the effect of a function-level reset. -/
  | fnReset
  /-- R462: Management command that performs a conventional reset. -/
  | devReset
  /-- R119: A PLDM firmware-update transfer stores a new image, which takes effect at the next conventional reset. -/
  | firmwareUpdate
  /-- R119: In RECOVERY, a replacement image received over MCTP is verified and stored. -/
  | recoveryImage
  /-- R462: A PLDM Type 0 discovery request is answered. -/
  | pldmDiscovery
  /-- R462: A PLDM Type 2 request reads a numeric sensor. -/
  | pldmSensorRead
  /-- R118: Reset or power-on runs the boot ROM and firmware boot, ending in READY, BOOT_FAIL or RECOVERY. -/
  | conventionalReset
  /-- R117: A PCIe FLR halts every slot and engine, disables the queues and turns non-final journal entries to FENCED. -/
  | functionLevelReset
  /-- R461: Over-temperature or over-current stops every clock and turns off the core rails. -/
  | thermalTrip
  /-- R460: Every 100 µs firmware tests the triggers and lowers a C-die's wide duty by 4. -/
  | throttleTest
  /-- R460: After 10 ms with no trigger, the wide duty is raised by 4. -/
  | throttleRelax
  /-- R437: An uncorrectable failure fences a cluster, C-die, M-die, link or flash port and faults the affected launches. -/
  | containmentFence
  /-- R437: An uncorrectable error in a home slice or its stack poisons the affected grain. -/
  | homeSoftError
  /-- R435: Every period, a cluster's lease agent renews its leases with one heartbeat to each home. -/
  | leaseHeartbeat
  /-- R436: A write lease with no heartbeat for 16 periods reverts and poisons its grain. -/
  | writeLeaseExpiry
  /-- R436: An expired read lease makes the holding home drop the remote grain. -/
  | readLeaseExpiry
  /-- R364: A residual entry whose age reaches RAGE is sent as a must-accept request. -/
  | residualAgeExpiry
  /-- R360: Every 256 clk each home starts a new window of per-core, per-grain acceptance counts. -/
  | quotaWindowStart
  /-- R434: A launch quiescent for 100 µs has its earliest parked slot withdrawn and trapped with QWAIT. -/
  | qwait
  /-- R433: When every pool-holding slot of a core is parked on a window request, the head request traps to the supervisor. -/
  | winDeadlock
  /-- R433: After 1024 clk with no pool space released, WIN_DEADLOCK is raised again. -/
  | winDeadlockRetry
  /-- R429: When the drain limit expires, the slots still running are force-saved. -/
  | drainLimitExpiry
  /-- R430: A remaining slot of a draining launch is read into a save area of the image. -/
  | forcedSave
  /-- R429: After the saves, copies and flushes, the launch image is written, resources are released and the entry goes DRAINED or SAVED. -/
  | drainFinish
  /-- R456: A completed launch waits for its engines, writes back, writes its completion record, goes COMPLETE and releases its resources. -/
  | launchRetire
  /-- R136: An idle slot's steal engine probes the levels in order for an eligible entry. -/
  | probePass
  /-- R139: After the frame is read and the tiles copied, the thief resumes or starts the taken task. -/
  | thiefResume
  /-- R139: A work notice reaches an idle engine and ends its wait. -/
  | workNotice
  /-- R139: 1024 clk after a fruitless pass, the engine starts again at level 1. -/
  | stealWaitExpiry
  /-- R420: Once earlier instructions complete, a trap enters the user or supervisor handler, or ends the launch. -/
  | trapEntry
  /-- R192: A long-latency result arrives and is held until its shadow ends. -/
  | shadowResultArrival
  /-- R195: A wide instruction completes in queue order, writes its destinations and ORs its flags into FLG. -/
  | wideCompletion
  /-- R160: A page walk ends and its final PTE is classified: translation, park, swap-in start or PAGE. -/
  | walkCompletion
  /-- R167: A page notice reaches a wait table, which wakes its slots for that page in arrival order. -/
  | pageNotice
  /-- R299: The swap engine sets T, recalls the page, encrypts and writes the record, then writes the swapped PTE. -/
  | swapOut
  /-- R300: The swap engine reads and checks a record, writes the destination page, releases and flips the PTE. -/
  | swapIn
  /-- R301: A drive completes a Read, Write, Flush or deallocate, and a failure ends the swap as R301 gives. -/
  | nvmeCompletion
  /-- R335: Copied bytes or tile rows are written at a receiver and, with BAR, counted at its barrier object. -/
  | copyArrival
  /-- R336: A copy ends and posts COPY_DONE with its status, when asked or on error. -/
  | copyCompletion
  /-- R325: A stream engine reads elements of a read stream into its buffer, or waits on an EMPTY block. -/
  | streamFetch
  /-- R324: A stream engine performs the writes of appended vectors, writing described blocks whole. -/
  | streamWrite
  /-- R360: A home receives an accumulate request and accepts, merges or refuses it under the quota. -/
  | accumulateRequest
  /-- R362: A home's answer returns to the core; a refused addend merges into a residual entry, and the flags enter FLG. -/
  | accumulateAnswer
  /-- R360: A pending write-queue entry is applied to the home's array. -/
  | writeQueueApply
  /-- R348: An atomic is read, computed and written in one step at its point of serialisation. -/
  | atomicRequest
  /-- R369: A release marker reaches a home, which confirms the core's request count. -/
  | releaseMarker
  /-- R285: A write-back arrives and the receiving level merges the masked bytes. -/
  | writeBack
  /-- R284: The cluster directory sends invalidations for a grain and counts the answers before granting ownership. -/
  | ownershipRequest
  /-- R284: A core's acknowledgement of an invalidation is counted once, and ownership is granted when all have answered. -/
  | invalidationAck
  /-- R283: An L1 eviction notice, carrying dirty data, updates the directory entry. -/
  | evictionNotice
  /-- R293: A request returned with remap status is reissued to the new home in issue order. -/
  | remapReturn
  /-- R296: A read of a remote grain is served at the owner's home and cached under a read lease. -/
  | peerReadRequest
  /-- R296: A write to a peer page reaches the owner's home, which acknowledges it. -/
  | peerWrite
  /-- R296: The owner's acknowledgement of a remote write reaches the issuing core. -/
  | remoteWriteAck
  /-- R296: A system-scope acquire's notice makes a home slice drop its earlier remote grains and answer. -/
  | acquireDropNotice
  /-- R151: A receiving device accepts a donated descriptor into its queue, or rejects it. -/
  | donationReceive
  /-- R151: A DONATE_REJECT or DONATE_BUSY reply reaches the sender's inbox. -/
  | donationReply
  /-- R387: A store leaves the core's shared store buffer and becomes visible to the other cores of its cluster. -/
  | storeBufferLeave
  /-- R197: A core whose slots are all idle or parked enters the CSLP depth, and leaves it when a slot becomes ready. -/
  | coreSleep
  /-- R169: An instruction-cache line requested on a miss arrives from the cluster cache or beyond, and the waiting slot becomes ready to issue again. -/
  | instructionCacheFill
  /-- R117: Loss of power to the module discards every state of the device. -/
  | powerLoss
  /-- R104: A command consumed from a host queue whose KIND is not 1–4 receives a journal entry that goes from ACCEPTED to FAULTED with reason 0x01. -/
  | unknownKindCommand
  /-- R99: The device cannot read a queue's ring, so it sets QSTAT.ADDR and stops the queue. -/
  | ringReadFailure
deriving DecidableEq, Repr

end Sys2Proof
end

