-- ==== Sys2Proof/WellFormed.lean ====
section
/-!
DEFINITION. Which instructions have an encoding of their own: the checks on single fields that chapter 03 and the
instruction descriptions make (R61, R66, R67, R68, R69). Each check carries the name under which the decoder rejects
the encoding that breaks it.
-/
namespace Sys2Proof

/-- Why a word is no instruction. Every reason makes the machine raise ILL (R69). -/
inductive DecodeError where
  /-- fewer bytes than the instruction's length (R58) -/
  | truncated
  /-- the halfword 0x0000 (R64) -/
  | zeroHalfword
  /-- a reserved major opcode (R65) -/
  | reservedMajor
  /-- a function, selector, condition or mode code that no list defines (R65) -/
  | reservedFunction
  /-- a nonzero bit in a reserved or zero field (R61, R69) -/
  | reservedField
  /-- a nonzero la where R72 forbids one -/
  | lookahead
  /-- scope codes 5 to 7 (R19), or a scope beside ord 0 (R68) -/
  | reservedScope
  /-- a type, kind, tag or conversion code that the description does not define (R66, R67) -/
  | reservedKind
  /-- a field value outside the range its use allows (R61, R69) -/
  | operandRange
  /-- a special-register id outside the table of R185 -/
  | undefinedSpecialRegister
deriving DecidableEq, Repr

/-- The ids of the table of R185. -/
def srDefined (id : Nat) : Bool :=
  id ≤ 0x00B || (0x010 ≤ id && id ≤ 0x016) || (0x018 ≤ id && id ≤ 0x01B) || (0x100 ≤ id && id ≤ 0x10E)

/-- The first check of the list that fails, if any. -/
def firstFailure : List (Bool × DecodeError) → Option DecodeError
  | [] => none
  | (true, _) :: rest => firstFailure rest
  | (false, e) :: _ => some e

/-- The checks of one instruction, in the order the decoder makes them. -/
def Instr.checks : Instr → List (Bool × DecodeError)
  | .bext _ _ len1 pos => [(decide (pos.toNat + len1.toNat < 64), .operandRange)]
  | .bins _ _ len1 pos => [(decide (pos.toNat + len1.toNat < 64), .operandRange)]
  | .mfs _ sr => [(decide (srDefined sr.toNat = true), .undefinedSpecialRegister)]
  | .mts _ sr => [(decide (srDefined sr.toNat = true), .undefinedSpecialRegister)]
  | .mtsset _ sr => [(decide (srDefined sr.toNat = true), .undefinedSpecialRegister)]
  | .mtsclr _ sr => [(decide (srDefined sr.toNat = true), .undefinedSpecialRegister)]
  | .ldaD _ _ scope _ => [(decide (scope.toNat < 5), .reservedScope)]
  | .ldaW _ _ scope _ => [(decide (scope.toNat < 5), .reservedScope)]
  | .stlD _ _ scope => [(decide (scope.toNat < 5), .reservedScope)]
  | .stlW _ _ scope => [(decide (scope.toNat < 5), .reservedScope)]
  | .amoAdd _ _ _ scope ord _ => [(decide (scope.toNat < 5), .reservedScope), (decide ((ord.toNat = 0 → scope.toNat = 0)), .reservedScope)]
  | .amoAnd _ _ _ scope ord _ => [(decide (scope.toNat < 5), .reservedScope), (decide ((ord.toNat = 0 → scope.toNat = 0)), .reservedScope)]
  | .amoOr _ _ _ scope ord _ => [(decide (scope.toNat < 5), .reservedScope), (decide ((ord.toNat = 0 → scope.toNat = 0)), .reservedScope)]
  | .amoXor _ _ _ scope ord _ => [(decide (scope.toNat < 5), .reservedScope), (decide ((ord.toNat = 0 → scope.toNat = 0)), .reservedScope)]
  | .amoMin _ _ _ scope ord _ => [(decide (scope.toNat < 5), .reservedScope), (decide ((ord.toNat = 0 → scope.toNat = 0)), .reservedScope)]
  | .amoMax _ _ _ scope ord _ => [(decide (scope.toNat < 5), .reservedScope), (decide ((ord.toNat = 0 → scope.toNat = 0)), .reservedScope)]
  | .amoMinu _ _ _ scope ord _ => [(decide (scope.toNat < 5), .reservedScope), (decide ((ord.toNat = 0 → scope.toNat = 0)), .reservedScope)]
  | .amoMaxu _ _ _ scope ord _ => [(decide (scope.toNat < 5), .reservedScope), (decide ((ord.toNat = 0 → scope.toNat = 0)), .reservedScope)]
  | .amoSwp _ _ _ scope ord _ => [(decide (scope.toNat < 5), .reservedScope), (decide ((ord.toNat = 0 → scope.toNat = 0)), .reservedScope)]
  | .cas _ _ _ scope ord _ => [(decide (scope.toNat < 5), .reservedScope), (decide ((ord.toNat = 0 → scope.toNat = 0)), .reservedScope)]
  | .fence scope kind => [(decide (scope.toNat < 5), .reservedScope), (decide (kind.toNat ≠ 0), .reservedKind)]
  | .wbr _ _ scope => [(decide (scope.toNat < 5), .reservedScope)]
  | .invr _ _ scope => [(decide (scope.toNat < 5), .reservedScope)]
  | .flr _ _ scope => [(decide (scope.toNat < 5), .reservedScope)]
  | .vcmpEq d _ _ _ => [(decide (d.toNat < 8), .operandRange)]
  | .vcmpNe d _ _ _ => [(decide (d.toNat < 8), .operandRange)]
  | .vcmpLt d _ _ _ => [(decide (d.toNat < 8), .operandRange)]
  | .vcmpGe d _ _ _ => [(decide (d.toNat < 8), .operandRange)]
  | .vcmpLtu d _ _ _ => [(decide (d.toNat < 8), .operandRange)]
  | .vcmpGeu d _ _ _ => [(decide (d.toNat < 8), .operandRange)]
  | .vslideup _ _ b _ => [(decide (b.toNat < 32), .operandRange)]
  | .vslidedn _ _ b _ => [(decide (b.toNat < 32), .operandRange)]
  | .vbcast _ a cv => [(decide (a.toNat < 32), .operandRange), (decide (cv.toNat < 2), .reservedKind)]
  | .vins _ a b cv => [(decide (a.toNat < 32), .operandRange), (decide (b.toNat < 32), .operandRange), (decide (cv.toNat < 2), .reservedKind)]
  | .vext d _ b cv => [(decide (d.toNat < 32), .operandRange), (decide (b.toNat < 32), .operandRange), (decide (cv.toNat < 2), .reservedKind)]
  | .fcmpEq d _ _ _ => [(decide (d.toNat < 8), .operandRange)]
  | .fcmpLt d _ _ _ => [(decide (d.toNat < 8), .operandRange)]
  | .fcmpLe d _ _ _ => [(decide (d.toNat < 8), .operandRange)]
  | .fcmpUn d _ _ _ => [(decide (d.toNat < 8), .operandRange)]
  | .fscl _ _ b _ => [(decide (b.toNat < 32), .operandRange)]
  | .kand d a b => [(decide (d.toNat < 8), .operandRange), (decide (a.toNat < 8), .operandRange), (decide (b.toNat < 8), .operandRange)]
  | .kor d a b => [(decide (d.toNat < 8), .operandRange), (decide (a.toNat < 8), .operandRange), (decide (b.toNat < 8), .operandRange)]
  | .kxor d a b => [(decide (d.toNat < 8), .operandRange), (decide (a.toNat < 8), .operandRange), (decide (b.toNat < 8), .operandRange)]
  | .knot d a => [(decide (d.toNat < 8), .operandRange), (decide (a.toNat < 8), .operandRange)]
  | .kfs d a => [(decide (d.toNat < 8), .operandRange), (decide (a.toNat < 32), .operandRange)]
  | .ksf d a => [(decide (d.toNat < 32), .operandRange), (decide (a.toNat < 8), .operandRange)]
  | .vwinImm count cls => [(decide (count.toNat ≤ 64), .operandRange), (decide (cls.toNat ≤ 15), .operandRange)]
  | .vwinReg d a => [(decide (d.toNat < 32), .operandRange), (decide (a.toNat < 32), .operandRange)]
  | .acc _ _ _ ty => [(decide (ty.toNat < 4), .reservedKind)]
  | .mmas _ _ b _ => [(decide (b.toNat % 2 = 0), .operandRange)]
  | .mzero _ tag => [(decide (tag.toNat < 6), .reservedKind)]
  | .mcvt _ _ _ tag => [(decide (tag.toNat < 3), .reservedKind)]
  | .twinImm count => [(decide (count.toNat ≤ 16), .operandRange)]
  | .mldt _ _ _ tag => [(decide (tag.toNat < 6), .reservedKind)]
  | .mstt _ _ _ tag => [(decide (tag.toNat < 6), .reservedKind)]
  | .cVadd d b m => [(decide (¬ (d.toNat = 0 ∧ b.toNat = 0 ∧ m.toNat = 0)), .zeroHalfword)]
  | .add _ _ _ => []
  | .sub _ _ _ => []
  | .and _ _ _ => []
  | .or _ _ _ => []
  | .xor _ _ _ => []
  | .andn _ _ _ => []
  | .orn _ _ _ => []
  | .shl _ _ _ => []
  | .shr _ _ _ => []
  | .sar _ _ _ => []
  | .rol _ _ _ => []
  | .ror _ _ _ => []
  | .mul _ _ _ => []
  | .mulh _ _ _ _ => []
  | .mulhu _ _ _ _ => []
  | .div _ _ _ _ => []
  | .divu _ _ _ _ => []
  | .rem _ _ _ _ => []
  | .remu _ _ _ _ => []
  | .min _ _ _ => []
  | .max _ _ _ => []
  | .minu _ _ _ => []
  | .maxu _ _ _ => []
  | .slt _ _ _ => []
  | .sltu _ _ _ => []
  | .seq _ _ _ => []
  | .sel _ _ _ => []
  | .clz _ _ => []
  | .ctz _ _ => []
  | .popc _ _ => []
  | .brev _ _ => []
  | .bswap _ _ => []
  | .sextb _ _ => []
  | .sexth _ _ => []
  | .sextw _ _ => []
  | .addi _ _ _ => []
  | .andi _ _ _ => []
  | .ori _ _ _ => []
  | .xori _ _ _ => []
  | .slti _ _ _ => []
  | .sltiu _ _ _ => []
  | .muli _ _ _ => []
  | .shli _ _ _ => []
  | .shri _ _ _ => []
  | .sari _ _ _ => []
  | .lui _ _ => []
  | .adpc _ _ => []
  | .beq _ _ _ => []
  | .bne _ _ _ => []
  | .blt _ _ _ => []
  | .bge _ _ _ => []
  | .bltu _ _ _ => []
  | .bgeu _ _ _ => []
  | .jal _ _ => []
  | .jalr _ _ _ => []
  | .ldb _ _ _ _ => []
  | .ldbu _ _ _ _ => []
  | .ldh _ _ _ _ => []
  | .ldhu _ _ _ _ => []
  | .ldw _ _ _ _ => []
  | .ldwu _ _ _ _ => []
  | .ldd _ _ _ _ => []
  | .stb _ _ _ => []
  | .sth _ _ _ => []
  | .stw _ _ _ => []
  | .std _ _ _ => []
  | .lde _ _ _ => []
  | .ldx _ _ _ => []
  | .stf _ _ => []
  | .sto _ _ => []
  | .ldeTry _ _ _ => []
  | .ldxTry _ _ _ => []
  | .stfTry _ _ _ => []
  | .accsI32 _ _ => []
  | .accsI64 _ _ => []
  | .accsF32 _ _ => []
  | .accsF64 _ _ => []
  | .drain _ => []
  | .barInit _ _ => []
  | .barArv _ _ => []
  | .barDrop _ _ => []
  | .barExp _ _ => []
  | .barWait _ _ => []
  | .barWaitTry _ _ _ => []
  | .fpub _ _ => []
  | .spawn _ _ => []
  | .syncTry _ => []
  | .launch _ _ => []
  | .donate _ _ => []
  | .dtake _ _ _ => []
  | .dtakeTry _ _ _ => []
  | .dqstat _ _ => []
  | .trap _ => []
  | .brk _ => []
  | .tlbi _ => []
  | .tlbia _ => []
  | .vadd _ _ _ _ => []
  | .vsub _ _ _ _ => []
  | .vmul _ _ _ _ => []
  | .vmulh _ _ _ _ => []
  | .vand _ _ _ _ => []
  | .vor _ _ _ _ => []
  | .vxor _ _ _ _ => []
  | .vandn _ _ _ _ => []
  | .vshl _ _ _ _ => []
  | .vshr _ _ _ _ => []
  | .vsar _ _ _ _ => []
  | .vmin _ _ _ _ => []
  | .vmax _ _ _ _ => []
  | .vminu _ _ _ _ => []
  | .vmaxu _ _ _ _ => []
  | .vsel _ _ _ _ => []
  | .vredadd _ _ _ => []
  | .vredmin _ _ _ => []
  | .vredmax _ _ _ => []
  | .vperm _ _ _ _ => []
  | .vmov _ _ _ => []
  | .fadd _ _ _ _ => []
  | .fsub _ _ _ _ => []
  | .fmul _ _ _ _ => []
  | .fdiv _ _ _ _ => []
  | .fsqrt _ _ _ => []
  | .fmin _ _ _ _ => []
  | .fmax _ _ _ _ => []
  | .fabs _ _ _ => []
  | .fneg _ _ _ => []
  | .fclass _ _ _ => []
  | .fround _ _ _ => []
  | .fcvtFi _ _ _ => []
  | .fcvtIf _ _ _ => []
  | .fredsum _ _ _ => []
  | .fredmax _ _ _ => []
  | .fredmin _ _ _ => []
  | .fdot _ _ _ _ => []
  | .ffma _ _ _ _ _ => []
  | .ffms _ _ _ _ _ => []
  | .fnma _ _ _ _ _ => []
  | .vldUnit _ _ _ _ => []
  | .vldStrided _ _ _ _ _ => []
  | .vldGather _ _ _ _ _ => []
  | .vstUnit _ _ _ _ => []
  | .vstStrided _ _ _ _ _ => []
  | .vstScatter _ _ _ _ _ => []
  | .vldd _ _ _ _ => []
  | .vstd _ _ _ _ => []
  | .vstdp _ _ _ _ => []
  | .vqntPeb7 _ _ => []
  | .vqntPeb3 _ _ => []
  | .accD _ _ _ _ => []
  | .sbind _ _ => []
  | .sunbind _ => []
  | .sstat _ _ => []
  | .mma _ _ _ => []
  | .mmaDc _ _ _ _ => []
  | .mmab _ _ _ _ => []
  | .maddt _ _ _ => []
  | .msubt _ _ _ => []
  | .mscl _ _ _ => []
  | .mtrn _ _ _ => []
  | .mchol _ _ => []
  | .mtrsv _ _ _ => []
  | .mstat _ _ => []
  | .twinReg _ => []
  | .cpy _ _ _ _ => []
  | .cpyt _ _ _ _ => []
  | .cpym _ _ _ _ => []
  | .ibxRecv _ _ => []
  | .ibxTry _ _ => []
  | .swpout _ _ _ _ => []
  | .swpin _ _ _ _ => []
  | .swpstat _ _ _ => []
  | .cVsub _ _ _ => []
  | .cVand _ _ _ => []
  | .cVor _ _ _ => []
  | .cVxor _ _ _ => []
  | .cVshl _ _ _ => []
  | .cVshr _ _ _ => []
  | .cVmin _ _ _ => []
  | .cVmax _ _ _ => []
  | .cFadd _ _ _ => []
  | .cFsub _ _ _ => []
  | .cFmul _ _ _ => []
  | .cFmin _ _ _ => []
  | .cFmax _ _ _ => []
  | .cFneg _ _ _ => []
  | .cFabs _ _ _ => []
  | .flushr => []
  | .ifence => []
  | .sync => []
  | .tend => []
  | .yield => []
  | .rett => []
  | .replay => []
  | .wfi => []
  | .launchCommand => []
  | .drainCommand => []
  | .resumeCommand => []
  | .abortCommand => []
  | .admissionGrant => []
  | .resumeReload => []
  | .qpiWrite => []
  | .qcfgWrite => []
  | .jrelWrite => []
  | .hostWindowWrite => []
  | .registerWrite => []
  | .bankcfgWrite => []
  | .domWrite => []
  | .hselWrite => []
  | .ptbrWrite => []
  | .hostBar2Read => []
  | .hostBar2Write => []
  | .getCert => []
  | .attest => []
  | .sealCmd => []
  | .unsealCmd => []
  | .sealRange => []
  | .asidSet => []
  | .asidClear => []
  | .stvecSet => []
  | .dqOpen => []
  | .dqClose => []
  | .fenceStatus => []
  | .dbgHalt => []
  | .dbgRun => []
  | .dbgStep => []
  | .dbgRead => []
  | .dbgWrite => []
  | .dbgCfg => []
  | .telem => []
  | .thrSet => []
  | .fnReset => []
  | .devReset => []
  | .firmwareUpdate => []
  | .recoveryImage => []
  | .pldmDiscovery => []
  | .pldmSensorRead => []
  | .conventionalReset => []
  | .functionLevelReset => []
  | .thermalTrip => []
  | .throttleTest => []
  | .throttleRelax => []
  | .containmentFence => []
  | .homeSoftError => []
  | .leaseHeartbeat => []
  | .writeLeaseExpiry => []
  | .readLeaseExpiry => []
  | .residualAgeExpiry => []
  | .quotaWindowStart => []
  | .qwait => []
  | .winDeadlock => []
  | .winDeadlockRetry => []
  | .drainLimitExpiry => []
  | .forcedSave => []
  | .drainFinish => []
  | .launchRetire => []
  | .probePass => []
  | .thiefResume => []
  | .workNotice => []
  | .stealWaitExpiry => []
  | .trapEntry => []
  | .shadowResultArrival => []
  | .wideCompletion => []
  | .walkCompletion => []
  | .pageNotice => []
  | .swapOut => []
  | .swapIn => []
  | .nvmeCompletion => []
  | .copyArrival => []
  | .copyCompletion => []
  | .streamFetch => []
  | .streamWrite => []
  | .accumulateRequest => []
  | .accumulateAnswer => []
  | .writeQueueApply => []
  | .atomicRequest => []
  | .releaseMarker => []
  | .writeBack => []
  | .ownershipRequest => []
  | .invalidationAck => []
  | .evictionNotice => []
  | .remapReturn => []
  | .peerReadRequest => []
  | .peerWrite => []
  | .remoteWriteAck => []
  | .acquireDropNotice => []
  | .donationReceive => []
  | .donationReply => []
  | .storeBufferLeave => []
  | .coreSleep => []
  | .instructionCacheFill => []
  | .powerLoss => []
  | .unknownKindCommand => []
  | .ringReadFailure => []

/-- The steps of the device's other agents have no encoding. -/
def Instr.isEvent : Instr → Bool
  | .launchCommand => true
  | .drainCommand => true
  | .resumeCommand => true
  | .abortCommand => true
  | .admissionGrant => true
  | .resumeReload => true
  | .qpiWrite => true
  | .qcfgWrite => true
  | .jrelWrite => true
  | .hostWindowWrite => true
  | .registerWrite => true
  | .bankcfgWrite => true
  | .domWrite => true
  | .hselWrite => true
  | .ptbrWrite => true
  | .hostBar2Read => true
  | .hostBar2Write => true
  | .getCert => true
  | .attest => true
  | .sealCmd => true
  | .unsealCmd => true
  | .sealRange => true
  | .asidSet => true
  | .asidClear => true
  | .stvecSet => true
  | .dqOpen => true
  | .dqClose => true
  | .fenceStatus => true
  | .dbgHalt => true
  | .dbgRun => true
  | .dbgStep => true
  | .dbgRead => true
  | .dbgWrite => true
  | .dbgCfg => true
  | .telem => true
  | .thrSet => true
  | .fnReset => true
  | .devReset => true
  | .firmwareUpdate => true
  | .recoveryImage => true
  | .pldmDiscovery => true
  | .pldmSensorRead => true
  | .conventionalReset => true
  | .functionLevelReset => true
  | .thermalTrip => true
  | .throttleTest => true
  | .throttleRelax => true
  | .containmentFence => true
  | .homeSoftError => true
  | .leaseHeartbeat => true
  | .writeLeaseExpiry => true
  | .readLeaseExpiry => true
  | .residualAgeExpiry => true
  | .quotaWindowStart => true
  | .qwait => true
  | .winDeadlock => true
  | .winDeadlockRetry => true
  | .drainLimitExpiry => true
  | .forcedSave => true
  | .drainFinish => true
  | .launchRetire => true
  | .probePass => true
  | .thiefResume => true
  | .workNotice => true
  | .stealWaitExpiry => true
  | .trapEntry => true
  | .shadowResultArrival => true
  | .wideCompletion => true
  | .walkCompletion => true
  | .pageNotice => true
  | .swapOut => true
  | .swapIn => true
  | .nvmeCompletion => true
  | .copyArrival => true
  | .copyCompletion => true
  | .streamFetch => true
  | .streamWrite => true
  | .accumulateRequest => true
  | .accumulateAnswer => true
  | .writeQueueApply => true
  | .atomicRequest => true
  | .releaseMarker => true
  | .writeBack => true
  | .ownershipRequest => true
  | .invalidationAck => true
  | .evictionNotice => true
  | .remapReturn => true
  | .peerReadRequest => true
  | .peerWrite => true
  | .remoteWriteAck => true
  | .acquireDropNotice => true
  | .donationReceive => true
  | .donationReply => true
  | .storeBufferLeave => true
  | .coreSleep => true
  | .instructionCacheFill => true
  | .powerLoss => true
  | .unknownKindCommand => true
  | .ringReadFailure => true
  | .add _ _ _ => false
  | .sub _ _ _ => false
  | .and _ _ _ => false
  | .or _ _ _ => false
  | .xor _ _ _ => false
  | .andn _ _ _ => false
  | .orn _ _ _ => false
  | .shl _ _ _ => false
  | .shr _ _ _ => false
  | .sar _ _ _ => false
  | .rol _ _ _ => false
  | .ror _ _ _ => false
  | .mul _ _ _ => false
  | .mulh _ _ _ _ => false
  | .mulhu _ _ _ _ => false
  | .div _ _ _ _ => false
  | .divu _ _ _ _ => false
  | .rem _ _ _ _ => false
  | .remu _ _ _ _ => false
  | .min _ _ _ => false
  | .max _ _ _ => false
  | .minu _ _ _ => false
  | .maxu _ _ _ => false
  | .slt _ _ _ => false
  | .sltu _ _ _ => false
  | .seq _ _ _ => false
  | .sel _ _ _ => false
  | .clz _ _ => false
  | .ctz _ _ => false
  | .popc _ _ => false
  | .brev _ _ => false
  | .bswap _ _ => false
  | .sextb _ _ => false
  | .sexth _ _ => false
  | .sextw _ _ => false
  | .addi _ _ _ => false
  | .andi _ _ _ => false
  | .ori _ _ _ => false
  | .xori _ _ _ => false
  | .slti _ _ _ => false
  | .sltiu _ _ _ => false
  | .muli _ _ _ => false
  | .shli _ _ _ => false
  | .shri _ _ _ => false
  | .sari _ _ _ => false
  | .bext _ _ _ _ => false
  | .bins _ _ _ _ => false
  | .lui _ _ => false
  | .adpc _ _ => false
  | .beq _ _ _ => false
  | .bne _ _ _ => false
  | .blt _ _ _ => false
  | .bge _ _ _ => false
  | .bltu _ _ _ => false
  | .bgeu _ _ _ => false
  | .jal _ _ => false
  | .jalr _ _ _ => false
  | .mfs _ _ => false
  | .mts _ _ => false
  | .mtsset _ _ => false
  | .mtsclr _ _ => false
  | .ldb _ _ _ _ => false
  | .ldbu _ _ _ _ => false
  | .ldh _ _ _ _ => false
  | .ldhu _ _ _ _ => false
  | .ldw _ _ _ _ => false
  | .ldwu _ _ _ _ => false
  | .ldd _ _ _ _ => false
  | .stb _ _ _ => false
  | .sth _ _ _ => false
  | .stw _ _ _ => false
  | .std _ _ _ => false
  | .ldaD _ _ _ _ => false
  | .ldaW _ _ _ _ => false
  | .stlD _ _ _ => false
  | .stlW _ _ _ => false
  | .lde _ _ _ => false
  | .ldx _ _ _ => false
  | .stf _ _ => false
  | .sto _ _ => false
  | .ldeTry _ _ _ => false
  | .ldxTry _ _ _ => false
  | .stfTry _ _ _ => false
  | .amoAdd _ _ _ _ _ _ => false
  | .amoAnd _ _ _ _ _ _ => false
  | .amoOr _ _ _ _ _ _ => false
  | .amoXor _ _ _ _ _ _ => false
  | .amoMin _ _ _ _ _ _ => false
  | .amoMax _ _ _ _ _ _ => false
  | .amoMinu _ _ _ _ _ _ => false
  | .amoMaxu _ _ _ _ _ _ => false
  | .amoSwp _ _ _ _ _ _ => false
  | .cas _ _ _ _ _ _ => false
  | .accsI32 _ _ => false
  | .accsI64 _ _ => false
  | .accsF32 _ _ => false
  | .accsF64 _ _ => false
  | .fence _ _ => false
  | .wbr _ _ _ => false
  | .invr _ _ _ => false
  | .flr _ _ _ => false
  | .drain _ => false
  | .barInit _ _ => false
  | .barArv _ _ => false
  | .barDrop _ _ => false
  | .barExp _ _ => false
  | .barWait _ _ => false
  | .barWaitTry _ _ _ => false
  | .fpub _ _ => false
  | .spawn _ _ => false
  | .syncTry _ => false
  | .launch _ _ => false
  | .donate _ _ => false
  | .dtake _ _ _ => false
  | .dtakeTry _ _ _ => false
  | .dqstat _ _ => false
  | .trap _ => false
  | .brk _ => false
  | .tlbi _ => false
  | .tlbia _ => false
  | .vadd _ _ _ _ => false
  | .vsub _ _ _ _ => false
  | .vmul _ _ _ _ => false
  | .vmulh _ _ _ _ => false
  | .vand _ _ _ _ => false
  | .vor _ _ _ _ => false
  | .vxor _ _ _ _ => false
  | .vandn _ _ _ _ => false
  | .vshl _ _ _ _ => false
  | .vshr _ _ _ _ => false
  | .vsar _ _ _ _ => false
  | .vmin _ _ _ _ => false
  | .vmax _ _ _ _ => false
  | .vminu _ _ _ _ => false
  | .vmaxu _ _ _ _ => false
  | .vsel _ _ _ _ => false
  | .vcmpEq _ _ _ _ => false
  | .vcmpNe _ _ _ _ => false
  | .vcmpLt _ _ _ _ => false
  | .vcmpGe _ _ _ _ => false
  | .vcmpLtu _ _ _ _ => false
  | .vcmpGeu _ _ _ _ => false
  | .vredadd _ _ _ => false
  | .vredmin _ _ _ => false
  | .vredmax _ _ _ => false
  | .vperm _ _ _ _ => false
  | .vslideup _ _ _ _ => false
  | .vslidedn _ _ _ _ => false
  | .vbcast _ _ _ => false
  | .vins _ _ _ _ => false
  | .vext _ _ _ _ => false
  | .vmov _ _ _ => false
  | .fadd _ _ _ _ => false
  | .fsub _ _ _ _ => false
  | .fmul _ _ _ _ => false
  | .fdiv _ _ _ _ => false
  | .fsqrt _ _ _ => false
  | .fmin _ _ _ _ => false
  | .fmax _ _ _ _ => false
  | .fabs _ _ _ => false
  | .fneg _ _ _ => false
  | .fcmpEq _ _ _ _ => false
  | .fcmpLt _ _ _ _ => false
  | .fcmpLe _ _ _ _ => false
  | .fcmpUn _ _ _ _ => false
  | .fclass _ _ _ => false
  | .fscl _ _ _ _ => false
  | .fround _ _ _ => false
  | .fcvtFi _ _ _ => false
  | .fcvtIf _ _ _ => false
  | .fredsum _ _ _ => false
  | .fredmax _ _ _ => false
  | .fredmin _ _ _ => false
  | .fdot _ _ _ _ => false
  | .kand _ _ _ => false
  | .kor _ _ _ => false
  | .kxor _ _ _ => false
  | .knot _ _ => false
  | .kfs _ _ => false
  | .ksf _ _ => false
  | .vwinImm _ _ => false
  | .vwinReg _ _ => false
  | .ffma _ _ _ _ _ => false
  | .ffms _ _ _ _ _ => false
  | .fnma _ _ _ _ _ => false
  | .vldUnit _ _ _ _ => false
  | .vldStrided _ _ _ _ _ => false
  | .vldGather _ _ _ _ _ => false
  | .vstUnit _ _ _ _ => false
  | .vstStrided _ _ _ _ _ => false
  | .vstScatter _ _ _ _ _ => false
  | .vldd _ _ _ _ => false
  | .vstd _ _ _ _ => false
  | .vstdp _ _ _ _ => false
  | .vqntPeb7 _ _ => false
  | .vqntPeb3 _ _ => false
  | .acc _ _ _ _ => false
  | .accD _ _ _ _ => false
  | .sbind _ _ => false
  | .sunbind _ => false
  | .sstat _ _ => false
  | .mma _ _ _ => false
  | .mmaDc _ _ _ _ => false
  | .mmab _ _ _ _ => false
  | .mmas _ _ _ _ => false
  | .maddt _ _ _ => false
  | .msubt _ _ _ => false
  | .mscl _ _ _ => false
  | .mzero _ _ => false
  | .mcvt _ _ _ _ => false
  | .mtrn _ _ _ => false
  | .mchol _ _ => false
  | .mtrsv _ _ _ => false
  | .mstat _ _ => false
  | .twinImm _ => false
  | .twinReg _ => false
  | .mldt _ _ _ _ => false
  | .mstt _ _ _ _ => false
  | .cpy _ _ _ _ => false
  | .cpyt _ _ _ _ => false
  | .cpym _ _ _ _ => false
  | .ibxRecv _ _ => false
  | .ibxTry _ _ => false
  | .swpout _ _ _ _ => false
  | .swpin _ _ _ _ => false
  | .swpstat _ _ _ => false
  | .cVadd _ _ _ => false
  | .cVsub _ _ _ => false
  | .cVand _ _ _ => false
  | .cVor _ _ _ => false
  | .cVxor _ _ _ => false
  | .cVshl _ _ _ => false
  | .cVshr _ _ _ => false
  | .cVmin _ _ _ => false
  | .cVmax _ _ _ => false
  | .cFadd _ _ _ => false
  | .cFsub _ _ _ => false
  | .cFmul _ _ _ => false
  | .cFmin _ _ _ => false
  | .cFmax _ _ _ => false
  | .cFneg _ _ _ => false
  | .cFabs _ _ _ => false
  | .flushr => false
  | .ifence => false
  | .sync => false
  | .tend => false
  | .yield => false
  | .rett => false
  | .replay => false
  | .wfi => false

/-- Well-formed: every check of the instruction holds. -/
def Instr.wf (i : Instr) : Bool := (firstFailure i.checks).isNone

end Sys2Proof
end

