-- ==== Sys2Proof/Decode.lean ====
section
/-!
DEFINITION. Decoding of halfwords into instructions (R58 to R71) and the encoder. Every layout of R60 is one
function from its fields to a word; the decoder cuts a word into the fields of its major opcode's layout (R60, R67)
and reads them by the lists of R65. Anything else is rejected under the name of the rule it breaks, and the machine
raises ILL for it (R69).
-/
namespace Sys2Proof

/-! ### The 32-bit layouts (R60, R67): bits 31 down to 7 as fields, then bit 6 down to 0 -/

/-- Layout S: la<31:28> fn<27:22> b<21:17> a<16:12> d<11:7> -/
def fmtS (la : BitVec 4) (fn : BitVec 6) (b : BitVec 5) (a : BitVec 5) (d : BitVec 5) (op : BitVec 7) : BitVec 32 :=
  la ++ fn ++ b ++ a ++ d ++ op

/-- Layout I: imm<31:17> a<16:12> d<11:7> -/
def fmtI (imm : BitVec 15) (a : BitVec 5) (d : BitVec 5) (op : BitVec 7) : BitVec 32 :=
  imm ++ a ++ d ++ op

/-- Layout Sh: sel<31:30> z<29:23> amt<22:17> a<16:12> d<11:7> -/
def fmtSh (sel : BitVec 2) (z : BitVec 7) (amt : BitVec 6) (a : BitVec 5) (d : BitVec 5) (op : BitVec 7) : BitVec 32 :=
  sel ++ z ++ amt ++ a ++ d ++ op

/-- Layout Bf: sel<31:31> z<30:29> pos<28:23> len1<22:17> a<16:12> d<11:7> -/
def fmtBf (sel : BitVec 1) (z : BitVec 2) (pos : BitVec 6) (len1 : BitVec 6) (a : BitVec 5) (d : BitVec 5) (op : BitVec 7) : BitVec 32 :=
  sel ++ z ++ pos ++ len1 ++ a ++ d ++ op

/-- Layout U: imm<31:12> d<11:7> -/
def fmtU (imm : BitVec 20) (d : BitVec 5) (op : BitVec 7) : BitVec 32 :=
  imm ++ d ++ op

/-- Layout B: off<31:20> cond<19:17> b<16:12> a<11:7> -/
def fmtB (off : BitVec 12) (cond : BitVec 3) (b : BitVec 5) (a : BitVec 5) (op : BitVec 7) : BitVec 32 :=
  off ++ cond ++ b ++ a ++ op

/-- Layout J: off<31:12> d<11:7> -/
def fmtJ (off : BitVec 20) (d : BitVec 5) (op : BitVec 7) : BitVec 32 :=
  off ++ d ++ op

/-- Layout Sr: sel<31:30> z<29:29> sr<28:17> a<16:12> d<11:7> -/
def fmtSr (sel : BitVec 2) (z : BitVec 1) (sr : BitVec 12) (a : BitVec 5) (d : BitVec 5) (op : BitVec 7) : BitVec 32 :=
  sel ++ z ++ sr ++ a ++ d ++ op

/-- Layout M: imm<31:21> la<20:17> a<16:12> d<11:7> -/
def fmtM (imm : BitVec 11) (la : BitVec 4) (a : BitVec 5) (d : BitVec 5) (op : BitVec 7) : BitVec 32 :=
  imm ++ la ++ a ++ d ++ op

/-- Layout O: fn<31:29> la<28:25> scope<24:22> b<21:17> a<16:12> d<11:7> -/
def fmtO (fn : BitVec 3) (la : BitVec 4) (scope : BitVec 3) (b : BitVec 5) (a : BitVec 5) (d : BitVec 5) (op : BitVec 7) : BitVec 32 :=
  fn ++ la ++ scope ++ b ++ a ++ d ++ op

/-- Layout A: sz<31:31> fn<30:27> ord<26:25> scope<24:22> b<21:17> a<16:12> d<11:7> -/
def fmtA (sz : BitVec 1) (fn : BitVec 4) (ord : BitVec 2) (scope : BitVec 3) (b : BitVec 5) (a : BitVec 5) (d : BitVec 5) (op : BitVec 7) : BitVec 32 :=
  sz ++ fn ++ ord ++ scope ++ b ++ a ++ d ++ op

/-- Layout Ss: la<31:28> fn<27:22> kind<21:20> sc<19:17> a<16:12> d<11:7> -/
def fmtSs (la : BitVec 4) (fn : BitVec 6) (kind : BitVec 2) (sc : BitVec 3) (a : BitVec 5) (d : BitVec 5) (op : BitVec 7) : BitVec 32 :=
  la ++ fn ++ kind ++ sc ++ a ++ d ++ op

/-- Layout Tr: sel<31:28> code<27:17> a<16:12> d<11:7> -/
def fmtTr (sel : BitVec 4) (code : BitVec 11) (a : BitVec 5) (d : BitVec 5) (op : BitVec 7) : BitVec 32 :=
  sel ++ code ++ a ++ d ++ op

/-- Layout V: fn<31:28> k<27:25> b<24:19> a<18:13> d<12:7> -/
def fmtV (fn : BitVec 4) (k : BitVec 3) (b : BitVec 6) (a : BitVec 6) (d : BitVec 6) (op : BitVec 7) : BitVec 32 :=
  fn ++ k ++ b ++ a ++ d ++ op

/-- Layout V4: k1en<31:31> c<30:25> b<24:19> a<18:13> d<12:7> -/
def fmtV4 (k1en : BitVec 1) (c : BitVec 6) (b : BitVec 6) (a : BitVec 6) (d : BitVec 6) (op : BitVec 7) : BitVec 32 :=
  k1en ++ c ++ b ++ a ++ d ++ op

/-- Layout VM: mode<31:29> ty<28:26> k<25:23> x<22:18> s<17:13> v<12:7> -/
def fmtVM (mode : BitVec 3) (ty : BitVec 3) (k : BitVec 3) (x : BitVec 5) (s : BitVec 5) (v : BitVec 6) (op : BitVec 7) : BitVec 32 :=
  mode ++ ty ++ k ++ x ++ s ++ v ++ op

/-- Layout SB: z1<31:28> fn<27:22> z2<21:18> a<17:13> v<12:7> -/
def fmtSB (z1 : BitVec 4) (fn : BitVec 6) (z2 : BitVec 4) (a : BitVec 5) (v : BitVec 6) (op : BitVec 7) : BitVec 32 :=
  z1 ++ fn ++ z2 ++ a ++ v ++ op

/-- Layout T: fn<31:27> kind<26:23> tc<22:19> tb<18:15> ta<14:11> td<10:7> -/
def fmtT (fn : BitVec 5) (kind : BitVec 4) (tc : BitVec 4) (tb : BitVec 4) (ta : BitVec 4) (td : BitVec 4) (op : BitVec 7) : BitVec 32 :=
  fn ++ kind ++ tc ++ tb ++ ta ++ td ++ op

/-- Layout TM: z<31:25> tag<24:21> stride<20:16> s<15:11> d<10:7> -/
def fmtTM (z : BitVec 7) (tag : BitVec 4) (stride : BitVec 5) (s : BitVec 5) (d : BitVec 4) (op : BitVec 7) : BitVec 32 :=
  z ++ tag ++ stride ++ s ++ d ++ op

/-- Layout C: fn<31:27> c<26:22> b<21:17> a<16:12> d<11:7> -/
def fmtC (fn : BitVec 5) (c : BitVec 5) (b : BitVec 5) (a : BitVec 5) (d : BitVec 5) (op : BitVec 7) : BitVec 32 :=
  fn ++ c ++ b ++ a ++ d ++ op

/-- Accept the instruction when the word's fixed fields (`cs`) and the instruction's own checks all hold. -/
def accept (cs : List (Bool × DecodeError)) (i : Instr) : Except DecodeError Instr :=
  match firstFailure (cs ++ i.checks) with
  | none => .ok i
  | some e => .error e

/-! ### The functions of each major opcode (R65) -/

/-- Major 0x00: add, sub, and, or, xor, andn, orn, shl, shr, sar, rol, ror, mul, mulh, mulhu, div, divu, rem, remu, min, max, minu, maxu, slt, sltu, seq, sel, clz, ctz, popc, brev, bswap, sextb, sexth, sextw. -/
def decMajor00 (la : BitVec 4) (fn : BitVec 6) (b : BitVec 5) (a : BitVec 5) (d : BitVec 5) : Except DecodeError Instr :=
  match fn.toNat with
  | 0 => accept [(decide (la = 0#4), .lookahead)] (.add d a b)
  | 1 => accept [(decide (la = 0#4), .lookahead)] (.sub d a b)
  | 2 => accept [(decide (la = 0#4), .lookahead)] (.and d a b)
  | 3 => accept [(decide (la = 0#4), .lookahead)] (.or d a b)
  | 4 => accept [(decide (la = 0#4), .lookahead)] (.xor d a b)
  | 5 => accept [(decide (la = 0#4), .lookahead)] (.andn d a b)
  | 6 => accept [(decide (la = 0#4), .lookahead)] (.orn d a b)
  | 7 => accept [(decide (la = 0#4), .lookahead)] (.shl d a b)
  | 8 => accept [(decide (la = 0#4), .lookahead)] (.shr d a b)
  | 9 => accept [(decide (la = 0#4), .lookahead)] (.sar d a b)
  | 10 => accept [(decide (la = 0#4), .lookahead)] (.rol d a b)
  | 11 => accept [(decide (la = 0#4), .lookahead)] (.ror d a b)
  | 12 => accept [(decide (la = 0#4), .lookahead)] (.mul d a b)
  | 13 => accept [] (.mulh d a b la)
  | 14 => accept [] (.mulhu d a b la)
  | 15 => accept [] (.div d a b la)
  | 16 => accept [] (.divu d a b la)
  | 17 => accept [] (.rem d a b la)
  | 18 => accept [] (.remu d a b la)
  | 19 => accept [(decide (la = 0#4), .lookahead)] (.min d a b)
  | 20 => accept [(decide (la = 0#4), .lookahead)] (.max d a b)
  | 21 => accept [(decide (la = 0#4), .lookahead)] (.minu d a b)
  | 22 => accept [(decide (la = 0#4), .lookahead)] (.maxu d a b)
  | 23 => accept [(decide (la = 0#4), .lookahead)] (.slt d a b)
  | 24 => accept [(decide (la = 0#4), .lookahead)] (.sltu d a b)
  | 25 => accept [(decide (la = 0#4), .lookahead)] (.seq d a b)
  | 26 => accept [(decide (la = 0#4), .lookahead)] (.sel d a b)
  | 27 => accept [(decide (la = 0#4), .lookahead), (decide (b = 0#5), .reservedField)] (.clz d a)
  | 28 => accept [(decide (la = 0#4), .lookahead), (decide (b = 0#5), .reservedField)] (.ctz d a)
  | 29 => accept [(decide (la = 0#4), .lookahead), (decide (b = 0#5), .reservedField)] (.popc d a)
  | 30 => accept [(decide (la = 0#4), .lookahead), (decide (b = 0#5), .reservedField)] (.brev d a)
  | 31 => accept [(decide (la = 0#4), .lookahead), (decide (b = 0#5), .reservedField)] (.bswap d a)
  | 32 => accept [(decide (la = 0#4), .lookahead), (decide (b = 0#5), .reservedField)] (.sextb d a)
  | 33 => accept [(decide (la = 0#4), .lookahead), (decide (b = 0#5), .reservedField)] (.sexth d a)
  | 34 => accept [(decide (la = 0#4), .lookahead), (decide (b = 0#5), .reservedField)] (.sextw d a)
  | _ => .error .reservedFunction

/-- Major 0x01: addi. -/
def decMajor01 (imm : BitVec 15) (a : BitVec 5) (d : BitVec 5) : Except DecodeError Instr :=
  accept [] (.addi d a imm)

/-- Major 0x02: andi. -/
def decMajor02 (imm : BitVec 15) (a : BitVec 5) (d : BitVec 5) : Except DecodeError Instr :=
  accept [] (.andi d a imm)

/-- Major 0x03: ori. -/
def decMajor03 (imm : BitVec 15) (a : BitVec 5) (d : BitVec 5) : Except DecodeError Instr :=
  accept [] (.ori d a imm)

/-- Major 0x04: xori. -/
def decMajor04 (imm : BitVec 15) (a : BitVec 5) (d : BitVec 5) : Except DecodeError Instr :=
  accept [] (.xori d a imm)

/-- Major 0x05: slti. -/
def decMajor05 (imm : BitVec 15) (a : BitVec 5) (d : BitVec 5) : Except DecodeError Instr :=
  accept [] (.slti d a imm)

/-- Major 0x06: sltiu. -/
def decMajor06 (imm : BitVec 15) (a : BitVec 5) (d : BitVec 5) : Except DecodeError Instr :=
  accept [] (.sltiu d a imm)

/-- Major 0x07: muli. -/
def decMajor07 (imm : BitVec 15) (a : BitVec 5) (d : BitVec 5) : Except DecodeError Instr :=
  accept [] (.muli d a imm)

/-- Major 0x08: shli, shri, sari. -/
def decMajor08 (sel : BitVec 2) (z : BitVec 7) (amt : BitVec 6) (a : BitVec 5) (d : BitVec 5) : Except DecodeError Instr :=
  match sel.toNat with
  | 0 => accept [(decide (z = 0#7), .reservedField)] (.shli d a amt)
  | 1 => accept [(decide (z = 0#7), .reservedField)] (.shri d a amt)
  | 2 => accept [(decide (z = 0#7), .reservedField)] (.sari d a amt)
  | _ => .error .reservedFunction

/-- Major 0x09: bext, bins. -/
def decMajor09 (sel : BitVec 1) (z : BitVec 2) (pos : BitVec 6) (len1 : BitVec 6) (a : BitVec 5) (d : BitVec 5) : Except DecodeError Instr :=
  match sel.toNat with
  | 0 => accept [(decide (z = 0#2), .reservedField)] (.bext d a len1 pos)
  | 1 => accept [(decide (z = 0#2), .reservedField)] (.bins d a len1 pos)
  | _ => .error .reservedFunction

/-- Major 0x0A: lui. -/
def decMajor0A (imm : BitVec 20) (d : BitVec 5) : Except DecodeError Instr :=
  accept [] (.lui d imm)

/-- Major 0x0B: adpc. -/
def decMajor0B (imm : BitVec 20) (d : BitVec 5) : Except DecodeError Instr :=
  accept [] (.adpc d imm)

/-- Major 0x0C: beq, bne, blt, bge, bltu, bgeu. -/
def decMajor0C (off : BitVec 12) (cond : BitVec 3) (b : BitVec 5) (a : BitVec 5) : Except DecodeError Instr :=
  match cond.toNat with
  | 0 => accept [] (.beq a b off)
  | 1 => accept [] (.bne a b off)
  | 2 => accept [] (.blt a b off)
  | 3 => accept [] (.bge a b off)
  | 4 => accept [] (.bltu a b off)
  | 5 => accept [] (.bgeu a b off)
  | _ => .error .reservedFunction

/-- Major 0x0D: jal. -/
def decMajor0D (off : BitVec 20) (d : BitVec 5) : Except DecodeError Instr :=
  accept [] (.jal d off)

/-- Major 0x0E: jalr. -/
def decMajor0E (imm : BitVec 15) (a : BitVec 5) (d : BitVec 5) : Except DecodeError Instr :=
  accept [] (.jalr d a imm)

/-- Major 0x0F: mfs, mts, mtsset, mtsclr. -/
def decMajor0F (sel : BitVec 2) (z : BitVec 1) (sr : BitVec 12) (a : BitVec 5) (d : BitVec 5) : Except DecodeError Instr :=
  match sel.toNat with
  | 0 => accept [(decide (z = 0#1), .reservedField), (decide (a = 0#5), .reservedField)] (.mfs d sr)
  | 1 => accept [(decide (z = 0#1), .reservedField), (decide (d = 0#5), .reservedField)] (.mts a sr)
  | 2 => accept [(decide (z = 0#1), .reservedField), (decide (d = 0#5), .reservedField)] (.mtsset a sr)
  | 3 => accept [(decide (z = 0#1), .reservedField), (decide (d = 0#5), .reservedField)] (.mtsclr a sr)
  | _ => .error .reservedFunction

/-- Major 0x10: ldb. -/
def decMajor10 (imm : BitVec 11) (la : BitVec 4) (a : BitVec 5) (d : BitVec 5) : Except DecodeError Instr :=
  accept [] (.ldb d a la imm)

/-- Major 0x11: ldbu. -/
def decMajor11 (imm : BitVec 11) (la : BitVec 4) (a : BitVec 5) (d : BitVec 5) : Except DecodeError Instr :=
  accept [] (.ldbu d a la imm)

/-- Major 0x12: ldh. -/
def decMajor12 (imm : BitVec 11) (la : BitVec 4) (a : BitVec 5) (d : BitVec 5) : Except DecodeError Instr :=
  accept [] (.ldh d a la imm)

/-- Major 0x13: ldhu. -/
def decMajor13 (imm : BitVec 11) (la : BitVec 4) (a : BitVec 5) (d : BitVec 5) : Except DecodeError Instr :=
  accept [] (.ldhu d a la imm)

/-- Major 0x14: ldw. -/
def decMajor14 (imm : BitVec 11) (la : BitVec 4) (a : BitVec 5) (d : BitVec 5) : Except DecodeError Instr :=
  accept [] (.ldw d a la imm)

/-- Major 0x15: ldwu. -/
def decMajor15 (imm : BitVec 11) (la : BitVec 4) (a : BitVec 5) (d : BitVec 5) : Except DecodeError Instr :=
  accept [] (.ldwu d a la imm)

/-- Major 0x16: ldd. -/
def decMajor16 (imm : BitVec 11) (la : BitVec 4) (a : BitVec 5) (d : BitVec 5) : Except DecodeError Instr :=
  accept [] (.ldd d a la imm)

/-- Major 0x17: stb. -/
def decMajor17 (imm : BitVec 11) (la : BitVec 4) (a : BitVec 5) (d : BitVec 5) : Except DecodeError Instr :=
  accept [(decide (la = 0#4), .lookahead)] (.stb d a imm)

/-- Major 0x18: sth. -/
def decMajor18 (imm : BitVec 11) (la : BitVec 4) (a : BitVec 5) (d : BitVec 5) : Except DecodeError Instr :=
  accept [(decide (la = 0#4), .lookahead)] (.sth d a imm)

/-- Major 0x19: stw. -/
def decMajor19 (imm : BitVec 11) (la : BitVec 4) (a : BitVec 5) (d : BitVec 5) : Except DecodeError Instr :=
  accept [(decide (la = 0#4), .lookahead)] (.stw d a imm)

/-- Major 0x1A: std. -/
def decMajor1A (imm : BitVec 11) (la : BitVec 4) (a : BitVec 5) (d : BitVec 5) : Except DecodeError Instr :=
  accept [(decide (la = 0#4), .lookahead)] (.std d a imm)

/-- Major 0x1B: lda.d, lda.w, stl.d, stl.w. -/
def decMajor1B (fn : BitVec 3) (la : BitVec 4) (scope : BitVec 3) (b : BitVec 5) (a : BitVec 5) (d : BitVec 5) : Except DecodeError Instr :=
  match fn.toNat with
  | 0 => accept [(decide (b = 0#5), .reservedField)] (.ldaD d a scope la)
  | 1 => accept [(decide (b = 0#5), .reservedField)] (.ldaW d a scope la)
  | 2 => accept [(decide (la = 0#4), .lookahead), (decide (d = 0#5), .reservedField)] (.stlD a b scope)
  | 3 => accept [(decide (la = 0#4), .lookahead), (decide (d = 0#5), .reservedField)] (.stlW a b scope)
  | _ => .error .reservedFunction

/-- Major 0x1C: lde, ldx, stf, sto, lde.try, ldx.try, stf.try. -/
def decMajor1C (fn : BitVec 3) (la : BitVec 4) (scope : BitVec 3) (b : BitVec 5) (a : BitVec 5) (d : BitVec 5) : Except DecodeError Instr :=
  match fn.toNat with
  | 0 => accept [(decide (scope = 0#3), .reservedField), (decide (b = 0#5), .reservedField)] (.lde d a la)
  | 1 => accept [(decide (scope = 0#3), .reservedField), (decide (b = 0#5), .reservedField)] (.ldx d a la)
  | 2 => accept [(decide (la = 0#4), .lookahead), (decide (scope = 0#3), .reservedField), (decide (d = 0#5), .reservedField)] (.stf a b)
  | 3 => accept [(decide (la = 0#4), .lookahead), (decide (scope = 0#3), .reservedField), (decide (d = 0#5), .reservedField)] (.sto a b)
  | 4 => accept [(decide (la = 0#4), .lookahead), (decide (scope = 0#3), .reservedField)] (.ldeTry d a b)
  | 5 => accept [(decide (la = 0#4), .lookahead), (decide (scope = 0#3), .reservedField)] (.ldxTry d a b)
  | 6 => accept [(decide (la = 0#4), .lookahead), (decide (scope = 0#3), .reservedField)] (.stfTry d a b)
  | _ => .error .reservedFunction

/-- Major 0x1D: amo.add, amo.and, amo.or, amo.xor, amo.min, amo.max, amo.minu, amo.maxu, amo.swp, cas. -/
def decMajor1D (sz : BitVec 1) (fn : BitVec 4) (ord : BitVec 2) (scope : BitVec 3) (b : BitVec 5) (a : BitVec 5) (d : BitVec 5) : Except DecodeError Instr :=
  match fn.toNat with
  | 0 => accept [] (.amoAdd d a b scope ord sz)
  | 1 => accept [] (.amoAnd d a b scope ord sz)
  | 2 => accept [] (.amoOr d a b scope ord sz)
  | 3 => accept [] (.amoXor d a b scope ord sz)
  | 4 => accept [] (.amoMin d a b scope ord sz)
  | 5 => accept [] (.amoMax d a b scope ord sz)
  | 6 => accept [] (.amoMinu d a b scope ord sz)
  | 7 => accept [] (.amoMaxu d a b scope ord sz)
  | 8 => accept [] (.amoSwp d a b scope ord sz)
  | 9 => accept [] (.cas d a b scope ord sz)
  | _ => .error .reservedFunction

/-- Major 0x1E: accs.i32, accs.i64, accs.f32, accs.f64. -/
def decMajor1E (sz : BitVec 1) (fn : BitVec 4) (ord : BitVec 2) (scope : BitVec 3) (b : BitVec 5) (a : BitVec 5) (d : BitVec 5) : Except DecodeError Instr :=
  match fn.toNat with
  | 0 => accept [(decide (sz = 0#1), .reservedField), (decide (ord = 0#2), .reservedField), (decide (scope = 0#3), .reservedField), (decide (d = 0#5), .reservedField)] (.accsI32 a b)
  | 1 => accept [(decide (sz = 0#1), .reservedField), (decide (ord = 0#2), .reservedField), (decide (scope = 0#3), .reservedField), (decide (d = 0#5), .reservedField)] (.accsI64 a b)
  | 2 => accept [(decide (sz = 0#1), .reservedField), (decide (ord = 0#2), .reservedField), (decide (scope = 0#3), .reservedField), (decide (d = 0#5), .reservedField)] (.accsF32 a b)
  | 3 => accept [(decide (sz = 0#1), .reservedField), (decide (ord = 0#2), .reservedField), (decide (scope = 0#3), .reservedField), (decide (d = 0#5), .reservedField)] (.accsF64 a b)
  | _ => .error .reservedFunction

/-- Major 0x1F: fence, wbr, invr, flr, drain, bar.init, bar.arv, bar.drop, bar.exp, bar.wait, bar.wait.try, flushr, ifence. -/
def decMajor1F (la : BitVec 4) (fn : BitVec 6) (kind : BitVec 2) (sc : BitVec 3) (a : BitVec 5) (d : BitVec 5) : Except DecodeError Instr :=
  match fn.toNat with
  | 0 => accept [(decide (la = 0#4), .lookahead), (decide (a = 0#5), .reservedField), (decide (d = 0#5), .reservedField)] (.fence sc kind)
  | 1 => accept [(decide (la = 0#4), .lookahead), (decide (kind = 0#2), .reservedField), (decide (sc = 0#3), .reservedField), (decide (a = 0#5), .reservedField), (decide (d = 0#5), .reservedField)] (.flushr)
  | 2 => accept [(decide (la = 0#4), .lookahead), (decide (kind = 0#2), .reservedField)] (.wbr d a sc)
  | 3 => accept [(decide (la = 0#4), .lookahead), (decide (kind = 0#2), .reservedField)] (.invr d a sc)
  | 4 => accept [(decide (la = 0#4), .lookahead), (decide (kind = 0#2), .reservedField)] (.flr d a sc)
  | 5 => accept [(decide (la = 0#4), .lookahead), (decide (sc = 0#3), .reservedField), (decide (a = 0#5), .reservedField), (decide (d = 0#5), .reservedField)] (.drain kind)
  | 6 => accept [(decide (la = 0#4), .lookahead), (decide (kind = 0#2), .reservedField), (decide (sc = 0#3), .reservedField), (decide (a = 0#5), .reservedField), (decide (d = 0#5), .reservedField)] (.ifence)
  | 7 => accept [(decide (la = 0#4), .lookahead), (decide (d = 0#5), .reservedField)] (.barInit a (kind ++ sc))
  | 8 => accept [(decide (la = 0#4), .lookahead), (decide (kind = 0#2), .reservedField), (decide (sc = 0#3), .reservedField)] (.barArv d a)
  | 9 => accept [(decide (la = 0#4), .lookahead), (decide (kind = 0#2), .reservedField), (decide (sc = 0#3), .reservedField)] (.barDrop d a)
  | 10 => accept [(decide (la = 0#4), .lookahead), (decide (d = 0#5), .reservedField)] (.barExp a (kind ++ sc))
  | 11 => accept [(decide (la = 0#4), .lookahead), (decide (d = 0#5), .reservedField)] (.barWait a (kind ++ sc))
  | 12 => accept [(decide (la = 0#4), .lookahead)] (.barWaitTry d a (kind ++ sc))
  | _ => .error .reservedFunction

/-- Major 0x20: fpub, spawn, sync.try, launch, donate, dtake, dtake.try, dqstat, sync, tend, yield. -/
def decMajor20 (la : BitVec 4) (fn : BitVec 6) (b : BitVec 5) (a : BitVec 5) (d : BitVec 5) : Except DecodeError Instr :=
  match fn.toNat with
  | 0 => accept [(decide (la = 0#4), .lookahead), (decide (d = 0#5), .reservedField)] (.fpub a b)
  | 1 => accept [(decide (la = 0#4), .lookahead), (decide (d = 0#5), .reservedField)] (.spawn a b)
  | 2 => accept [(decide (la = 0#4), .lookahead), (decide (b = 0#5), .reservedField), (decide (a = 0#5), .reservedField), (decide (d = 0#5), .reservedField)] (.sync)
  | 3 => accept [(decide (la = 0#4), .lookahead), (decide (b = 0#5), .reservedField), (decide (a = 0#5), .reservedField)] (.syncTry d)
  | 4 => accept [(decide (la = 0#4), .lookahead), (decide (b = 0#5), .reservedField), (decide (a = 0#5), .reservedField), (decide (d = 0#5), .reservedField)] (.tend)
  | 5 => accept [(decide (la = 0#4), .lookahead), (decide (b = 0#5), .reservedField), (decide (a = 0#5), .reservedField), (decide (d = 0#5), .reservedField)] (.yield)
  | 6 => accept [(decide (la = 0#4), .lookahead), (decide (b = 0#5), .reservedField)] (.launch d a)
  | 7 => accept [(decide (la = 0#4), .lookahead), (decide (d = 0#5), .reservedField)] (.donate a b)
  | 8 => accept [(decide (la = 0#4), .lookahead)] (.dtake d a b)
  | 9 => accept [(decide (la = 0#4), .lookahead)] (.dtakeTry d a b)
  | 10 => accept [(decide (la = 0#4), .lookahead), (decide (b = 0#5), .reservedField)] (.dqstat d a)
  | _ => .error .reservedFunction

/-- Major 0x21: trap, brk, tlbi, tlbia, rett, replay, wfi. -/
def decMajor21 (sel : BitVec 4) (code : BitVec 11) (a : BitVec 5) (d : BitVec 5) : Except DecodeError Instr :=
  match sel.toNat with
  | 0 => accept [(decide (a = 0#5), .reservedField), (decide (d = 0#5), .reservedField)] (.trap code)
  | 1 => accept [(decide (code = 0#11), .reservedField), (decide (a = 0#5), .reservedField), (decide (d = 0#5), .reservedField)] (.rett)
  | 2 => accept [(decide (code = 0#11), .reservedField), (decide (a = 0#5), .reservedField), (decide (d = 0#5), .reservedField)] (.replay)
  | 3 => accept [(decide (a = 0#5), .reservedField), (decide (d = 0#5), .reservedField)] (.brk code)
  | 4 => accept [(decide (code = 0#11), .reservedField), (decide (a = 0#5), .reservedField), (decide (d = 0#5), .reservedField)] (.wfi)
  | 5 => accept [(decide (code = 0#11), .reservedField), (decide (d = 0#5), .reservedField)] (.tlbi a)
  | 6 => accept [(decide (code = 0#11), .reservedField), (decide (d = 0#5), .reservedField)] (.tlbia a)
  | _ => .error .reservedFunction

/-- Major 0x24: vadd, vsub, vmul, vmulh, vand, vor, vxor, vandn, vshl, vshr, vsar, vmin, vmax, vminu, vmaxu, vsel. -/
def decMajor24 (fn : BitVec 4) (k : BitVec 3) (b : BitVec 6) (a : BitVec 6) (d : BitVec 6) : Except DecodeError Instr :=
  match fn.toNat with
  | 0 => accept [] (.vadd d a b k)
  | 1 => accept [] (.vsub d a b k)
  | 2 => accept [] (.vmul d a b k)
  | 3 => accept [] (.vmulh d a b k)
  | 4 => accept [] (.vand d a b k)
  | 5 => accept [] (.vor d a b k)
  | 6 => accept [] (.vxor d a b k)
  | 7 => accept [] (.vandn d a b k)
  | 8 => accept [] (.vshl d a b k)
  | 9 => accept [] (.vshr d a b k)
  | 10 => accept [] (.vsar d a b k)
  | 11 => accept [] (.vmin d a b k)
  | 12 => accept [] (.vmax d a b k)
  | 13 => accept [] (.vminu d a b k)
  | 14 => accept [] (.vmaxu d a b k)
  | 15 => accept [] (.vsel d a b k)
  | _ => .error .reservedFunction

/-- Major 0x25: vcmp.eq, vcmp.ne, vcmp.lt, vcmp.ge, vcmp.ltu, vcmp.geu, vredadd, vredmin, vredmax, vperm, vslideup, vslidedn, vbcast, vins, vext, vmov. -/
def decMajor25 (fn : BitVec 4) (k : BitVec 3) (b : BitVec 6) (a : BitVec 6) (d : BitVec 6) : Except DecodeError Instr :=
  match fn.toNat with
  | 0 => accept [] (.vcmpEq d a b k)
  | 1 => accept [] (.vcmpNe d a b k)
  | 2 => accept [] (.vcmpLt d a b k)
  | 3 => accept [] (.vcmpGe d a b k)
  | 4 => accept [] (.vcmpLtu d a b k)
  | 5 => accept [] (.vcmpGeu d a b k)
  | 6 => accept [(decide (b = 0#6), .reservedField)] (.vredadd d a k)
  | 7 => accept [(decide (b = 0#6), .reservedField)] (.vredmin d a k)
  | 8 => accept [(decide (b = 0#6), .reservedField)] (.vredmax d a k)
  | 9 => accept [] (.vperm d a b k)
  | 10 => accept [] (.vslideup d a b k)
  | 11 => accept [] (.vslidedn d a b k)
  | 12 => accept [(decide (b = 0#6), .reservedField)] (.vbcast d a k)
  | 13 => accept [] (.vins d a b k)
  | 14 => accept [] (.vext d a b k)
  | 15 => accept [(decide (b = 0#6), .reservedField)] (.vmov d a k)
  | _ => .error .reservedFunction

/-- Major 0x26: fadd, fsub, fmul, fdiv, fsqrt, fmin, fmax, fabs, fneg, fcmp.eq, fcmp.lt, fcmp.le, fcmp.un, fclass, fscl, fround. -/
def decMajor26 (fn : BitVec 4) (k : BitVec 3) (b : BitVec 6) (a : BitVec 6) (d : BitVec 6) : Except DecodeError Instr :=
  match fn.toNat with
  | 0 => accept [] (.fadd d a b k)
  | 1 => accept [] (.fsub d a b k)
  | 2 => accept [] (.fmul d a b k)
  | 3 => accept [] (.fdiv d a b k)
  | 4 => accept [(decide (a = 0#6), .reservedField)] (.fsqrt d b k)
  | 5 => accept [] (.fmin d a b k)
  | 6 => accept [] (.fmax d a b k)
  | 7 => accept [(decide (a = 0#6), .reservedField)] (.fabs d b k)
  | 8 => accept [(decide (a = 0#6), .reservedField)] (.fneg d b k)
  | 9 => accept [] (.fcmpEq d a b k)
  | 10 => accept [] (.fcmpLt d a b k)
  | 11 => accept [] (.fcmpLe d a b k)
  | 12 => accept [] (.fcmpUn d a b k)
  | 13 => accept [(decide (a = 0#6), .reservedField)] (.fclass d b k)
  | 14 => accept [] (.fscl d a b k)
  | 15 => accept [(decide (a = 0#6), .reservedField)] (.fround d b k)
  | _ => .error .reservedFunction

/-- Major 0x27: fcvt.fi, fcvt.if, fredsum, fredmax, fredmin, fdot, kand, kor, kxor, knot, kfs, ksf, vwin, vwin. -/
def decMajor27 (fn : BitVec 4) (k : BitVec 3) (b : BitVec 6) (a : BitVec 6) (d : BitVec 6) : Except DecodeError Instr :=
  match fn.toNat with
  | 0 => accept [(decide (b = 0#6), .reservedField)] (.fcvtFi d a k)
  | 1 => accept [(decide (b = 0#6), .reservedField)] (.fcvtIf d a k)
  | 2 => accept [(decide (b = 0#6), .reservedField)] (.fredsum d a k)
  | 3 => accept [(decide (b = 0#6), .reservedField)] (.fredmax d a k)
  | 4 => accept [(decide (b = 0#6), .reservedField)] (.fredmin d a k)
  | 5 => accept [] (.fdot d a b k)
  | 6 => accept [(decide (k = 0#3), .reservedField)] (.kand d a b)
  | 7 => accept [(decide (k = 0#3), .reservedField)] (.kor d a b)
  | 8 => accept [(decide (k = 0#3), .reservedField)] (.kxor d a b)
  | 9 => accept [(decide (k = 0#3), .reservedField), (decide (b = 0#6), .reservedField)] (.knot d a)
  | 10 => accept [(decide (k = 0#3), .reservedField), (decide (b = 0#6), .reservedField)] (.kfs d a)
  | 11 => accept [(decide (k = 0#3), .reservedField), (decide (b = 0#6), .reservedField)] (.ksf d a)
  | 12 =>
    if k.extractLsb' 1 2 = 0#2 then accept [(decide (b = 0#6), .reservedField)] (.vwinImm ((k.extractLsb' 0 1) ++ d) a) else
    if k.extractLsb' 1 2 = 1#2 then accept [(decide (k = 2#3), .reservedField), (decide (b = 0#6), .reservedField)] (.vwinReg d a) else
    .error .reservedKind
  | _ => .error .reservedFunction

/-- Major 0x28: ffma. -/
def decMajor28 (k1en : BitVec 1) (c : BitVec 6) (b : BitVec 6) (a : BitVec 6) (d : BitVec 6) : Except DecodeError Instr :=
  accept [] (.ffma d a b c k1en)

/-- Major 0x29: ffms. -/
def decMajor29 (k1en : BitVec 1) (c : BitVec 6) (b : BitVec 6) (a : BitVec 6) (d : BitVec 6) : Except DecodeError Instr :=
  accept [] (.ffms d a b c k1en)

/-- Major 0x2A: fnma. -/
def decMajor2A (k1en : BitVec 1) (c : BitVec 6) (b : BitVec 6) (a : BitVec 6) (d : BitVec 6) : Except DecodeError Instr :=
  accept [] (.fnma d a b c k1en)

/-- Major 0x2C: vld, vld, vld. -/
def decMajor2C (mode : BitVec 3) (ty : BitVec 3) (k : BitVec 3) (x : BitVec 5) (s : BitVec 5) (v : BitVec 6) : Except DecodeError Instr :=
  match mode.toNat with
  | 0 => accept [(decide (x = 0#5), .reservedField)] (.vldUnit v s k ty)
  | 1 => accept [] (.vldStrided v s x k ty)
  | 2 => accept [] (.vldGather v s x k ty)
  | _ => .error .reservedFunction

/-- Major 0x2D: vst, vst, vst. -/
def decMajor2D (mode : BitVec 3) (ty : BitVec 3) (k : BitVec 3) (x : BitVec 5) (s : BitVec 5) (v : BitVec 6) : Except DecodeError Instr :=
  match mode.toNat with
  | 0 => accept [(decide (x = 0#5), .reservedField)] (.vstUnit v s k ty)
  | 1 => accept [] (.vstStrided v s x k ty)
  | 2 => accept [] (.vstScatter v s x k ty)
  | _ => .error .reservedFunction

/-- Major 0x2E: vldd, vstd, vstdp, vqnt.peb7, vqnt.peb3, acc, acc.d. -/
def decMajor2E (mode : BitVec 3) (ty : BitVec 3) (k : BitVec 3) (x : BitVec 5) (s : BitVec 5) (v : BitVec 6) : Except DecodeError Instr :=
  match mode.toNat with
  | 0 => accept [(decide (ty = 0#3), .reservedField)] (.vldd v s x k)
  | 1 => accept [(decide (ty = 0#3), .reservedField)] (.vstd v s x k)
  | 2 => accept [(decide (ty = 0#3), .reservedField)] (.vstdp v s x k)
  | 3 =>
    if ty = 0#3 then accept [(decide (k = 0#3), .reservedField), (decide (x = 0#5), .reservedField)] (.vqntPeb7 v s) else
    if ty = 1#3 then accept [(decide (k = 0#3), .reservedField), (decide (x = 0#5), .reservedField)] (.vqntPeb3 v s) else
    .error .reservedKind
  | 4 => accept [(decide (x = 0#5), .reservedField)] (.acc v s k ty)
  | 5 => accept [(decide (ty = 0#3), .reservedField)] (.accD v s x k)
  | _ => .error .reservedFunction

/-- Major 0x2F: sbind, sunbind, sstat. -/
def decMajor2F (z1 : BitVec 4) (fn : BitVec 6) (z2 : BitVec 4) (a : BitVec 5) (v : BitVec 6) : Except DecodeError Instr :=
  match fn.toNat with
  | 0 => accept [(decide (z1 = 0#4), .reservedField), (decide (z2 = 0#4), .reservedField)] (.sbind v a)
  | 1 => accept [(decide (z1 = 0#4), .reservedField), (decide (z2 = 0#4), .reservedField), (decide (a = 0#5), .reservedField)] (.sunbind v)
  | 2 => accept [(decide (z1 = 0#4), .reservedField), (decide (z2 = 0#4), .reservedField)] (.sstat v a)
  | _ => .error .reservedFunction

/-- Major 0x30: mma, mma.dc, mmab, mmas, maddt, msubt, mscl, mzero, mcvt, mtrn, mchol, mtrsv, mstat, twin, twin. -/
def decMajor30 (fn : BitVec 5) (kind : BitVec 4) (tc : BitVec 4) (tb : BitVec 4) (ta : BitVec 4) (td : BitVec 4) : Except DecodeError Instr :=
  match fn.toNat with
  | 0 =>
    if kind.extractLsb' 0 1 = 0#1 then accept [(decide (kind = 0#4), .reservedField), (decide (tc = 0#4), .reservedField)] (.mma td ta tb) else
    if kind.extractLsb' 0 1 = 1#1 then accept [(decide (kind.extractLsb' 2 2 = 0#2), .reservedField), (decide (tc = 0#4), .reservedField)] (.mmaDc td ta tb (kind.extractLsb' 1 1)) else
    .error .reservedKind
  | 1 => accept [(decide (kind.extractLsb' 2 2 = 0#2), .reservedField), (decide (tc = 0#4), .reservedField)] (.mmab td ta tb (kind.extractLsb' 0 2))
  | 2 => accept [(decide (kind = 0#4), .reservedField)] (.mmas td ta tb tc)
  | 3 => accept [(decide (kind = 0#4), .reservedField), (decide (tc = 0#4), .reservedField)] (.maddt td ta tb)
  | 4 => accept [(decide (kind = 0#4), .reservedField), (decide (tc = 0#4), .reservedField)] (.msubt td ta tb)
  | 5 => accept [(decide (kind = 0#4), .reservedField), (decide (tc.extractLsb' 1 3 = 0#3), .reservedField)] (.mscl td ta ((tc.extractLsb' 0 1) ++ tb))
  | 6 => accept [(decide (tc = 0#4), .reservedField), (decide (tb = 0#4), .reservedField), (decide (ta = 0#4), .reservedField)] (.mzero td kind)
  | 7 => accept [(decide (tc.extractLsb' 3 1 = 0#1), .reservedField), (decide (tb = 0#4), .reservedField)] (.mcvt td ta (tc.extractLsb' 0 3) kind)
  | 8 => accept [(decide (kind = 0#4), .reservedField), (decide (tc.extractLsb' 1 3 = 0#3), .reservedField), (decide (tb = 0#4), .reservedField)] (.mtrn td ta (tc.extractLsb' 0 1))
  | 9 => accept [(decide (kind = 0#4), .reservedField), (decide (tc = 0#4), .reservedField), (decide (tb = 0#4), .reservedField)] (.mchol td ta)
  | 10 => accept [(decide (kind.extractLsb' 2 2 = 0#2), .reservedField), (decide (tc.extractLsb' 2 2 = 0#2), .reservedField), (decide (tb = 0#4), .reservedField)] (.mtrsv ((tc.extractLsb' 0 2) ++ td) ta (kind.extractLsb' 0 2))
  | 11 => accept [(decide (kind = 0#4), .reservedField), (decide (tc.extractLsb' 1 3 = 0#3), .reservedField), (decide (tb = 0#4), .reservedField)] (.mstat ((tc.extractLsb' 0 1) ++ td) ta)
  | 12 =>
    if kind = 0#4 then accept [(decide (tc.extractLsb' 1 3 = 0#3), .reservedField), (decide (tb = 0#4), .reservedField), (decide (ta = 0#4), .reservedField)] (.twinImm ((tc.extractLsb' 0 1) ++ td)) else
    if kind = 1#4 then accept [(decide (tc.extractLsb' 1 3 = 0#3), .reservedField), (decide (tb = 0#4), .reservedField), (decide (td = 0#4), .reservedField)] (.twinReg ((tc.extractLsb' 0 1) ++ ta)) else
    .error .reservedKind
  | _ => .error .reservedFunction

/-- Major 0x31: mldt. -/
def decMajor31 (z : BitVec 7) (tag : BitVec 4) (stride : BitVec 5) (s : BitVec 5) (d : BitVec 4) : Except DecodeError Instr :=
  accept [(decide (z = 0#7), .reservedField)] (.mldt d s stride tag)

/-- Major 0x32: mstt. -/
def decMajor32 (z : BitVec 7) (tag : BitVec 4) (stride : BitVec 5) (s : BitVec 5) (d : BitVec 4) : Except DecodeError Instr :=
  accept [(decide (z = 0#7), .reservedField)] (.mstt d s stride tag)

/-- Major 0x33: cpy, cpyt, cpym, ibx.recv, ibx.try, swpout, swpin, swpstat. -/
def decMajor33 (fn : BitVec 5) (c : BitVec 5) (b : BitVec 5) (a : BitVec 5) (d : BitVec 5) : Except DecodeError Instr :=
  match fn.toNat with
  | 0 => accept [] (.cpy d a b c)
  | 1 => accept [] (.cpyt d a b c)
  | 2 => accept [] (.cpym d a b c)
  | 3 => accept [(decide (c = 0#5), .reservedField), (decide (b = 0#5), .reservedField)] (.ibxRecv d a)
  | 4 => accept [(decide (c = 0#5), .reservedField), (decide (b = 0#5), .reservedField)] (.ibxTry d a)
  | 5 => accept [] (.swpout d a b c)
  | 6 => accept [] (.swpin d a b c)
  | 7 => accept [(decide (c = 0#5), .reservedField)] (.swpstat d a b)
  | _ => .error .reservedFunction

/-- A 32-bit word, by its major opcode in bits 6 down to 1 (R60, R65). -/
def decodeWord (w : BitVec 32) : Except DecodeError Instr :=
  match (w.extractLsb' 0 7).toNat with
  | 0x01 => decMajor00 (w.extractLsb' 28 4) (w.extractLsb' 22 6) (w.extractLsb' 17 5) (w.extractLsb' 12 5) (w.extractLsb' 7 5)
  | 0x03 => decMajor01 (w.extractLsb' 17 15) (w.extractLsb' 12 5) (w.extractLsb' 7 5)
  | 0x05 => decMajor02 (w.extractLsb' 17 15) (w.extractLsb' 12 5) (w.extractLsb' 7 5)
  | 0x07 => decMajor03 (w.extractLsb' 17 15) (w.extractLsb' 12 5) (w.extractLsb' 7 5)
  | 0x09 => decMajor04 (w.extractLsb' 17 15) (w.extractLsb' 12 5) (w.extractLsb' 7 5)
  | 0x0B => decMajor05 (w.extractLsb' 17 15) (w.extractLsb' 12 5) (w.extractLsb' 7 5)
  | 0x0D => decMajor06 (w.extractLsb' 17 15) (w.extractLsb' 12 5) (w.extractLsb' 7 5)
  | 0x0F => decMajor07 (w.extractLsb' 17 15) (w.extractLsb' 12 5) (w.extractLsb' 7 5)
  | 0x11 => decMajor08 (w.extractLsb' 30 2) (w.extractLsb' 23 7) (w.extractLsb' 17 6) (w.extractLsb' 12 5) (w.extractLsb' 7 5)
  | 0x13 => decMajor09 (w.extractLsb' 31 1) (w.extractLsb' 29 2) (w.extractLsb' 23 6) (w.extractLsb' 17 6) (w.extractLsb' 12 5) (w.extractLsb' 7 5)
  | 0x15 => decMajor0A (w.extractLsb' 12 20) (w.extractLsb' 7 5)
  | 0x17 => decMajor0B (w.extractLsb' 12 20) (w.extractLsb' 7 5)
  | 0x19 => decMajor0C (w.extractLsb' 20 12) (w.extractLsb' 17 3) (w.extractLsb' 12 5) (w.extractLsb' 7 5)
  | 0x1B => decMajor0D (w.extractLsb' 12 20) (w.extractLsb' 7 5)
  | 0x1D => decMajor0E (w.extractLsb' 17 15) (w.extractLsb' 12 5) (w.extractLsb' 7 5)
  | 0x1F => decMajor0F (w.extractLsb' 30 2) (w.extractLsb' 29 1) (w.extractLsb' 17 12) (w.extractLsb' 12 5) (w.extractLsb' 7 5)
  | 0x21 => decMajor10 (w.extractLsb' 21 11) (w.extractLsb' 17 4) (w.extractLsb' 12 5) (w.extractLsb' 7 5)
  | 0x23 => decMajor11 (w.extractLsb' 21 11) (w.extractLsb' 17 4) (w.extractLsb' 12 5) (w.extractLsb' 7 5)
  | 0x25 => decMajor12 (w.extractLsb' 21 11) (w.extractLsb' 17 4) (w.extractLsb' 12 5) (w.extractLsb' 7 5)
  | 0x27 => decMajor13 (w.extractLsb' 21 11) (w.extractLsb' 17 4) (w.extractLsb' 12 5) (w.extractLsb' 7 5)
  | 0x29 => decMajor14 (w.extractLsb' 21 11) (w.extractLsb' 17 4) (w.extractLsb' 12 5) (w.extractLsb' 7 5)
  | 0x2B => decMajor15 (w.extractLsb' 21 11) (w.extractLsb' 17 4) (w.extractLsb' 12 5) (w.extractLsb' 7 5)
  | 0x2D => decMajor16 (w.extractLsb' 21 11) (w.extractLsb' 17 4) (w.extractLsb' 12 5) (w.extractLsb' 7 5)
  | 0x2F => decMajor17 (w.extractLsb' 21 11) (w.extractLsb' 17 4) (w.extractLsb' 12 5) (w.extractLsb' 7 5)
  | 0x31 => decMajor18 (w.extractLsb' 21 11) (w.extractLsb' 17 4) (w.extractLsb' 12 5) (w.extractLsb' 7 5)
  | 0x33 => decMajor19 (w.extractLsb' 21 11) (w.extractLsb' 17 4) (w.extractLsb' 12 5) (w.extractLsb' 7 5)
  | 0x35 => decMajor1A (w.extractLsb' 21 11) (w.extractLsb' 17 4) (w.extractLsb' 12 5) (w.extractLsb' 7 5)
  | 0x37 => decMajor1B (w.extractLsb' 29 3) (w.extractLsb' 25 4) (w.extractLsb' 22 3) (w.extractLsb' 17 5) (w.extractLsb' 12 5) (w.extractLsb' 7 5)
  | 0x39 => decMajor1C (w.extractLsb' 29 3) (w.extractLsb' 25 4) (w.extractLsb' 22 3) (w.extractLsb' 17 5) (w.extractLsb' 12 5) (w.extractLsb' 7 5)
  | 0x3B => decMajor1D (w.extractLsb' 31 1) (w.extractLsb' 27 4) (w.extractLsb' 25 2) (w.extractLsb' 22 3) (w.extractLsb' 17 5) (w.extractLsb' 12 5) (w.extractLsb' 7 5)
  | 0x3D => decMajor1E (w.extractLsb' 31 1) (w.extractLsb' 27 4) (w.extractLsb' 25 2) (w.extractLsb' 22 3) (w.extractLsb' 17 5) (w.extractLsb' 12 5) (w.extractLsb' 7 5)
  | 0x3F => decMajor1F (w.extractLsb' 28 4) (w.extractLsb' 22 6) (w.extractLsb' 20 2) (w.extractLsb' 17 3) (w.extractLsb' 12 5) (w.extractLsb' 7 5)
  | 0x41 => decMajor20 (w.extractLsb' 28 4) (w.extractLsb' 22 6) (w.extractLsb' 17 5) (w.extractLsb' 12 5) (w.extractLsb' 7 5)
  | 0x43 => decMajor21 (w.extractLsb' 28 4) (w.extractLsb' 17 11) (w.extractLsb' 12 5) (w.extractLsb' 7 5)
  | 0x49 => decMajor24 (w.extractLsb' 28 4) (w.extractLsb' 25 3) (w.extractLsb' 19 6) (w.extractLsb' 13 6) (w.extractLsb' 7 6)
  | 0x4B => decMajor25 (w.extractLsb' 28 4) (w.extractLsb' 25 3) (w.extractLsb' 19 6) (w.extractLsb' 13 6) (w.extractLsb' 7 6)
  | 0x4D => decMajor26 (w.extractLsb' 28 4) (w.extractLsb' 25 3) (w.extractLsb' 19 6) (w.extractLsb' 13 6) (w.extractLsb' 7 6)
  | 0x4F => decMajor27 (w.extractLsb' 28 4) (w.extractLsb' 25 3) (w.extractLsb' 19 6) (w.extractLsb' 13 6) (w.extractLsb' 7 6)
  | 0x51 => decMajor28 (w.extractLsb' 31 1) (w.extractLsb' 25 6) (w.extractLsb' 19 6) (w.extractLsb' 13 6) (w.extractLsb' 7 6)
  | 0x53 => decMajor29 (w.extractLsb' 31 1) (w.extractLsb' 25 6) (w.extractLsb' 19 6) (w.extractLsb' 13 6) (w.extractLsb' 7 6)
  | 0x55 => decMajor2A (w.extractLsb' 31 1) (w.extractLsb' 25 6) (w.extractLsb' 19 6) (w.extractLsb' 13 6) (w.extractLsb' 7 6)
  | 0x59 => decMajor2C (w.extractLsb' 29 3) (w.extractLsb' 26 3) (w.extractLsb' 23 3) (w.extractLsb' 18 5) (w.extractLsb' 13 5) (w.extractLsb' 7 6)
  | 0x5B => decMajor2D (w.extractLsb' 29 3) (w.extractLsb' 26 3) (w.extractLsb' 23 3) (w.extractLsb' 18 5) (w.extractLsb' 13 5) (w.extractLsb' 7 6)
  | 0x5D => decMajor2E (w.extractLsb' 29 3) (w.extractLsb' 26 3) (w.extractLsb' 23 3) (w.extractLsb' 18 5) (w.extractLsb' 13 5) (w.extractLsb' 7 6)
  | 0x5F => decMajor2F (w.extractLsb' 28 4) (w.extractLsb' 22 6) (w.extractLsb' 18 4) (w.extractLsb' 13 5) (w.extractLsb' 7 6)
  | 0x61 => decMajor30 (w.extractLsb' 27 5) (w.extractLsb' 23 4) (w.extractLsb' 19 4) (w.extractLsb' 15 4) (w.extractLsb' 11 4) (w.extractLsb' 7 4)
  | 0x63 => decMajor31 (w.extractLsb' 25 7) (w.extractLsb' 21 4) (w.extractLsb' 16 5) (w.extractLsb' 11 5) (w.extractLsb' 7 4)
  | 0x65 => decMajor32 (w.extractLsb' 25 7) (w.extractLsb' 21 4) (w.extractLsb' 16 5) (w.extractLsb' 11 5) (w.extractLsb' 7 4)
  | 0x67 => decMajor33 (w.extractLsb' 27 5) (w.extractLsb' 22 5) (w.extractLsb' 17 5) (w.extractLsb' 12 5) (w.extractLsb' 7 5)
  | _ => .error .reservedMajor

/-- The compact forms (R63), by op4. -/
def decCompact (m : BitVec 1) (b d : BitVec 5) (op4 : BitVec 4) : Except DecodeError Instr :=
  match op4.toNat with
  | 0 => accept [] (.cVadd d b m)
  | 1 => accept [] (.cVsub d b m)
  | 2 => accept [] (.cVand d b m)
  | 3 => accept [] (.cVor d b m)
  | 4 => accept [] (.cVxor d b m)
  | 5 => accept [] (.cVshl d b m)
  | 6 => accept [] (.cVshr d b m)
  | 7 => accept [] (.cVmin d b m)
  | 8 => accept [] (.cVmax d b m)
  | 9 => accept [] (.cFadd d b m)
  | 10 => accept [] (.cFsub d b m)
  | 11 => accept [] (.cFmul d b m)
  | 12 => accept [] (.cFmin d b m)
  | 13 => accept [] (.cFmax d b m)
  | 14 => accept [] (.cFneg d b m)
  | _ => accept [] (.cFabs d b m)

/-- The compact layout: m<15> vb<14:10> vd<9:5> op4<4:1> 0 (R63). -/
def fmtCompact (m : BitVec 1) (b d : BitVec 5) (op4 : BitVec 4) : BitVec 16 :=
  m ++ b ++ d ++ op4 ++ 0#1

/-- A halfword with bit 0 clear. -/
def decodeHalf (h : BitVec 16) : Except DecodeError Instr :=
  decCompact (h.extractLsb' 15 1) (h.extractLsb' 10 5) (h.extractLsb' 5 5) (h.extractLsb' 1 4)

/-- Reads one instruction from halfwords, lowest address first: the instruction and how many halfwords it takes. Bit 0
of the first halfword gives the length (R58). -/
def decodeHalves : List (BitVec 16) → Except DecodeError (Instr × Nat)
  | [] => .error .truncated
  | h :: rest =>
    if h.getLsbD 0 then
      match rest with
      | [] => .error .truncated
      | h2 :: _ =>
        match decodeWord (h2 ++ h) with
        | .ok i => .ok (i, 2)
        | .error e => .error e
    else
      match decodeHalf h with
      | .ok i => .ok (i, 1)
      | .error e => .error e

/-- Little-endian halfwords of a byte list; an odd last byte is left out (R58). -/
def halvesOfBytes : List (BitVec 8) → List (BitVec 16)
  | a :: b :: rest => (b ++ a) :: halvesOfBytes rest
  | _ => []

/-- The decoder, total on any bytes: the instruction and the bytes after it. -/
def decode (bs : List (BitVec 8)) : Except DecodeError (Instr × List (BitVec 8)) :=
  match decodeHalves (halvesOfBytes bs) with
  | .ok (i, n) => .ok (i, bs.drop (2 * n))
  | .error e => .error e

/-- The two halfwords of a word, the lower address first (R58). -/
def halvesOfWord (w : BitVec 32) : List (BitVec 16) :=
  [w.extractLsb' 0 16, w.extractLsb' 16 16]

/-- Little-endian bytes of a halfword. -/
def bytesOfHalf (h : BitVec 16) : List (BitVec 8) :=
  [h.extractLsb' 0 8, h.extractLsb' 8 8]

/-! ### The encoder: the halfwords of an instruction, from the encoding tables of chapters 03, 05 to 13 and 18 -/

/-- The halfwords of an instruction; a step of another agent has none. -/
def encode : Instr → List (BitVec 16)
  | .add d a b => halvesOfWord (fmtS 0#4 0#6 b a d 1#7)
  | .sub d a b => halvesOfWord (fmtS 0#4 1#6 b a d 1#7)
  | .and d a b => halvesOfWord (fmtS 0#4 2#6 b a d 1#7)
  | .or d a b => halvesOfWord (fmtS 0#4 3#6 b a d 1#7)
  | .xor d a b => halvesOfWord (fmtS 0#4 4#6 b a d 1#7)
  | .andn d a b => halvesOfWord (fmtS 0#4 5#6 b a d 1#7)
  | .orn d a b => halvesOfWord (fmtS 0#4 6#6 b a d 1#7)
  | .shl d a b => halvesOfWord (fmtS 0#4 7#6 b a d 1#7)
  | .shr d a b => halvesOfWord (fmtS 0#4 8#6 b a d 1#7)
  | .sar d a b => halvesOfWord (fmtS 0#4 9#6 b a d 1#7)
  | .rol d a b => halvesOfWord (fmtS 0#4 10#6 b a d 1#7)
  | .ror d a b => halvesOfWord (fmtS 0#4 11#6 b a d 1#7)
  | .mul d a b => halvesOfWord (fmtS 0#4 12#6 b a d 1#7)
  | .mulh d a b la => halvesOfWord (fmtS la 13#6 b a d 1#7)
  | .mulhu d a b la => halvesOfWord (fmtS la 14#6 b a d 1#7)
  | .div d a b la => halvesOfWord (fmtS la 15#6 b a d 1#7)
  | .divu d a b la => halvesOfWord (fmtS la 16#6 b a d 1#7)
  | .rem d a b la => halvesOfWord (fmtS la 17#6 b a d 1#7)
  | .remu d a b la => halvesOfWord (fmtS la 18#6 b a d 1#7)
  | .min d a b => halvesOfWord (fmtS 0#4 19#6 b a d 1#7)
  | .max d a b => halvesOfWord (fmtS 0#4 20#6 b a d 1#7)
  | .minu d a b => halvesOfWord (fmtS 0#4 21#6 b a d 1#7)
  | .maxu d a b => halvesOfWord (fmtS 0#4 22#6 b a d 1#7)
  | .slt d a b => halvesOfWord (fmtS 0#4 23#6 b a d 1#7)
  | .sltu d a b => halvesOfWord (fmtS 0#4 24#6 b a d 1#7)
  | .seq d a b => halvesOfWord (fmtS 0#4 25#6 b a d 1#7)
  | .sel d a b => halvesOfWord (fmtS 0#4 26#6 b a d 1#7)
  | .clz d a => halvesOfWord (fmtS 0#4 27#6 0#5 a d 1#7)
  | .ctz d a => halvesOfWord (fmtS 0#4 28#6 0#5 a d 1#7)
  | .popc d a => halvesOfWord (fmtS 0#4 29#6 0#5 a d 1#7)
  | .brev d a => halvesOfWord (fmtS 0#4 30#6 0#5 a d 1#7)
  | .bswap d a => halvesOfWord (fmtS 0#4 31#6 0#5 a d 1#7)
  | .sextb d a => halvesOfWord (fmtS 0#4 32#6 0#5 a d 1#7)
  | .sexth d a => halvesOfWord (fmtS 0#4 33#6 0#5 a d 1#7)
  | .sextw d a => halvesOfWord (fmtS 0#4 34#6 0#5 a d 1#7)
  | .addi d a imm => halvesOfWord (fmtI imm a d 3#7)
  | .andi d a imm => halvesOfWord (fmtI imm a d 5#7)
  | .ori d a imm => halvesOfWord (fmtI imm a d 7#7)
  | .xori d a imm => halvesOfWord (fmtI imm a d 9#7)
  | .slti d a imm => halvesOfWord (fmtI imm a d 11#7)
  | .sltiu d a imm => halvesOfWord (fmtI imm a d 13#7)
  | .muli d a imm => halvesOfWord (fmtI imm a d 15#7)
  | .shli d a amt => halvesOfWord (fmtSh 0#2 0#7 amt a d 17#7)
  | .shri d a amt => halvesOfWord (fmtSh 1#2 0#7 amt a d 17#7)
  | .sari d a amt => halvesOfWord (fmtSh 2#2 0#7 amt a d 17#7)
  | .bext d a len1 pos => halvesOfWord (fmtBf 0#1 0#2 pos len1 a d 19#7)
  | .bins d a len1 pos => halvesOfWord (fmtBf 1#1 0#2 pos len1 a d 19#7)
  | .lui d imm => halvesOfWord (fmtU imm d 21#7)
  | .adpc d imm => halvesOfWord (fmtU imm d 23#7)
  | .beq a b off => halvesOfWord (fmtB off 0#3 b a 25#7)
  | .bne a b off => halvesOfWord (fmtB off 1#3 b a 25#7)
  | .blt a b off => halvesOfWord (fmtB off 2#3 b a 25#7)
  | .bge a b off => halvesOfWord (fmtB off 3#3 b a 25#7)
  | .bltu a b off => halvesOfWord (fmtB off 4#3 b a 25#7)
  | .bgeu a b off => halvesOfWord (fmtB off 5#3 b a 25#7)
  | .jal d off => halvesOfWord (fmtJ off d 27#7)
  | .jalr d a imm => halvesOfWord (fmtI imm a d 29#7)
  | .mfs d sr => halvesOfWord (fmtSr 0#2 0#1 sr 0#5 d 31#7)
  | .mts a sr => halvesOfWord (fmtSr 1#2 0#1 sr a 0#5 31#7)
  | .mtsset a sr => halvesOfWord (fmtSr 2#2 0#1 sr a 0#5 31#7)
  | .mtsclr a sr => halvesOfWord (fmtSr 3#2 0#1 sr a 0#5 31#7)
  | .ldb d a la imm => halvesOfWord (fmtM imm la a d 33#7)
  | .ldbu d a la imm => halvesOfWord (fmtM imm la a d 35#7)
  | .ldh d a la imm => halvesOfWord (fmtM imm la a d 37#7)
  | .ldhu d a la imm => halvesOfWord (fmtM imm la a d 39#7)
  | .ldw d a la imm => halvesOfWord (fmtM imm la a d 41#7)
  | .ldwu d a la imm => halvesOfWord (fmtM imm la a d 43#7)
  | .ldd d a la imm => halvesOfWord (fmtM imm la a d 45#7)
  | .stb d a imm => halvesOfWord (fmtM imm 0#4 a d 47#7)
  | .sth d a imm => halvesOfWord (fmtM imm 0#4 a d 49#7)
  | .stw d a imm => halvesOfWord (fmtM imm 0#4 a d 51#7)
  | .std d a imm => halvesOfWord (fmtM imm 0#4 a d 53#7)
  | .ldaD d a scope la => halvesOfWord (fmtO 0#3 la scope 0#5 a d 55#7)
  | .ldaW d a scope la => halvesOfWord (fmtO 1#3 la scope 0#5 a d 55#7)
  | .stlD a b scope => halvesOfWord (fmtO 2#3 0#4 scope b a 0#5 55#7)
  | .stlW a b scope => halvesOfWord (fmtO 3#3 0#4 scope b a 0#5 55#7)
  | .lde d a la => halvesOfWord (fmtO 0#3 la 0#3 0#5 a d 57#7)
  | .ldx d a la => halvesOfWord (fmtO 1#3 la 0#3 0#5 a d 57#7)
  | .stf a b => halvesOfWord (fmtO 2#3 0#4 0#3 b a 0#5 57#7)
  | .sto a b => halvesOfWord (fmtO 3#3 0#4 0#3 b a 0#5 57#7)
  | .ldeTry d a b => halvesOfWord (fmtO 4#3 0#4 0#3 b a d 57#7)
  | .ldxTry d a b => halvesOfWord (fmtO 5#3 0#4 0#3 b a d 57#7)
  | .stfTry d a b => halvesOfWord (fmtO 6#3 0#4 0#3 b a d 57#7)
  | .amoAdd d a b scope ord sz => halvesOfWord (fmtA sz 0#4 ord scope b a d 59#7)
  | .amoAnd d a b scope ord sz => halvesOfWord (fmtA sz 1#4 ord scope b a d 59#7)
  | .amoOr d a b scope ord sz => halvesOfWord (fmtA sz 2#4 ord scope b a d 59#7)
  | .amoXor d a b scope ord sz => halvesOfWord (fmtA sz 3#4 ord scope b a d 59#7)
  | .amoMin d a b scope ord sz => halvesOfWord (fmtA sz 4#4 ord scope b a d 59#7)
  | .amoMax d a b scope ord sz => halvesOfWord (fmtA sz 5#4 ord scope b a d 59#7)
  | .amoMinu d a b scope ord sz => halvesOfWord (fmtA sz 6#4 ord scope b a d 59#7)
  | .amoMaxu d a b scope ord sz => halvesOfWord (fmtA sz 7#4 ord scope b a d 59#7)
  | .amoSwp d a b scope ord sz => halvesOfWord (fmtA sz 8#4 ord scope b a d 59#7)
  | .cas d a b scope ord sz => halvesOfWord (fmtA sz 9#4 ord scope b a d 59#7)
  | .accsI32 a b => halvesOfWord (fmtA 0#1 0#4 0#2 0#3 b a 0#5 61#7)
  | .accsI64 a b => halvesOfWord (fmtA 0#1 1#4 0#2 0#3 b a 0#5 61#7)
  | .accsF32 a b => halvesOfWord (fmtA 0#1 2#4 0#2 0#3 b a 0#5 61#7)
  | .accsF64 a b => halvesOfWord (fmtA 0#1 3#4 0#2 0#3 b a 0#5 61#7)
  | .fence scope kind => halvesOfWord (fmtSs 0#4 0#6 kind scope 0#5 0#5 63#7)
  | .wbr d a scope => halvesOfWord (fmtSs 0#4 2#6 0#2 scope a d 63#7)
  | .invr d a scope => halvesOfWord (fmtSs 0#4 3#6 0#2 scope a d 63#7)
  | .flr d a scope => halvesOfWord (fmtSs 0#4 4#6 0#2 scope a d 63#7)
  | .drain kind => halvesOfWord (fmtSs 0#4 5#6 kind 0#3 0#5 0#5 63#7)
  | .barInit a b => halvesOfWord (fmtSs 0#4 7#6 (b.extractLsb' 3 2) (b.extractLsb' 0 3) a 0#5 63#7)
  | .barArv d a => halvesOfWord (fmtSs 0#4 8#6 0#2 0#3 a d 63#7)
  | .barDrop d a => halvesOfWord (fmtSs 0#4 9#6 0#2 0#3 a d 63#7)
  | .barExp a b => halvesOfWord (fmtSs 0#4 10#6 (b.extractLsb' 3 2) (b.extractLsb' 0 3) a 0#5 63#7)
  | .barWait a b => halvesOfWord (fmtSs 0#4 11#6 (b.extractLsb' 3 2) (b.extractLsb' 0 3) a 0#5 63#7)
  | .barWaitTry d a b => halvesOfWord (fmtSs 0#4 12#6 (b.extractLsb' 3 2) (b.extractLsb' 0 3) a d 63#7)
  | .fpub a b => halvesOfWord (fmtS 0#4 0#6 b a 0#5 65#7)
  | .spawn a b => halvesOfWord (fmtS 0#4 1#6 b a 0#5 65#7)
  | .syncTry d => halvesOfWord (fmtS 0#4 3#6 0#5 0#5 d 65#7)
  | .launch d a => halvesOfWord (fmtS 0#4 6#6 0#5 a d 65#7)
  | .donate a b => halvesOfWord (fmtS 0#4 7#6 b a 0#5 65#7)
  | .dtake d a b => halvesOfWord (fmtS 0#4 8#6 b a d 65#7)
  | .dtakeTry d a b => halvesOfWord (fmtS 0#4 9#6 b a d 65#7)
  | .dqstat d a => halvesOfWord (fmtS 0#4 10#6 0#5 a d 65#7)
  | .trap code => halvesOfWord (fmtTr 0#4 code 0#5 0#5 67#7)
  | .brk code => halvesOfWord (fmtTr 3#4 code 0#5 0#5 67#7)
  | .tlbi a => halvesOfWord (fmtTr 5#4 0#11 a 0#5 67#7)
  | .tlbia a => halvesOfWord (fmtTr 6#4 0#11 a 0#5 67#7)
  | .vadd d a b k => halvesOfWord (fmtV 0#4 k b a d 73#7)
  | .vsub d a b k => halvesOfWord (fmtV 1#4 k b a d 73#7)
  | .vmul d a b k => halvesOfWord (fmtV 2#4 k b a d 73#7)
  | .vmulh d a b k => halvesOfWord (fmtV 3#4 k b a d 73#7)
  | .vand d a b k => halvesOfWord (fmtV 4#4 k b a d 73#7)
  | .vor d a b k => halvesOfWord (fmtV 5#4 k b a d 73#7)
  | .vxor d a b k => halvesOfWord (fmtV 6#4 k b a d 73#7)
  | .vandn d a b k => halvesOfWord (fmtV 7#4 k b a d 73#7)
  | .vshl d a b k => halvesOfWord (fmtV 8#4 k b a d 73#7)
  | .vshr d a b k => halvesOfWord (fmtV 9#4 k b a d 73#7)
  | .vsar d a b k => halvesOfWord (fmtV 10#4 k b a d 73#7)
  | .vmin d a b k => halvesOfWord (fmtV 11#4 k b a d 73#7)
  | .vmax d a b k => halvesOfWord (fmtV 12#4 k b a d 73#7)
  | .vminu d a b k => halvesOfWord (fmtV 13#4 k b a d 73#7)
  | .vmaxu d a b k => halvesOfWord (fmtV 14#4 k b a d 73#7)
  | .vsel d a b k => halvesOfWord (fmtV 15#4 k b a d 73#7)
  | .vcmpEq d a b k => halvesOfWord (fmtV 0#4 k b a d 75#7)
  | .vcmpNe d a b k => halvesOfWord (fmtV 1#4 k b a d 75#7)
  | .vcmpLt d a b k => halvesOfWord (fmtV 2#4 k b a d 75#7)
  | .vcmpGe d a b k => halvesOfWord (fmtV 3#4 k b a d 75#7)
  | .vcmpLtu d a b k => halvesOfWord (fmtV 4#4 k b a d 75#7)
  | .vcmpGeu d a b k => halvesOfWord (fmtV 5#4 k b a d 75#7)
  | .vredadd d a k => halvesOfWord (fmtV 6#4 k 0#6 a d 75#7)
  | .vredmin d a k => halvesOfWord (fmtV 7#4 k 0#6 a d 75#7)
  | .vredmax d a k => halvesOfWord (fmtV 8#4 k 0#6 a d 75#7)
  | .vperm d a b k => halvesOfWord (fmtV 9#4 k b a d 75#7)
  | .vslideup d a b k => halvesOfWord (fmtV 10#4 k b a d 75#7)
  | .vslidedn d a b k => halvesOfWord (fmtV 11#4 k b a d 75#7)
  | .vbcast d a cv => halvesOfWord (fmtV 12#4 cv 0#6 a d 75#7)
  | .vins d a b cv => halvesOfWord (fmtV 13#4 cv b a d 75#7)
  | .vext d a b cv => halvesOfWord (fmtV 14#4 cv b a d 75#7)
  | .vmov d a k => halvesOfWord (fmtV 15#4 k 0#6 a d 75#7)
  | .fadd d a b k => halvesOfWord (fmtV 0#4 k b a d 77#7)
  | .fsub d a b k => halvesOfWord (fmtV 1#4 k b a d 77#7)
  | .fmul d a b k => halvesOfWord (fmtV 2#4 k b a d 77#7)
  | .fdiv d a b k => halvesOfWord (fmtV 3#4 k b a d 77#7)
  | .fsqrt d b k => halvesOfWord (fmtV 4#4 k b 0#6 d 77#7)
  | .fmin d a b k => halvesOfWord (fmtV 5#4 k b a d 77#7)
  | .fmax d a b k => halvesOfWord (fmtV 6#4 k b a d 77#7)
  | .fabs d b k => halvesOfWord (fmtV 7#4 k b 0#6 d 77#7)
  | .fneg d b k => halvesOfWord (fmtV 8#4 k b 0#6 d 77#7)
  | .fcmpEq d a b k => halvesOfWord (fmtV 9#4 k b a d 77#7)
  | .fcmpLt d a b k => halvesOfWord (fmtV 10#4 k b a d 77#7)
  | .fcmpLe d a b k => halvesOfWord (fmtV 11#4 k b a d 77#7)
  | .fcmpUn d a b k => halvesOfWord (fmtV 12#4 k b a d 77#7)
  | .fclass d b k => halvesOfWord (fmtV 13#4 k b 0#6 d 77#7)
  | .fscl d a b k => halvesOfWord (fmtV 14#4 k b a d 77#7)
  | .fround d b k => halvesOfWord (fmtV 15#4 k b 0#6 d 77#7)
  | .fcvtFi d a k => halvesOfWord (fmtV 0#4 k 0#6 a d 79#7)
  | .fcvtIf d a k => halvesOfWord (fmtV 1#4 k 0#6 a d 79#7)
  | .fredsum d a k => halvesOfWord (fmtV 2#4 k 0#6 a d 79#7)
  | .fredmax d a k => halvesOfWord (fmtV 3#4 k 0#6 a d 79#7)
  | .fredmin d a k => halvesOfWord (fmtV 4#4 k 0#6 a d 79#7)
  | .fdot d a b k => halvesOfWord (fmtV 5#4 k b a d 79#7)
  | .kand d a b => halvesOfWord (fmtV 6#4 0#3 b a d 79#7)
  | .kor d a b => halvesOfWord (fmtV 7#4 0#3 b a d 79#7)
  | .kxor d a b => halvesOfWord (fmtV 8#4 0#3 b a d 79#7)
  | .knot d a => halvesOfWord (fmtV 9#4 0#3 0#6 a d 79#7)
  | .kfs d a => halvesOfWord (fmtV 10#4 0#3 0#6 a d 79#7)
  | .ksf d a => halvesOfWord (fmtV 11#4 0#3 0#6 a d 79#7)
  | .vwinImm count cls => halvesOfWord (fmtV 12#4 (0#2 ++ (count.extractLsb' 6 1) : BitVec 3) 0#6 cls (count.extractLsb' 0 6) 79#7)
  | .vwinReg d a => halvesOfWord (fmtV 12#4 2#3 0#6 a d 79#7)
  | .ffma d a b c k1en => halvesOfWord (fmtV4 k1en c b a d 81#7)
  | .ffms d a b c k1en => halvesOfWord (fmtV4 k1en c b a d 83#7)
  | .fnma d a b c k1en => halvesOfWord (fmtV4 k1en c b a d 85#7)
  | .vldUnit v s k ty => halvesOfWord (fmtVM 0#3 ty k 0#5 s v 89#7)
  | .vldStrided v s x k ty => halvesOfWord (fmtVM 1#3 ty k x s v 89#7)
  | .vldGather v s x k ty => halvesOfWord (fmtVM 2#3 ty k x s v 89#7)
  | .vstUnit v s k ty => halvesOfWord (fmtVM 0#3 ty k 0#5 s v 91#7)
  | .vstStrided v s x k ty => halvesOfWord (fmtVM 1#3 ty k x s v 91#7)
  | .vstScatter v s x k ty => halvesOfWord (fmtVM 2#3 ty k x s v 91#7)
  | .vldd v s x k => halvesOfWord (fmtVM 0#3 0#3 k x s v 93#7)
  | .vstd v s x k => halvesOfWord (fmtVM 1#3 0#3 k x s v 93#7)
  | .vstdp v s x k => halvesOfWord (fmtVM 2#3 0#3 k x s v 93#7)
  | .vqntPeb7 v s => halvesOfWord (fmtVM 3#3 0#3 0#3 0#5 s v 93#7)
  | .vqntPeb3 v s => halvesOfWord (fmtVM 3#3 1#3 0#3 0#5 s v 93#7)
  | .acc v s k ty => halvesOfWord (fmtVM 4#3 ty k 0#5 s v 93#7)
  | .accD v s x k => halvesOfWord (fmtVM 5#3 0#3 k x s v 93#7)
  | .sbind v a => halvesOfWord (fmtSB 0#4 0#6 0#4 a v 95#7)
  | .sunbind v => halvesOfWord (fmtSB 0#4 1#6 0#4 0#5 v 95#7)
  | .sstat v a => halvesOfWord (fmtSB 0#4 2#6 0#4 a v 95#7)
  | .mma d a b => halvesOfWord (fmtT 0#5 0#4 0#4 b a d 97#7)
  | .mmaDc d a b h => halvesOfWord (fmtT 0#5 (0#2 ++ h ++ 1#1 : BitVec 4) 0#4 b a d 97#7)
  | .mmab d a b part => halvesOfWord (fmtT 1#5 (0#2 ++ part : BitVec 4) 0#4 b a d 97#7)
  | .mmas d a b c => halvesOfWord (fmtT 2#5 0#4 c b a d 97#7)
  | .maddt d a b => halvesOfWord (fmtT 3#5 0#4 0#4 b a d 97#7)
  | .msubt d a b => halvesOfWord (fmtT 4#5 0#4 0#4 b a d 97#7)
  | .mscl d a s => halvesOfWord (fmtT 5#5 0#4 (0#3 ++ (s.extractLsb' 4 1) : BitVec 4) (s.extractLsb' 0 4) a d 97#7)
  | .mzero d tag => halvesOfWord (fmtT 6#5 tag 0#4 0#4 0#4 d 97#7)
  | .mcvt d a h tag => halvesOfWord (fmtT 7#5 tag (0#1 ++ h : BitVec 4) 0#4 a d 97#7)
  | .mtrn d a h => halvesOfWord (fmtT 8#5 0#4 (0#3 ++ h : BitVec 4) 0#4 a d 97#7)
  | .mchol d a => halvesOfWord (fmtT 9#5 0#4 0#4 0#4 a d 97#7)
  | .mtrsv v a mode => halvesOfWord (fmtT 10#5 (0#2 ++ mode : BitVec 4) (0#2 ++ (v.extractLsb' 4 2) : BitVec 4) 0#4 a (v.extractLsb' 0 4) 97#7)
  | .mstat d a => halvesOfWord (fmtT 11#5 0#4 (0#3 ++ (d.extractLsb' 4 1) : BitVec 4) 0#4 a (d.extractLsb' 0 4) 97#7)
  | .twinImm count => halvesOfWord (fmtT 12#5 0#4 (0#3 ++ (count.extractLsb' 4 1) : BitVec 4) 0#4 0#4 (count.extractLsb' 0 4) 97#7)
  | .twinReg a => halvesOfWord (fmtT 12#5 1#4 (0#3 ++ (a.extractLsb' 4 1) : BitVec 4) 0#4 (a.extractLsb' 0 4) 0#4 97#7)
  | .mldt d s stride tag => halvesOfWord (fmtTM 0#7 tag stride s d 99#7)
  | .mstt d s stride tag => halvesOfWord (fmtTM 0#7 tag stride s d 101#7)
  | .cpy d a b c => halvesOfWord (fmtC 0#5 c b a d 103#7)
  | .cpyt d a b c => halvesOfWord (fmtC 1#5 c b a d 103#7)
  | .cpym d a b c => halvesOfWord (fmtC 2#5 c b a d 103#7)
  | .ibxRecv d a => halvesOfWord (fmtC 3#5 0#5 0#5 a d 103#7)
  | .ibxTry d a => halvesOfWord (fmtC 4#5 0#5 0#5 a d 103#7)
  | .swpout d a b c => halvesOfWord (fmtC 5#5 c b a d 103#7)
  | .swpin d a b c => halvesOfWord (fmtC 6#5 c b a d 103#7)
  | .swpstat d a b => halvesOfWord (fmtC 7#5 0#5 b a d 103#7)
  | .cVadd d b m => [fmtCompact m b d 0#4]
  | .cVsub d b m => [fmtCompact m b d 1#4]
  | .cVand d b m => [fmtCompact m b d 2#4]
  | .cVor d b m => [fmtCompact m b d 3#4]
  | .cVxor d b m => [fmtCompact m b d 4#4]
  | .cVshl d b m => [fmtCompact m b d 5#4]
  | .cVshr d b m => [fmtCompact m b d 6#4]
  | .cVmin d b m => [fmtCompact m b d 7#4]
  | .cVmax d b m => [fmtCompact m b d 8#4]
  | .cFadd d b m => [fmtCompact m b d 9#4]
  | .cFsub d b m => [fmtCompact m b d 10#4]
  | .cFmul d b m => [fmtCompact m b d 11#4]
  | .cFmin d b m => [fmtCompact m b d 12#4]
  | .cFmax d b m => [fmtCompact m b d 13#4]
  | .cFneg d b m => [fmtCompact m b d 14#4]
  | .cFabs d b m => [fmtCompact m b d 15#4]
  | .flushr => halvesOfWord (fmtSs 0#4 1#6 0#2 0#3 0#5 0#5 63#7)
  | .ifence => halvesOfWord (fmtSs 0#4 6#6 0#2 0#3 0#5 0#5 63#7)
  | .sync => halvesOfWord (fmtS 0#4 2#6 0#5 0#5 0#5 65#7)
  | .tend => halvesOfWord (fmtS 0#4 4#6 0#5 0#5 0#5 65#7)
  | .yield => halvesOfWord (fmtS 0#4 5#6 0#5 0#5 0#5 65#7)
  | .rett => halvesOfWord (fmtTr 1#4 0#11 0#5 0#5 67#7)
  | .replay => halvesOfWord (fmtTr 2#4 0#11 0#5 0#5 67#7)
  | .wfi => halvesOfWord (fmtTr 4#4 0#11 0#5 0#5 67#7)
  | .launchCommand => []
  | .drainCommand => []
  | .resumeCommand => []
  | .abortCommand => []
  | .admissionGrant => []
  | .resumeReload => []
  | .qpiWrite => []
  | .qcfgWrite => []
  | .jrelWrite => []
  | .hostWindowWrite => []
  | .registerWrite => []
  | .bankcfgWrite => []
  | .domWrite => []
  | .hselWrite => []
  | .ptbrWrite => []
  | .hostBar2Read => []
  | .hostBar2Write => []
  | .getCert => []
  | .attest => []
  | .sealCmd => []
  | .unsealCmd => []
  | .sealRange => []
  | .asidSet => []
  | .asidClear => []
  | .stvecSet => []
  | .dqOpen => []
  | .dqClose => []
  | .fenceStatus => []
  | .dbgHalt => []
  | .dbgRun => []
  | .dbgStep => []
  | .dbgRead => []
  | .dbgWrite => []
  | .dbgCfg => []
  | .telem => []
  | .thrSet => []
  | .fnReset => []
  | .devReset => []
  | .firmwareUpdate => []
  | .recoveryImage => []
  | .pldmDiscovery => []
  | .pldmSensorRead => []
  | .conventionalReset => []
  | .functionLevelReset => []
  | .thermalTrip => []
  | .throttleTest => []
  | .throttleRelax => []
  | .containmentFence => []
  | .homeSoftError => []
  | .leaseHeartbeat => []
  | .writeLeaseExpiry => []
  | .readLeaseExpiry => []
  | .residualAgeExpiry => []
  | .quotaWindowStart => []
  | .qwait => []
  | .winDeadlock => []
  | .winDeadlockRetry => []
  | .drainLimitExpiry => []
  | .forcedSave => []
  | .drainFinish => []
  | .launchRetire => []
  | .probePass => []
  | .thiefResume => []
  | .workNotice => []
  | .stealWaitExpiry => []
  | .trapEntry => []
  | .shadowResultArrival => []
  | .wideCompletion => []
  | .walkCompletion => []
  | .pageNotice => []
  | .swapOut => []
  | .swapIn => []
  | .nvmeCompletion => []
  | .copyArrival => []
  | .copyCompletion => []
  | .streamFetch => []
  | .streamWrite => []
  | .accumulateRequest => []
  | .accumulateAnswer => []
  | .writeQueueApply => []
  | .atomicRequest => []
  | .releaseMarker => []
  | .writeBack => []
  | .ownershipRequest => []
  | .invalidationAck => []
  | .evictionNotice => []
  | .remapReturn => []
  | .peerReadRequest => []
  | .peerWrite => []
  | .remoteWriteAck => []
  | .acquireDropNotice => []
  | .donationReceive => []
  | .donationReply => []
  | .storeBufferLeave => []
  | .coreSleep => []
  | .instructionCacheFill => []
  | .powerLoss => []
  | .unknownKindCommand => []
  | .ringReadFailure => []

/-- The bytes of an instruction, lowest address first. -/
def encodeBytes (i : Instr) : List (BitVec 8) := (encode i).flatMap bytesOfHalf

/-- The `n` low bytes of a number, lowest first. -/
def bytesOfNat : Nat → Nat → List (BitVec 8)
  | 0, _ => []
  | n + 1, w => BitVec.ofNat 8 w :: bytesOfNat n (w / 256)

/-- The bytes of a table word: `nbits` bits of `w`, zero above them up to the longest instruction (4 bytes). -/
def tableBytes (nbits w : Nat) : List (BitVec 8) := bytesOfNat 4 (w % 2 ^ nbits)

/-- What the decoder reads from an instruction whose bits are `w`, numbered as the opcode table numbers them. -/
def decodeTableWord (nbits w : Nat) : Option Instr :=
  match decode (tableBytes nbits w) with
  | .ok (i, _) => some i
  | .error _ => none

end Sys2Proof
end

