-- ==== Sys2Proof/Machine/Crypto.lean ====
section
/-!
DEFINITION. SHA-256, HMAC-SHA-256 and HKDF-SHA-256 (R108, R109, R298): launch keys, storage keys, key ids and report
digests; and AES-256-GCM, under which swap records are written (R298, R300).
-/
namespace Sys2Proof.Machine

/-- A big-endian number of a list of bytes. -/
def beNat (bs : List Byte) : Nat := bs.foldl (fun a b => a * 256 + b.toNat) 0

/-- The n big-endian bytes of a number. -/
def beBytes (n w : Nat) : List Byte := (leBytes n w).reverse

/-! ### SHA-256 -/

/-- Bits b-1 to 0 of the k-th root of x, rounded down, below a known part. -/
def rootBits (k x : Nat) : Nat → Nat → Nat
  | 0, r => r
  | b + 1, r => if (r + 2 ^ b) ^ k ≤ x then rootBits k x b (r + 2 ^ b) else rootBits k x b r

/-- The first 32 bits of the fraction of the k-th root of p. -/
def rootFraction (k p : Nat) : BitVec 32 := BitVec.ofNat 32 (rootBits k (p * 2 ^ (32 * k)) 40 0)

/-- The primes below 312: there are 64 of them. -/
def smallPrimes : List Nat :=
  (List.range 312).filter fun n => 2 ≤ n && (List.range 18).all fun d => d < 2 || n ≤ d || n % d != 0

/-- The 64 constants of the turns: fractions of cube roots. -/
def shaConstants : List (BitVec 32) := smallPrimes.map (rootFraction 3)

/-- A word folded with three of its rotations or shifts. -/
def shaFold (x : BitVec 32) (i j : Nat) (last : BitVec 32) : BitVec 32 := x.rotateRight i ^^^ x.rotateRight j ^^^ last

/-- The running value of a block: two series of words, the newest four of each, newest first. -/
structure ShaRun where
  upper : List (BitVec 32)
  lower : List (BitVec 32)

/-- The value before the first block: fractions of square roots. -/
def shaStart : ShaRun :=
  { upper := (smallPrimes.take 4).map (rootFraction 2), lower := ((smallPrimes.drop 4).take 4).map (rootFraction 2) }

/-- One turn adds a word to either series. -/
def ShaRun.turn (z : ShaRun) (x : BitVec 32) : ShaRun :=
  let u (i : Nat) : BitVec 32 := z.upper.getD i 0
  let l (i : Nat) : BitVec 32 := z.lower.getD i 0
  let fresh := x + l 3 + shaFold (l 0) 6 11 ((l 0).rotateRight 25) + (l 0 &&& l 1 ||| ~~~(l 0) &&& l 2)
  let mixed := shaFold (u 0) 2 13 ((u 0).rotateRight 22) + (u 0 &&& (u 1 ||| u 2) ||| u 1 &&& u 2)
  { upper := (fresh + mixed) :: z.upper.take 3, lower := (u 3 + fresh) :: z.lower.take 3 }

/-- n words more of a block's schedule, newest first. -/
def shaExtend : Nat → List (BitVec 32) → List (BitVec 32)
  | 0, ws => ws
  | n + 1, ws =>
    let back (i : Nat) : BitVec 32 := ws.getD (i - 1) 0
    let far := shaFold (back 15) 7 18 (back 15 >>> 3)
    let near := shaFold (back 2) 17 19 (back 2 >>> 10)
    shaExtend n ((far + near + back 16 + back 7) :: ws)

/-- A block of 64 bytes is taken in. -/
def ShaRun.take (z : ShaRun) (block : List Byte) : ShaRun :=
  let words := (List.range 16).map fun i => BitVec.ofNat 32 (beNat ((block.drop (4 * i)).take 4))
  let schedule := (shaExtend 48 words.reverse).reverse
  let end_ := (List.zipWith (· + ·) schedule shaConstants).foldl ShaRun.turn z
  { upper := List.zipWith (· + ·) z.upper end_.upper, lower := List.zipWith (· + ·) z.lower end_.lower }

/-- Cut bytes into pieces of n; `fuel` bounds their number. -/
def pieces (n : Nat) : Nat → List Byte → List (List Byte)
  | 0, _ => []
  | fuel + 1, bs => if bs.isEmpty then [] else bs.take n :: pieces n fuel (bs.drop n)

/-- SHA-256 of a message, as 32 bytes. -/
def sha256 (m : List Byte) : List Byte :=
  let fill := 63 - (m.length + 8) % 64
  let whole := m ++ 0x80 :: (List.replicate fill 0 ++ beBytes 8 (8 * m.length))
  let z := (pieces 64 (whole.length / 64) whole).foldl ShaRun.take shaStart
  (z.upper ++ z.lower).flatMap fun w => beBytes 4 w.toNat

/-! ### HMAC and HKDF -/

/-- XOR of every byte of a list with one byte. -/
def xorAll (b : Byte) (l : List Byte) : List Byte := l.map fun x => x ^^^ b

/-- HMAC-SHA-256. -/
def hmac256 (key m : List Byte) : List Byte :=
  let k0 := if 64 < key.length then sha256 key else key
  let k := k0 ++ List.replicate (64 - k0.length) 0
  sha256 (xorAll 0x5C k ++ sha256 (xorAll 0x36 k ++ m))

/-- HKDF-SHA-256 with 32 bytes of output (R108). -/
def hkdf256 (secret salt info : List Byte) : List Byte := hmac256 (hmac256 salt secret) (info ++ [0x01])

/-- The bytes of an ASCII string. -/
def ascii (t : String) : List Byte := t.toList.map fun c => BitVec.ofNat 8 c.toNat

/-! ### AES-256 -/

/-- Product in the field of 2^8 elements of AES: n steps. -/
def byteMul : Nat → Byte → Byte → Byte
  | 0, _, _ => 0
  | n + 1, a, b =>
    let twice := if a.getLsbD 7 then (a <<< 1) ^^^ 0x1B else a <<< 1
    (if b.getLsbD 0 then a else 0) ^^^ byteMul n twice (b >>> 1)

/-- The inverse of a byte in that field: its 254th power, by squaring; 0 for 0. -/
def byteInverse (x : Byte) : Byte :=
  let step (p : Byte × Byte) : Byte × Byte := let q := byteMul 8 p.1 p.1; (q, byteMul 8 p.2 q)
  ((List.range 7).foldl (fun p _ => step p) (x, 1)).2

/-- The S-box. -/
def sBox (x : Byte) : Byte :=
  let y := byteInverse x
  y ^^^ y.rotateLeft 1 ^^^ y.rotateLeft 2 ^^^ y.rotateLeft 3 ^^^ y.rotateLeft 4 ^^^ 0x63

/-- The S-box of every byte. -/
def sBoxes : List Byte := (List.range 256).map fun i => sBox (BitVec.ofNat 8 i)

/-- Substitution of a byte. -/
def subByte (x : Byte) : Byte := sBoxes.getD x.toNat 0

/-- XOR of two lists of bytes. -/
def xorBytes (a b : List Byte) : List Byte := List.zipWith (· ^^^ ·) a b

/-- n more words of a key schedule of 256 bits, newest first; `i` is the number of the next word. -/
def keyWords : Nat → Nat → List (List Byte) → List (List Byte)
  | 0, _, ws => ws
  | n + 1, i, ws =>
    let last := ws.headD []
    let t := if i % 8 = 0 then
        xorBytes ((last.drop 1 ++ last.take 1).map subByte) [BitVec.ofNat 8 (2 ^ (i / 8 - 1)), 0, 0, 0]
      else if i % 8 = 4 then last.map subByte else last
    keyWords n (i + 1) (xorBytes (ws.getD 7 []) t :: ws)

/-- The 15 round keys of 16 bytes. -/
def roundKeys (key : List Byte) : List (List Byte) :=
  pieces 16 15 ((keyWords 52 8 (pieces 4 8 key).reverse).reverse.flatten)

/-- Byte r of column c moves from column c + r. -/
def shiftRows (b : List Byte) : List Byte :=
  (List.range 16).map fun i => b.getD ((4 * (i / 4 + i % 4) + i % 4) % 16) 0

/-- A column times the fixed matrix. -/
def mixColumn (c : List Byte) : List Byte :=
  (List.range 4).map fun r =>
    let x (i : Nat) : Byte := c.getD ((r + i) % 4) 0
    byteMul 2 (x 0) 2 ^^^ byteMul 2 (x 1) 3 ^^^ x 2 ^^^ x 3

/-- AES-256 of a block of 16 bytes under its round keys. -/
def aesBlock (keys : List (List Byte)) (b : List Byte) : List Byte :=
  let inner := (keys.drop 1).dropLast.foldl
    (fun x k => xorBytes ((pieces 4 4 (shiftRows (x.map subByte))).flatMap mixColumn) k) (xorBytes b (keys.headD []))
  xorBytes (shiftRows (inner.map subByte)) (keys.getLastD [])

/-! ### GCM -/

/-- Product of 128-bit numbers in the field of GCM, whose first bit is the most significant: n steps. -/
def gcmMul : Nat → Nat → Nat → Nat
  | 0, _, _ => 0
  | n + 1, x, v =>
    (if x.testBit n then v else 0) ^^^ gcmMul n x (v / 2 ^^^ (if v % 2 = 1 then 0xE1 * 2 ^ 120 else 0))

/-- Bytes filled with zeros up to a multiple of 16, as 128-bit numbers. -/
def gcmBlocks (bs : List Byte) : List Nat :=
  (pieces 16 (bs.length / 16 + 1) bs).map fun p => beNat p * 2 ^ (8 * (16 - p.length))

/-- The tag of additional data and ciphertext. -/
def gcmTag (keys : List (List Byte)) (iv aad ct : List Byte) : List Byte :=
  let h := beNat (aesBlock keys (List.replicate 16 0))
  let lengths := 8 * aad.length * 2 ^ 64 + 8 * ct.length
  let g := (gcmBlocks aad ++ gcmBlocks ct ++ [lengths]).foldl (fun y b => gcmMul 128 (y ^^^ b) h) 0
  xorBytes (beBytes 16 g) (aesBlock keys (iv ++ beBytes 4 1))

/-- The counter stream laid over bytes. -/
def gcmStream (keys : List (List Byte)) (iv bs : List Byte) : List Byte :=
  (pieces 16 (bs.length / 16 + 1) bs).zipIdx.flatMap fun p =>
    List.zipWith (· ^^^ ·) p.1 (aesBlock keys (iv ++ beBytes 4 (p.2 + 2)))

/-- AES-256-GCM encryption: key, IV of 12 bytes, additional data, plaintext; ciphertext and tag (R298). -/
def gcmSeal (key iv aad data : List Byte) : List Byte × List Byte :=
  let keys := roundKeys key
  let ct := gcmStream keys iv data
  (ct, gcmTag keys iv aad ct)

/-- AES-256-GCM decryption; none where the tag differs (R300). -/
def gcmOpen (key iv aad ct tag : List Byte) : Option (List Byte) :=
  let keys := roundKeys key
  if gcmTag keys iv aad ct = tag then some (gcmStream keys iv ct) else none

end Sys2Proof.Machine
end

