-- ==== Sys2Proof/Config.lean ====
section
/-!
DEFINITION. What the manual leaves to the implementation or leaves open. Every constant here has no body: no proof can
see its value, and a statement that holds, holds whatever it is. `State.tick`, a counter that every step advances, is
what most of them are applied to, so that each use gets a fresh value.
-/
namespace Sys2Proof.Config

/-- How many clk pass between two steps of the model; timing is left out (log 2). -/
opaque elapsed : Nat → Nat
/-- Which of `n` things that may happen next does happen (log 3): an index below `n` after `% n`. -/
opaque choose : Nat → Nat
/-- The offset, in 64-byte units, that a new frame takes where it fits there (R120 leaves it open, log 4). -/
opaque frameHint : Nat → Nat
/-- Which slot of all probes next (R136 orders none, log 3). -/
opaque placeHint : Nat → Nat
/-- Whether the write queue of a home counts more than 192 occupied entries (R360 leaves their life open, log 5). -/
opaque queueCrowded : Nat → Bool
/-- Whether a home sums the addends of one write-queue entry before the array takes them (R368 leaves it open, log 5). -/
opaque sumsFirst : Nat → Bool
/-- Whether a plain load takes a sibling's buffered store to an address before it has left (R387 lets it, log 84). -/
opaque forwards : Nat → Nat → Bool
/-- Whether a plain load is performed at the end of its shadow, and not at its issue (R386 lets it, log 84). -/
opaque lateLoad : Nat → Bool
/-- Whether a release fence of cluster scope leaves the earlier stores buffered, before every later one (R391, log 84). -/
opaque lazyFence : Nat → Bool
/-- Which bank of the cluster cache takes a new line (R275 leaves it open, log 75): an index among those in cache mode. -/
opaque cacheBank : Nat → Nat
/-- Whether a new directory entry replaces another one (R283 gives no size, log 75). -/
opaque dirReplace : Nat → Bool
/-- The M-die that is off on a GRM-P415, none on a GRM-P416 (R1, R13, R97). -/
opaque idleMdie : Option Nat
/-- The physical base of the journal, chosen by firmware at boot (R97). -/
opaque journalBase : Nat
/-- Serial number of the part (R97). -/
opaque serialNumber : Nat
/-- Whether a stored image can be read and its RSA-3072 signature verifies under the fused key (R118). -/
opaque imageSigned : List Byte → Bool
/-- Firmware version and security version that an image carries, and the fused minimum of the latter (R97, R118). -/
opaque imageVersion : List Byte → Nat
opaque imageSvn : List Byte → Nat
opaque minimumSvn : Nat
/-- Clusters found usable at boot (R97, R118). -/
opaque usableClusters : Nat
/-- How the steps of an image's firmware end: 0 all of them pass, otherwise the BOOTERR code (R118). -/
opaque bringUp : List Byte → Nat
/-- A random 32-byte storage key (R109). -/
opaque randomKey : Nat → List Byte
/-- RSA-OAEP decryption under the device's key: the session secret, none where it fails (R109). -/
opaque oaepDecrypt : List Byte → Option (List Byte)
/-- RSASSA-PSS signature of a report under the device identity key (R109). -/
opaque pssSign : List Byte → List Byte
/-- The DER X.509 chain of the identity key (R109). -/
opaque certChain : List Byte
/-- Firmware's persistent boot count (R298). -/
opaque bootCount : Nat
/-- Bytes of an LBA of a drive's namespace 1, 0 where no drive is (R297), and how many LBAs it holds (R344). -/
opaque driveLbaBytes : Nat → Nat
opaque driveLbas : Nat → Nat
/-- What firmware says over the side-band of a drive that it does not use (R297). -/
opaque driveReport : Nat → List Byte
/-- This device's id on the Greos link fabric (R141). -/
opaque deviceId : Nat
/-- The peer device that a Greos link port leads to (R437). -/
opaque linkPeer : Nat → Nat
/-- The device ids that the link fabric knows (R151). -/
opaque knownDevice : Nat → Bool
/-- How a peer device answers a donation (R151): 0 accepted, 1 rejected, 2 busy. -/
opaque peerAnswer : Nat → Nat
/-- Power, current and temperature readings of the telemetry record (R463). -/
opaque sensor : Nat → Nat → Nat
/-- The value of a result that the manual does not state, by operands (log 6). -/
opaque unstated : Nat → Nat → Nat

end Sys2Proof.Config
end

