-- ==== Sys2Proof/Machine/FMap.lean ====
section
/-!
DEFINITION. Reading and writing sparse tables and memories. Both keep their keys strictly rising; a memory lists no
zero byte, so that equal memories are equal lists.
-/
namespace Sys2Proof.Machine

/-- What a table lists for a key. -/
def FMap.find {α : Type} : FMap α → Nat → Option α
  | [], _ => none
  | (j, v) :: rest, k => if j = k then some v else FMap.find rest k

/-- What a key holds, `d` when it is not listed. -/
def FMap.getD {α : Type} (m : FMap α) (k : Nat) (d : α) : α := (FMap.find m k).getD d

/-- List `v` under `k`, in key order. -/
def FMap.put {α : Type} : FMap α → Nat → α → FMap α
  | [], k, v => [(k, v)]
  | (j, w) :: rest, k, v =>
    if k < j then (k, v) :: (j, w) :: rest
    else if k = j then (k, v) :: rest
    else (j, w) :: FMap.put rest k v

/-- Take a key out. -/
def FMap.del {α : Type} : FMap α → Nat → FMap α
  | [], _ => []
  | (j, w) :: rest, k => if k = j then FMap.del rest k else (j, w) :: FMap.del rest k

/-- Write a value, listing it only when it differs from what an unlisted key holds. -/
def FMap.store {α : Type} [DecidableEq α] (m : FMap α) (k : Nat) (d v : α) : FMap α :=
  if v = d then FMap.del m k else FMap.put m k v

/-- Keys strictly rise from one entry to the next, and the first lies above `lo`. -/
def FMap.above {α : Type} : Nat → FMap α → Bool
  | _, [] => true
  | lo, (j, _) :: rest => decide (lo < j) && FMap.above j rest

/-- Keys strictly rise. -/
def FMap.sorted {α : Type} : FMap α → Bool
  | [] => true
  | (j, _) :: rest => FMap.above j rest

/-- The byte at an address; an address not listed reads as zero. -/
def Memory.read (m : Memory) (a : Nat) : Byte := FMap.getD m a 0

/-- Write one byte. Writing zero takes the entry out. -/
def Memory.write (m : Memory) (a : Nat) (b : Byte) : Memory := FMap.store m a 0 b

/-- The canonical form: addresses strictly rise and no listed byte is zero. -/
def Memory.wf (m : Memory) : Bool := FMap.sorted m && m.all (fun c => c.2 != 0)

/-- `n` bytes from `a` upward. -/
def Memory.readN (m : Memory) (a : Nat) : Nat → List Byte
  | 0 => []
  | n + 1 => Memory.read m a :: Memory.readN m (a + 1) n

/-- Write bytes from `a` upward. -/
def Memory.writeN (m : Memory) (a : Nat) : List Byte → Memory
  | [] => m
  | b :: bs => Memory.writeN (Memory.write m a b) (a + 1) bs

/-- The little-endian number in `n` bytes from `a` upward (R2). -/
def Memory.readNat (m : Memory) (a n : Nat) : Nat := natOfBytes (Memory.readN m a n)

/-- Write a number as `n` little-endian bytes (R2). -/
def Memory.writeNat (m : Memory) (a n w : Nat) : Memory := Memory.writeN m a (leBytes n w)

end Sys2Proof.Machine
end

