-- ==== Sys2Proof/Machine/Num.lean ====
section
/-!
DEFINITION. Exact numbers and their one rounding (chapter 02). A finite nonzero number is a sign, a natural
significand and a binary exponent. A quotient or root that has no such form carries `sticky`, which says that the
number lies strictly between this significand and the next; such a significand always has many more bits than any
format keeps.
-/
namespace Sys2Proof.Machine

/-! ### Flags (R187) -/
def flNX : Flags := 0x01
def flUF : Flags := 0x02
def flOF : Flags := 0x04
def flDZ : Flags := 0x08
def flNV : Flags := 0x10
def flPVT : Flags := 0x20
def flXOV : Flags := 0x40
def flQSAT : Flags := 0x80

/-- A decoded operand or result. -/
inductive Val where
  /-- a NaN; `true` when signalling -/
  | nan (signalling : Bool)
  | inf (neg : Bool)
  | zero (neg : Bool)
  /-- (−1)^neg × m × 2^e with m nonzero -/
  | fin (neg : Bool) (m : Nat) (e : Int)
deriving DecidableEq, Repr

/-- The exact result of an operation: a special result with its flags, or a number still to be rounded. -/
inductive Res where
  | special (v : Val) (fl : Flags)
  | exact (neg : Bool) (m : Nat) (e : Int) (sticky : Bool)
deriving DecidableEq, Repr

/-- A number format: fraction bits, exponent range, and how it treats results below that range. -/
structure Fmt where
  /-- fraction bits -/
  L : Nat
  emin : Int
  emax : Int
  /-- subnormal results are produced; otherwise they are flushed to zero -/
  sub : Bool
  /-- UF looks at the delivered result (R53) and not at the result rounded with an unbounded exponent -/
  ufDelivered : Bool
deriving DecidableEq, Repr

/-- The register format at fraction length L (R28, R31). -/
def fmtReg (L : Nat) : Fmt := { L := L, emin := -2046, emax := 2047, sub := false, ufDelivered := false }
def fmtB64 : Fmt := { L := 52, emin := -1022, emax := 1023, sub := true, ufDelivered := false }
def fmtB32 : Fmt := { L := 23, emin := -126, emax := 127, sub := true, ufDelivered := false }
def fmtB16 : Fmt := { L := 10, emin := -14, emax := 15, sub := true, ufDelivered := false }
def fmtBF16 : Fmt := { L := 7, emin := -126, emax := 127, sub := true, ufDelivered := false }
/-- The memory format of a VLF block of fraction length L, before scaling (R43). -/
def fmtMem (L : Nat) : Fmt := { L := L, emin := -126, emax := 127, sub := true, ufDelivered := true }

/-- Fraction bits of class c (R26). -/
def classL (c : Nat) : Nat := 4 * c + 3

/-- Number of bits of a natural number. -/
def bitLen (m : Nat) : Nat := if m = 0 then 0 else Nat.log2 m + 1

/-- How the bits that are cut off compare with half a last place: 0 none, 1 below, 2 a tie, 3 above. -/
def cutClass (m sh : Nat) (sticky : Bool) : Nat :=
  if sh = 0 then (if sticky then 1 else 0)
  else
    let rem := m % 2 ^ sh
    let half := 2 ^ (sh - 1)
    if rem = 0 then (if sticky then 1 else 0)
    else if rem < half then 1
    else if rem = half then (if sticky then 3 else 2)
    else 3

/-- Round a magnitude to a multiple of 2^q in a rounding mode (R30): the multiple and whether it is inexact. -/
def roundAt (mode : Nat) (neg : Bool) (m : Nat) (e q : Int) (sticky : Bool) : Nat × Bool :=
  if q ≤ e then
    (m * 2 ^ (e - q).toNat, sticky)
  else
    let sh := (q - e).toNat
    let f := m / 2 ^ sh
    let c := cutClass m sh sticky
    let inc : Bool :=
      if mode = 0 then c = 3 || (c = 2 && f % 2 = 1)
      else if mode = 4 then 2 ≤ c
      else if mode = 2 then c ≠ 0 && neg
      else if mode = 3 then c ≠ 0 && !neg
      else if mode = 5 then c ≠ 0 && f % 2 = 0
      else false
    (if inc then f + 1 else f, c ≠ 0)

/-- The unbiased exponent of m × 2^e. -/
def expOf (m : Nat) (e : Int) : Int := e + (bitLen m : Int) - 1

/-- The largest finite magnitude of a format. -/
def maxFinite (F : Fmt) (neg : Bool) : Val := .fin neg (2 ^ (F.L + 1) - 1) (F.emax - F.L)

/-- The result of an overflow (R32). -/
def overflowResult (F : Fmt) (mode : Nat) (neg : Bool) : Val :=
  if mode = 0 || mode = 4 then .inf neg
  else if mode = 2 then (if neg then .inf true else maxFinite F false)
  else if mode = 3 then (if neg then maxFinite F true else .inf false)
  else maxFinite F neg

/-- A magnitude as a value, zero when it is zero. -/
def mkVal (neg : Bool) (m : Nat) (e : Int) : Val := if m = 0 then .zero neg else .fin neg m e

/-- Round an exact number once into a format (R31, R32, R57): the result and its flags. -/
def roundTo (F : Fmt) (mode : Nat) (neg : Bool) (m : Nat) (e : Int) (sticky : Bool) : Val × Flags :=
  let q := expOf m e - F.L
  let (r, inexact) := roundAt mode neg m e q sticky
  let ex := expOf r q
  if F.emax < ex then (overflowResult F mode neg, flOF ||| flNX)
  else if ex < F.emin then
    if F.sub then
      let (r2, inexact2) := roundAt mode neg m e (F.emin - F.L) sticky
      let tiny := if F.ufDelivered then decide (r2 < 2 ^ F.L) else true
      (mkVal neg r2 (F.emin - F.L), if inexact2 then (if tiny then flUF ||| flNX else flNX) else 0)
    else (.zero neg, flUF ||| flNX)
  else (.fin neg r q, if inexact then flNX else 0)

/-- Deliver a result: specials as they are, exact numbers rounded once. -/
def Res.deliver (F : Fmt) (mode : Nat) : Res → Val × Flags
  | .special v fl => (v, fl)
  | .exact neg m e sticky => roundTo F mode neg m e sticky

/-- Trailing zero bits of a number, at most `fuel` of them. -/
def trailingZeros : Nat → Nat → Nat
  | 0, _ => 0
  | fuel + 1, m => if m % 2 = 0 then trailingZeros fuel (m / 2) + 1 else 0

/-- Significant bits of a number: its bits without the trailing zeros. -/
def sigBits (m : Nat) : Nat := bitLen m - (if m = 0 then 0 else trailingZeros (bitLen m) m)

/-- The smallest class whose registers hold an exact number, 16 when none does (R34). -/
def classNeeded (m : Nat) (e : Int) (sticky : Bool) : Nat :=
  if sticky then 16
  else if expOf m e < -2046 || 2047 < expOf m e then 16
  else
    let c := (sigBits m - 1) / 4
    if 15 < c then 16 else c

/-- The class an exact result needs; special results need none. -/
def Res.classNeeded : Res → Nat
  | .special _ _ => 0
  | .exact _ m e sticky => Machine.classNeeded m e sticky

/-! ### Register elements (R26 to R28) -/

/-- Lane width of class n. -/
def laneW (n : Nat) : Nat := 16 + 4 * n

/-- The value of a register element of class n (R28). -/
def decodeLane (n : Nat) (x : Lane) : Val :=
  let L := classL n
  let f := x.toNat % 2 ^ L
  let E := (x.toNat / 2 ^ L) % 4096
  let s := (x.toNat / 2 ^ (L + 12)) % 2 = 1
  if E = 0 then .zero s
  else if E = 4095 then (if f = 0 then .inf s else .nan (f < 2 ^ (L - 1)))
  else .fin s (2 ^ L + f) ((E : Int) - 2047 - L)

/-- The register element of class n with a given sign, exponent field and fraction (R27). -/
def packLane (n : Nat) (neg : Bool) (E f : Nat) : Lane :=
  BitVec.ofNat 76 (f + E * 2 ^ classL n + b2n neg * 2 ^ (classL n + 12))

/-- The canonical NaN of class n (R28). -/
def canonicalNaN (n : Nat) : Lane := packLane n false 4095 (2 ^ (classL n - 1))

/-- The element of class n that holds a value, which fits the class (R27). -/
def encodeLane (n : Nat) : Val → Lane
  | .nan _ => canonicalNaN n
  | .inf s => packLane n s 4095 0
  | .zero s => packLane n s 0 0
  | .fin s m e =>
    let ex := expOf m e
    let q := ex - classL n
    let r := if q ≤ e then m * 2 ^ (e - q).toNat else m / 2 ^ (q - e).toNat
    packLane n s (ex + 2047).toNat (r - 2 ^ classL n)

/-! ### Plain floating formats (R24, R25) -/

/-- The value of the low `w` bits of `x` in a plain format with `L` fraction bits. -/
def plainDecode (w L : Nat) (x : Nat) : Val :=
  let ew := w - 1 - L
  let bias : Int := 2 ^ (ew - 1) - 1
  let f := x % 2 ^ L
  let E := (x / 2 ^ L) % 2 ^ ew
  let s := (x / 2 ^ (w - 1)) % 2 = 1
  if E = 0 then mkVal s f (1 - bias - L)
  else if E = 2 ^ ew - 1 then (if f = 0 then .inf s else .nan (f < 2 ^ (L - 1)))
  else .fin s (2 ^ L + f) ((E : Int) - bias - L)

/-- The bits of a value that the plain format holds exactly; every NaN becomes the canonical one (R25). -/
def plainEncode (w L : Nat) : Val → Nat
  | .nan _ => (2 ^ (w - 1 - L) - 1) * 2 ^ L + 2 ^ (L - 1)
  | .inf s => (2 ^ (w - 1 - L) - 1) * 2 ^ L + b2n s * 2 ^ (w - 1)
  | .zero s => b2n s * 2 ^ (w - 1)
  | .fin s m e =>
    let bias : Int := 2 ^ (w - 2 - L) - 1
    let ex := expOf m e
    let q := if ex < 1 - bias then 1 - bias - L else ex - L
    let r := if q ≤ e then m * 2 ^ (e - q).toNat else m / 2 ^ (q - e).toNat
    let E := if ex < 1 - bias then 0 else (ex + bias).toNat
    (if E = 0 then r else r - 2 ^ L + E * 2 ^ L) + b2n s * 2 ^ (w - 1)

/-- Flags of an operand that is only converted: a signalling NaN sets NV (R33). -/
def Val.snan : Val → Bool
  | .nan sg => sg
  | _ => false

def Val.isNan : Val → Bool
  | .nan _ => true
  | _ => false

/-- A value as an exact result: NaNs become canonical, with NV when signalling (R33). -/
def Val.toRes : Val → Res
  | .nan sg => .special (.nan false) (if sg then flNV else 0)
  | .inf s => .special (.inf s) 0
  | .zero s => .special (.zero s) 0
  | .fin s m e => .exact s m e false

/-- Convert a value into a format, rounding once (R57). -/
def convert (F : Fmt) (mode : Nat) (v : Val) : Val × Flags := v.toRes.deliver F mode

/-! ### Exact arithmetic (R33, R232, R243) -/

def Val.neg : Val → Val
  | .nan sg => .nan sg
  | .inf s => .inf (!s)
  | .zero s => .zero (!s)
  | .fin s m e => .fin (!s) m e

/-- A signed magnitude. -/
def sInt (neg : Bool) (m : Nat) : Int := if neg then -(m : Int) else m

/-- The NaN result of operands of which at least one is a NaN. -/
def nanRes (xs : List Val) : Res := .special (.nan false) (if xs.any Val.snan then flNV else 0)

/-- An invalid operation (R33). -/
def invalidRes : Res := .special (.nan false) flNV

/-- The exact sum of two finite signed numbers; an exact zero is +0, and −0 under RDN (R33). -/
def sumFin (mode : Nat) (s1 : Bool) (m1 : Nat) (e1 : Int) (s2 : Bool) (m2 : Nat) (e2 : Int) : Res :=
  let e := min e1 e2
  let t := sInt s1 (m1 * 2 ^ (e1 - e).toNat) + sInt s2 (m2 * 2 ^ (e2 - e).toNat)
  if t = 0 then .special (.zero (mode = 2)) 0 else .exact (t < 0) t.natAbs e false

/-- x + y (R232). -/
def addRes (mode : Nat) (x y : Val) : Res :=
  match x, y with
  | .nan _, _ => nanRes [x, y]
  | _, .nan _ => nanRes [x, y]
  | .inf a, .inf b => if a = b then .special (.inf a) 0 else invalidRes
  | .inf a, _ => .special (.inf a) 0
  | _, .inf b => .special (.inf b) 0
  | .zero a, .zero b => .special (.zero (if a = b then a else mode = 2)) 0
  | .zero _, .fin s m e => .exact s m e false
  | .fin s m e, .zero _ => .exact s m e false
  | .fin s1 m1 e1, .fin s2 m2 e2 => sumFin mode s1 m1 e1 s2 m2 e2

/-- The exact product as a value, or NaN where it is invalid or an operand is a NaN; the flags say which. -/
def mulRes (x y : Val) : Res :=
  match x, y with
  | .nan _, _ => nanRes [x, y]
  | _, .nan _ => nanRes [x, y]
  | .inf _, .zero _ => invalidRes
  | .zero _, .inf _ => invalidRes
  | .inf a, .inf b => .special (.inf (a != b)) 0
  | .inf a, .fin s _ _ => .special (.inf (a != s)) 0
  | .fin s _ _, .inf b => .special (.inf (s != b)) 0
  | .zero a, .zero b => .special (.zero (a != b)) 0
  | .zero a, .fin s _ _ => .special (.zero (a != s)) 0
  | .fin s _ _, .zero b => .special (.zero (s != b)) 0
  | .fin s1 m1 e1, .fin s2 m2 e2 => .exact (s1 != s2) (m1 * m2) (e1 + e2) false

/-- Quotient of two magnitudes with at least 160 bits, and whether it is cut (sticky). -/
def divMag (m1 m2 : Nat) : Nat × Nat × Bool :=
  let sh := 160 + bitLen m2 - bitLen m1
  let n := m1 * 2 ^ sh
  (n / m2, sh, n % m2 ≠ 0)

/-- x / y (R232). -/
def divRes (x y : Val) : Res :=
  match x, y with
  | .nan _, _ => nanRes [x, y]
  | _, .nan _ => nanRes [x, y]
  | .inf _, .inf _ => invalidRes
  | .zero _, .zero _ => invalidRes
  | .inf a, .zero b => .special (.inf (a != b)) 0
  | .inf a, .fin s _ _ => .special (.inf (a != s)) 0
  | .zero a, .inf b => .special (.zero (a != b)) 0
  | .fin s _ _, .inf b => .special (.zero (s != b)) 0
  | .zero a, .fin s _ _ => .special (.zero (a != s)) 0
  | .fin s _ _, .zero b => .special (.inf (s != b)) flDZ
  | .fin s1 m1 e1, .fin s2 m2 e2 =>
    let (q, sh, st) := divMag m1 m2
    .exact (s1 != s2) q (e1 - e2 - sh) st

/-- Integer square root by bits, from bit `k - 1` down. -/
def isqrtBits (n : Nat) : Nat → Nat → Nat
  | 0, r => r
  | k + 1, r => if (r + 2 ^ k) * (r + 2 ^ k) ≤ n then isqrtBits n k (r + 2 ^ k) else isqrtBits n k r

/-- √x (R232). -/
def sqrtRes (x : Val) : Res :=
  match x with
  | .nan _ => nanRes [x]
  | .zero s => .special (.zero s) 0
  | .inf false => .special (.inf false) 0
  | .inf true => invalidRes
  | .fin true _ _ => invalidRes
  | .fin false m e =>
    let odd : Nat := (e % 2).toNat
    let sh := 320 + odd
    let n := m * 2 ^ sh
    let r := isqrtBits n (bitLen n / 2 + 1) 0
    .exact false r ((e - sh) / 2) (r * r ≠ n)

/-- x × y + z, rounded once (R243). A product 0 × ∞ is invalid even beside a quiet NaN. -/
def fmaRes (mode : Nat) (x y z : Val) : Res :=
  match x.isNan || y.isNan, mulRes x y, z with
  | false, .special (.nan _) fl, _ => .special (.nan false) fl
  | true, _, _ => nanRes [x, y, z]
  | _, _, .nan _ => nanRes [x, y, z]
  | _, .special p _, z => addRes mode p z
  | _, .exact s m e _, z => addRes mode (.fin s m e) z

/-- x × 2^n; zeros and infinities stay (R232). -/
def scaleRes (x : Val) (n : Int) : Res :=
  match x with
  | .fin s m e => .exact s m (e + n) false
  | v => v.toRes

/-- What a fixed list of products sums to before rounding (R241, R257). `rdn` gives the sign of a cancelled zero. -/
def dotRes (rdn : Bool) (ps : List (Val × Val)) : Res :=
  let prods := ps.map fun p => mulRes p.1 p.2
  let invalid := (ps.zip prods).any fun t =>
    match t.1.1.isNan || t.1.2.isNan, t.2 with
    | false, .special (.nan _) _ => true
    | _, _ => false
  let sn := ps.any fun p => p.1.snan || p.2.snan
  let anyNan := ps.any fun p => p.1.isNan || p.2.isNan
  let pinf := prods.any fun r => match r with | .special (.inf false) _ => true | _ => false
  let ninf := prods.any fun r => match r with | .special (.inf true) _ => true | _ => false
  if invalid || anyNan || (pinf && ninf) then
    .special (.nan false) (if invalid || sn || (pinf && ninf) then flNV else 0)
  else if pinf then .special (.inf false) 0
  else if ninf then .special (.inf true) 0
  else
    let fins : List (Bool × Nat × Int) := prods.filterMap fun r =>
      match r with | .exact s m e _ => some (s, m, e) | _ => none
    let emin := fins.foldl (fun a t => min a t.2.2) 0
    let t : Int := fins.foldl (fun a t => a + sInt t.1 (t.2.1 * 2 ^ (t.2.2 - emin).toNat)) 0
    if t ≠ 0 then .exact (t < 0) t.natAbs emin false
    else
      let negs := prods.all fun r => match r with
        | .special (.zero s) _ => s | .exact s _ _ _ => s | _ => false
      let poss := prods.all fun r => match r with
        | .special (.zero s) _ => !s | .exact s _ _ _ => !s | _ => false
      .special (.zero (if prods.isEmpty then false else if negs then true else if poss then false else rdn)) 0

/-- Order of two values that are not NaN; −0 and +0 are equal. -/
def Val.lt (x y : Val) : Bool :=
  match x, y with
  | .nan _, _ => false
  | _, .nan _ => false
  | .inf a, .inf b => a && !b
  | .inf a, _ => a
  | _, .inf b => !b
  | .zero _, .zero _ => false
  | .zero _, .fin s _ _ => !s
  | .fin s _ _, .zero _ => s
  | .fin s1 m1 e1, .fin s2 m2 e2 =>
    let e := min e1 e2
    decide (sInt s1 (m1 * 2 ^ (e1 - e).toNat) < sInt s2 (m2 * 2 ^ (e2 - e).toNat))

def Val.eqv (x y : Val) : Bool := !x.isNan && !y.isNan && !Val.lt x y && !Val.lt y x

/-- The sign bit of a value. -/
def Val.sign : Val → Bool
  | .nan _ => false
  | .inf s => s
  | .zero s => s
  | .fin s _ _ => s

/-- Round to an int32 in a mode, saturating (R57): the integer and its flags. -/
def toInt32 (mode : Nat) (v : Val) : Int × Flags :=
  match v with
  | .nan _ => (0, flNV)
  | .inf s => (if s then -(2 ^ 31) else 2 ^ 31 - 1, flNV)
  | .zero _ => (0, 0)
  | .fin s m e =>
    let (r, inexact) := roundAt mode s m e 0 false
    let t := sInt s r
    if t < -(2 ^ 31) then (-(2 ^ 31), flNV)
    else if 2 ^ 31 - 1 < t then (2 ^ 31 - 1, flNV)
    else (t, if inexact then flNX else 0)

/-- An integer as an exact value. -/
def intVal (t : Int) : Val := mkVal (t < 0) t.natAbs 0

/-- Round to the integers that are register values at L (R233). -/
def froundVal (mode L : Nat) (v : Val) : Val × Flags :=
  match v with
  | .fin s m e =>
    let q := max 0 (expOf m e - L)
    let (r, inexact) := roundAt mode s m e q false
    if r = 0 then (.zero s, if inexact then flNX else 0)
    else if 2047 < expOf r q then (overflowResult (fmtReg L) mode s, flOF ||| flNX)
    else (.fin s r q, if inexact then flNX else 0)
  | v => v.toRes.deliver (fmtReg L) mode

/-- Round half to even to a natural number, x = m × 2^e (R56). -/
def rneNat (m : Nat) (e : Int) : Nat := (roundAt 0 false m e 0 false).1

end Sys2Proof.Machine
end

