-- ==== Sys2Proof/Machine/State.lean ====
section
/-!
DEFINITION. The state of one Greos Molris package: every slot, core, cluster, C-die and home slice, the memory behind
them, the host link, the journal and the firmware's tables. Tables are sparse: what a table does not list is as it was
at reset. Each field's docstring gives its width, the rule that names it and its reset value.
-/
namespace Sys2Proof.Machine

/-! ### Queue entries, waiters, pending results -/

/-- A queue entry (R132). -/
structure QEntry where
  /-- word0<55:0>: resume PC -/
  pc : Nat
  /-- word0<57:56>: priority class -/
  prio : Nat
  /-- word0<58>: 0 continuation, 1 root, donated or unstarted -/
  kind : Nat
  /-- word0<59>: counted in its frame's JOIN (R129) -/
  counted : Bool
  /-- word1: frame address -/
  frame : Nat
  /-- the entry has left a cluster queue or has lain in a die queue (R392) -/
  moved : Bool := false
deriving DecidableEq, Repr

/-- Where a slot parks (R398) and, for a thing that is served there, what the service needs. -/
inductive Place where
  /-- a full/empty word: cluster and SRAM byte offset (R281) -/
  | word (cl off : Nat)
  /-- an EMPTY D-block at a physical address (R49) -/
  | block (pa : Nat)
  /-- a page in transit: ASID and 64 KiB page number (R167) -/
  | page (asid vpn : Nat)
  /-- the pool or the TAS of a core (R180) -/
  | pool (core : Nat)
  /-- a barrier object: cluster and SRAM byte offset (R395) -/
  | barrier (cl off : Nat)
  /-- the inbox of a core (R340) -/
  | inbox (core : Nat)
  /-- a donation queue (R152) -/
  | donation (q : Nat)
  /-- a stream engine of a core, to be free (R323) -/
  | engine (core : Nat)
  /-- the data or the room of a stream, by core and engine: the slot is not ready, and it is not parked (R175, R183) -/
  | stream (core e : Nat)
  /-- a free copy slot of a core (R332) -/
  | copies (core : Nat)
  /-- a PRESSED cluster queue (R134) -/
  | pressed (cl : Nat)
  /-- room in a frame store (R146) -/
  | frames (cl : Nat)
  /-- a missing access that a C-die's full wait table holds: with one of its sixteen walkers, or waiting for one at its
  core; it is no parking place, and its slot is held, not parked (R165) -/
  | walker (die : Nat) (has : Bool)
  /-- the event latch (R427) -/
  | event
  /-- a task boundary under a drain (R140) -/
  | boundary
deriving DecidableEq, Repr

/-- A stream binding's parameter record (R183). -/
structure StreamRec where
  base : Nat
  fmt : Nat
  dims : Nat
  dir : Nat
  desc : Bool
  count : List Nat
  stride : List Int
deriving DecidableEq, Repr

/-- What happens when a waiter is served. -/
inductive WaitOp where
  /-- the parked instruction or access executes again from its start -/
  | reissue
  /-- lde: the word's data goes to a register -/
  | lde (dest : Nat)
  /-- ldx: as lde, and the word becomes empty -/
  | ldx (dest : Nat)
  /-- stf: the value goes to the word, and the word becomes full -/
  | stf (v : Word)
  /-- the parked instruction completes: execution goes on after it -/
  | complete
  /-- vwin: it issues again, and the window it then asks for is granted (R180, R245): the registers of its register form,
  or none, with the count and class of its other form -/
  | vwin (src : Option (Nat × Nat)) (count cls : Nat)
  /-- twin: it issues again, and the tile window it then asks for is granted (R181, R271): the register of its register
  form, or none, with the count of its other form -/
  | twin (src : Option Nat) (count : Nat)
  /-- a taken entry that waits for its windows (R106, R127, R139); the Bool says it came from a deque -/
  | start (e : QEntry) (fromDeque : Bool)
  /-- dtake: the next descriptor of the queue goes to an address, and 0 to a register (R152) -/
  | dtake (dest va : Nat)
  /-- sbind: the register is bound to the engine that has become free (R323) -/
  | bind (v : Nat) (r : StreamRec)
  /-- cpy, cpyt or cpym: the copy starts, and its id goes to a register (R332) -/
  | copy (dest kind dst src ctl : Nat)
deriving DecidableEq, Repr

/-- A parked slot in its waiter list; the list of the state is in order of arrival. -/
structure Wait where
  tid : Nat
  place : Place
  op : WaitOp
  /-- clk of the parking (R434) -/
  since : Nat := 0
deriving DecidableEq, Repr

/-- How a long-latency instruction ended, or what it still waits for (R192 to R194). -/
inductive PendOut where
  | value (v : Word)
  /-- a deferred fault: cause, ACC code and TVAL (R194) -/
  | fault (cause acc : Nat) (tval : Word)
  /-- a load that met a page in transit: it is performed again (R193) -/
  | access
  /-- lde (false) or ldx (true) on a word that was not full (R310) -/
  | full (take : Bool)
deriving DecidableEq, Repr

/-- A pending long-latency result (R192). -/
structure Pend where
  /-- instructions of the shadow still to issue -/
  left : Nat
  dest : Nat
  /-- address and word of the instruction -/
  iaddr : Word
  iword : Nat
  /-- start address of its access -/
  va : Word
  out : PendOut
  /-- the result has reached the slot (SHADOW_RESULT_ARRIVAL) -/
  arrived : Bool
  /-- its own instruction is the one being executed -/
  fresh : Bool := false
deriving DecidableEq, Repr

/-- A deferred-fault record: DFP, DFV and DFI (R421). -/
structure Deferred where
  dfp : Word := 0
  dfv : Word := 0
  dfi : Word := 0
deriving DecidableEq, Repr

/-- A line in an instruction cache or a fetch buffer (R169). -/
structure ILine where
  asid : Nat
  glob : Bool
  /-- the page's U bit, checked against the level at every fetch (R161) -/
  user : Bool
  /-- virtual address divided by 64 -/
  line : Nat
  /-- log2 of the size of its page -/
  size : Nat
  bytes : List Byte
deriving DecidableEq, Repr

/-- A cached translation (R163). -/
structure TlbEntry where
  asid : Nat
  glob : Bool
  /-- virtual address divided by the page size -/
  vpn : Nat
  /-- log2 of the page size -/
  size : Nat
  pte : Nat
deriving DecidableEq, Repr

/-- What a slot is doing. -/
inductive SlotMode where
  /-- no task; its steal engine probes -/
  | idle
  /-- no task; its steal engine waits for a notice or 1024 clk (R139) -/
  | resting
  /-- a taken entry is being moved in; the Bool says it came from a deque (R139) -/
  | starting (e : QEntry) (fromDeque : Bool)
  | running
  /-- parked at a place of R398 -/
  | parked
  /-- its missing access is held at the core: the C-die's walkers and wait table are full; it is not parked (R165) -/
  | held
deriving DecidableEq, Repr

/-- One slot. -/
structure Slot where
  /-- what the slot is doing; idle at reset (R175) -/
  mode : SlotMode := .idle
  /-- halted by a debugger, 1 bit, 0 (R438) -/
  halted : Bool := false
  /-- DBG_STEP lets one instruction issue, 1 bit, 0 (R438) -/
  stepOne : Bool := false
  /-- program counter, 64 bits, DESIGN CHOICE 0 (R58, log 7) -/
  pc : Word := 0
  /-- s1 to s31, 64 bits each, DESIGN CHOICE 0; s0 is never listed (R177, log 7) -/
  regs : FMap Word := []
  /-- k1 to k7, 32 bits each, DESIGN CHOICE 0; k0 is never listed (R177, log 7) -/
  masks : FMap (BitVec 32) := []
  /-- vector window count, 0 to 64, 0 = none (R179) -/
  vcount : Nat := 0
  /-- vector window class, 0 to 15; PRC.WCLS mirrors it (R179, R186) -/
  vclass : Nat := 0
  /-- v0 to v63: 32 lanes each of up to 76 bits; +0 when new (R27, R179) -/
  vregs : FMap (FMap Lane) := []
  /-- tile window count, 0 to 16, 0 = none (R181) -/
  tcount : Nat := 0
  /-- TAS storage number of each tile of the window (R125, R181) -/
  tmap : FMap Nat := []
  /-- PRC<7:0>, 8 bits, 0 until a task start sets PREC (R106, R186) -/
  prc : BitVec 8 := 0
  /-- FLG<7:0>, 8 bits, 0 (R187) -/
  flg : Flags := 0
  /-- FRP, 64 bits, 0 until a task start (R185) -/
  frp : Nat := 0
  /-- LID of the task's launch, 32 bits, 0 (R185) -/
  lid : Nat := 0
  /-- ASI, 14 bits, 0 (R185) -/
  asid : Nat := 0
  /-- DLN, 64 bits, 0 (R185) -/
  dln : Word := 0
  /-- TAU, 32 bits, 0 (R185) -/
  tau : BitVec 32 := 0
  /-- RGV, 32 bits, 0 (R185) -/
  rgv : BitVec 32 := 0
  /-- SLV, its writable fields in place, 0 (R267) -/
  slv : Word := 0
  /-- RAGE, 15 bits, 1024 (the default of R103; R185 gives the launch's value, log 7) -/
  rage : Nat := 1024
  /-- TVEC, 64 bits, 0 (R185, R419) -/
  tvec : Word := 0
  /-- TPC, 64 bits, 0 (R185, R420) -/
  tpc : Word := 0
  /-- TCAU, 12 bits used, 0 (R418) -/
  tcau : Word := 0
  /-- TVAL, 64 bits, 0 (R417) -/
  tval : Word := 0
  /-- DFP, DFV, DFI of the user level, 0 (R421) -/
  udef : Deferred := {}
  /-- SEPC, 64 bits, 0 (R185, R420) -/
  sepc : Word := 0
  /-- SCAU, 16 bits used, 0 (R418) -/
  scau : Word := 0
  /-- SVAL, 64 bits, 0 (R185) -/
  sval : Word := 0
  /-- DFP, DFV, DFI of the supervisor level, 0 (R421) -/
  sdef : Deferred := {}
  /-- supervisor level, 1 bit, 0 = user (R416) -/
  sup : Bool := false
  /-- UH, in a user handler, 1 bit, 0 (R416) -/
  uh : Bool := false
  /-- SH, in a supervisor handler, 1 bit, 0 (R416) -/
  sh : Bool := false
  /-- pending long-latency results in issue order, at most 16, none (R192) -/
  pend : List Pend := []
  /-- pending results set aside while a deferred fault of the same instruction is handled, none (R73, R194) -/
  later : List Pend := []
  /-- this slot's stream bindings: register to engine, at most 4, none (R183) -/
  binds : FMap Nat := []
  /-- deque, head (oldest) first, at most 64 entries, empty (R132) -/
  deque : List QEntry := []
  /-- fetch buffer of one line, none (R169) -/
  fetchBuf : Option ILine := none
  /-- waiting for an instruction-cache line, 1 bit, 0 (R169, R175) -/
  fetchMiss : Bool := false
  /-- event latch, 1 bit, DESIGN CHOICE 0 (R427, log 7) -/
  latch : Bool := false
  /-- clk at which a fruitless pass ended, 0 (R139) -/
  restAt : Nat := 0
  /-- work notice remembered by the steal engine, 1 bit, 0 (R139) -/
  notice : Bool := false
  /-- last copy id given, 16 bits, DESIGN CHOICE 0 (R332, log 7) -/
  copyId : Nat := 0
  /-- accumulate fault that awaits the slot: cause and block address, none (R357, RDS.AERR R374) -/
  accFault : Option (Nat × Nat) := none
  /-- operands of an atomic parked on a page: its pc, address, operand and expected value, none (R350) -/
  kept : Option (Word × Word × Word × Word) := none
  /-- a descriptor that a dtake has been given, while its store waits for a page: queue and descriptor, none (R152) -/
  got : Option (Nat × List Byte) := none
  /-- a taken entry whose window request traps WIN_DEADLOCK: it is tried again when the handler returns, none (R182, R433) -/
  taken : Option (QEntry × Bool) := none
  /-- drain: its pc, and the copies it waits for by TID and id, none (R329) -/
  drains : Option (Word × List (Nat × Nat)) := none
  /-- clk of the slot's last issue, none before the first (R174) -/
  issuedAt : Option Nat := none
deriving DecidableEq, Repr

/-- One tile of a TAS. -/
structure Tile where
  /-- 4096 bytes, zero when new (R249) -/
  data : Memory := []
  /-- tag code 0 to 5, ACC32 when new (R181) -/
  tag : Nat := 0
  /-- 256 sideband bytes, zero when new (R250) -/
  side : Memory := []
  /-- child frames whose SPAWN holds this storage (R125) -/
  holds : List Nat := []
deriving DecidableEq, Repr

/-- Where bytes live once an address is translated. -/
inductive Loc where
  /-- local package memory: physical address, coherence kind, log2 grain, described page, DOM -/
  | phys (pa ck grain : Nat) (d : Bool) (dom : Nat)
  /-- a peer device's memory: device, address there, log2 grain, described page, DOM (R159, R296) -/
  | peer (dev pa grain : Nat) (d : Bool) (dom : Nat)
  /-- cluster SRAM, as scratch or frame store -/
  | sram (cl off : Nat)
deriving DecidableEq, Repr

/-- A store in a core's shared store buffer (R387). -/
structure SBEntry where
  tid : Nat
  lid : Nat
  loc : Loc
  bytes : List Byte
  /-- siblings' slots that have taken its value (R387) -/
  seen : List Nat := []
  /-- a release came after it: nobody sees a younger store before it (R389, R391) -/
  before : Bool := false
deriving DecidableEq, Repr

/-- A vector load whose data has not been written (R195, R246). -/
structure WideEntry where
  tid : Nat
  vd : Nat
  /-- class of the lanes: the window's when the load issued, or that of a later vwin (R246) -/
  cls : Nat
  lanes : FMap Lane
  /-- lanes that are written (R219) -/
  act : BitVec 32
  /-- flags of the conversion -/
  flags : Flags
deriving DecidableEq, Repr

/-- What an accumulate adds (R355). -/
inductive AccData where
  /-- plain elements: element size in bytes, floating, and the elements of the unit by index -/
  | plain (size : Nat) (float : Bool) (els : FMap Nat)
  /-- described elements: expected FMT, and the value of each element slot -/
  | desc (f : Nat) (els : List (Nat × Val))
  /-- a residual of an INT or XACC target: FMT, SCL, and its integers by element slot (R361) -/
  | rep (f : Nat) (scl : Int) (els : FMap Int)
deriving DecidableEq, Repr

/-- A request that presents an accumulate unit to its home (R358, R360). -/
structure AccReq where
  core : Nat
  lid : Nat
  /-- slots whose addends it carries (R361) -/
  slots : List Nat
  pa : Nat
  va : Nat
  ck : Nat
  grain : Nat
  dom : Nat
  data : AccData
  must : Bool
  /-- creation time of the residual it carries (R363) -/
  born : Option Nat
  /-- home slice it was sent to (R292) -/
  home : Nat := 0
  /-- its place in its core's order of issue (R15, R293) -/
  seq : Nat := 0
deriving DecidableEq, Repr

/-- A home's answer (R362, R366). -/
structure AccAns where
  req : AccReq
  /-- 0 accepted, 1 refused, 2 accumulate fault -/
  outcome : Nat
  cause : Nat
  flags : Flags
deriving DecidableEq, Repr

/-- A residual entry (R361). -/
structure Residual where
  req : AccReq
  born : Nat
deriving DecidableEq, Repr

/-- A posted atomic on its way to its point of serialisation (R349). -/
structure AmoReq where
  tid : Nat
  lid : Nat
  fn : Nat
  size : Nat
  loc : Loc
  y : Nat
  /-- place it was sent to: a home slice (below 16), or 16 the cluster cache, a bank or a peer -/
  home : Nat := 16
  /-- counts by home that a release atomic carries (R369) -/
  rel : Option (FMap Nat) := none
  /-- its place in its core's order of issue (R15, R293) -/
  seq : Nat := 0
deriving DecidableEq, Repr

/-- A request of a core to a point of serialisation (R15, R346). -/
inductive HomeReq where
  | acc (r : AccReq)
  | amo (a : AmoReq)
deriving DecidableEq, Repr

/-- A copy in flight (R330 to R336). -/
structure Copy where
  tid : Nat
  lid : Nat
  asid : Nat
  sup : Bool
  id : Nat
  /-- 0 cpy, 1 cpyt, 2 cpym -/
  kind : Nat
  dst : Nat
  src : Nat
  ctl : Nat
  /-- bytes (cpy) or rows (cpyt, cpym) moved so far -/
  done : Nat
  /-- bytes read in front of the next chunk, so that no source unit is read in two parts (R384) -/
  ahead : List Byte := []
  /-- bytes delivered over all receivers -/
  bytes : Nat
  status : Nat
  /-- ranges written, by grain key: start and length (R338) -/
  ranges : List (Nat × Nat)
  /-- receivers still served: core and TAS storage number (R334) -/
  recv : List (Nat × Nat)
  /-- it has ended, and its writes are not yet acquired for the core (R338) -/
  finished : Bool
deriving DecidableEq, Repr

/-- An inbox message (R339). -/
structure Msg where
  tid : Nat
  lid : Nat
  bytes : List Byte
deriving DecidableEq, Repr

/-- An element that a read stream has fetched and that no pop has converted yet (R325, log 78). -/
inductive SElem where
  /-- the bits of a plain element -/
  | word (w : Nat)
  /-- an exact value: a described element's, or what a shrink of the class has made of an element (R35) -/
  | val (v : Val)
  /-- a lane of the window's class: an integer element that a vwin has converted, or what a store has put there (R190) -/
  | lane (x : Lane)
deriving DecidableEq, Repr

/-- A vector in a stream engine's buffer (R325). -/
structure SVec where
  /-- write stream: the lanes appended; read stream: none -/
  lanes : FMap Lane
  /-- class of these lanes; read stream: the window's class at the fetch -/
  cls : Nat
  /-- read stream: elements by lane that the pop converts -/
  raw : FMap SElem := []
  /-- write stream: the rounding mode of the append -/
  aux : Nat := 0
deriving DecidableEq, Repr

/-- A stream engine (R322 to R327). -/
structure Stream where
  tid : Nat
  v : Nat
  rcd : StreamRec
  /-- next element to fetch or to write -/
  pos : Nat
  /-- vectors popped or appended since sbind -/
  vecs : Nat
  /-- buffered vectors, oldest first, at most 8 (R325) -/
  buf : List SVec
  /-- cause and element address of a fault that awaits delivery (R326) -/
  fault : Option (Nat × Nat)
  /-- the fault has been delivered: the engine tries again when the instruction executes again (R326) -/
  told : Bool := false
  /-- waits on an EMPTY block or on a page in transit (R325, R167) -/
  waiting : Option Place
  /-- values appended to the described block that is being filled, slot 0 first (R324) -/
  part : List Val
deriving DecidableEq, Repr

/-- A grain in an L1, or in a cluster cache (R282, R286). The entries of one 512-byte line are those of one key / 512; a
sector of the line is valid where a listed grain covers it. -/
structure Grain where
  /-- log2 of its size: 5, 7 or 9 -/
  size : Nat
  ck : Nat
  dom : Nat
  bytes : List Byte
  /-- bytes that its holder has taken from a store and not passed on (R285) -/
  dirty : List Bool
  /-- launches that wrote its dirty bytes (R437) -/
  lids : List Nat := []
  /-- cluster cache: the bank that holds its line (R275, R276) -/
  bank : Nat := 0
deriving DecidableEq, Repr

/-- One core: what its sixteen slots share. -/
structure Core where
  /-- shared store buffer, oldest first, empty (R387) -/
  storeBuf : List SBEntry := []
  /-- vector loads with data on its way, in issue order, empty (R195) -/
  wideq : List WideEntry := []
  /-- TAS: 64 tiles by storage number; listed while a window or frame refers to them (R16, R126) -/
  tas : FMap Tile := []
  /-- the 16 stream engines; listed while bound (R16, R322) -/
  streams : FMap Stream := []
  /-- copies in flight, at most 512 (R332), and ended ones whose writes the core has not acquired (R338) -/
  copies : List Copy := []
  /-- inbox, at most 256 messages, oldest first (R339) -/
  inbox : List Msg := []
  /-- residual store, 64 entries in 16 sets of 4 (R361) -/
  residuals : List Residual := []
  /-- L1 data cache: grains by key, at most 128 lines of 512 bytes (R16, R282) -/
  l1 : FMap Grain := []
  /-- accumulate requests and posted atomics on their way, in order of issue (R15, R349, R358) -/
  out : List HomeReq := []
  /-- accumulate units of each launch since its last FLUSHR here: launch, physical address, length (R371) -/
  accumulated : List (Nat × Nat × Nat) := []
  /-- answers on their way back (R366) -/
  accAns : List AccAns := []
  /-- requests to home slices issued so far, the model's own count, 0 (R293) -/
  seq : Nat := 0
  /-- grains of kinds 1 and 2 that its L1 has held since before a wider acquire of its cluster, by key, none (R390) -/
  stale : List Nat := []
  /-- requests returned with remap status, and later ones held behind them, in order of issue (R292, R293) -/
  remapped : List HomeReq := []
  /-- requests issued to each home, 32 bits each (R369) -/
  issued : FMap Nat := []
  /-- the count of each home's last marker (R369) -/
  marked : FMap Nat := []
  /-- release markers returned with remap status, by the granule of the request that they counted (R292) -/
  markersBack : List Nat := []
  /-- remote writes performed at the owner whose acknowledgement is on its way (R296) -/
  remoteAcks : Nat := 0
  /-- refusals by launch (RDS.REFUSED, R374) -/
  refused : FMap Nat := []
  /-- instruction cache lines (R169) -/
  icache : List ILine := []
  /-- L1 TLB, at most 256 entries, newest first (R16, R163) -/
  tlb : List TlbEntry := []
  /-- CSLP.DEPTH, 2 bits, 1 (R198) -/
  cslp : Nat := 1
  /-- depth the core sleeps at, 0 = awake; 1 at reset, as no slot is ready and CSLP is 1 (R197) -/
  depth : Nat := 1
  /-- the slot that issued last, 4 bits, DESIGN CHOICE 15, so that slot 0 is first (R174, log 7) -/
  lastIssue : Nat := 15
  /-- the steal engine's last victim at each level (R137, R401) -/
  victims : FMap Nat := []
  /-- clk of the last release of pool or TAS space, or of the last WIN_DEADLOCK (R433) -/
  poolAt : Nat := 0
  /-- WIN_DEADLOCK has been raised and no request has been granted since, 1 bit, 0 (R433) -/
  deadlockShown : Bool := false
deriving DecidableEq, Repr

/-- A directory entry (R283, R284). -/
structure Dir where
  /-- log2 of the grain's size, its coherence kind and domain -/
  size : Nat
  ck : Nat
  dom : Nat
  /-- cores that hold the grain, exact while at most four; afterwards the cores of every marked pair -/
  sharers : List Nat
  coarse : Bool
  owner : Option Nat
  /-- an ownership request in progress: the requester and the cores whose answers are outstanding -/
  request : Option (Nat × List Nat)
deriving DecidableEq, Repr

/-- A frame's hidden data (R120, R126, R392); its header and saved state are bytes of the SRAM. -/
structure FrameInfo where
  /-- SIZE in 64-byte units -/
  units : Nat
  /-- the holder H of R392: a core -/
  holder : Nat
  /-- the widest scope among the round's releases (R392) -/
  round : Nat
  /-- TAS storage of each named tile: core and storage number, in TNAME order (R126) -/
  tiles : List (Nat × Nat)
  /-- s2 to s8 of a donated task that has not started (R142) -/
  args : List Nat
deriving DecidableEq, Repr

/-- Scratch of one launch in one cluster (R278). -/
structure Scratch where
  lid : Nat
  asid : Nat
  /-- the banks it lies in, in the order of its offsets; other banks that change their mode move nothing of it (R276) -/
  banks : List Nat
  /-- where it starts in the first of them -/
  base : Nat
  size : Nat
deriving DecidableEq, Repr

/-- One cluster. -/
structure Cluster where
  /-- 8 MiB of SRAM by byte offset, zero (scratch, frames); DESIGN CHOICE 0 where nothing wrote it (R275, log 8) -/
  sram : Memory := []
  /-- scratch words that are empty, by SRAM byte offset; every other word is full (R278, R280) -/
  empty : FMap Bool := []
  /-- BANKCFG, 64 bits, 0x0000_0005_5555_555A from firmware (R275) -/
  bankcfg : Word := 0x000000055555555A
  /-- cluster queue, oldest first, at most 512 entries (R132) -/
  cq : List QEntry := []
  /-- PRESSED, 1 bit, 0 (R134) -/
  pressed : Bool := false
  /-- CQLOW in force while PRESSED, 0: that of the launch whose push found it so (R134) -/
  low : Nat := 0
  /-- domain of that launch, 64 bits, 0 (R135) -/
  pressDom : Nat := 0
  /-- cluster cache: grains by key, in lines of the banks in cache mode (R275, R282) -/
  grains : FMap Grain := []
  /-- L2 TLB, at most 8192 entries, newest first (R16, R163) -/
  tlb2 : List TlbEntry := []
  /-- directory: the grains that L1s of the cluster hold, by key (R283) -/
  dir : FMap Dir := []
  /-- allocated frames, by SRAM offset (R120) -/
  frames : FMap FrameInfo := []
  /-- scratch regions in use (R278) -/
  scratch : List Scratch := []
  /-- ASID that last held each 4 KiB of scratch, 0 = none (R278) -/
  lastHeld : FMap Nat := []
  /-- clk of the lease agent's last heartbeats, 0 (R435) -/
  beatAt : Nat := 0
deriving DecidableEq, Repr

/-- The watermarks in force for a push, and the domain of its launch (R134, R135). -/
structure Marks where
  cqhigh : Nat
  dqhigh : Nat
  dqlow : Nat
  domain : Nat
deriving DecidableEq, Repr

/-- A table entry in a walk cache (R164): its level, the part of the virtual address that leads to it, its physical
address and its value. -/
structure WalkEntry where
  asid : Nat
  level : Nat
  /-- virtual address divided by what one entry of the level covers -/
  lead : Nat
  pa : Nat
  entry : Nat
deriving DecidableEq, Repr

/-- One C-die. -/
structure Die where
  /-- walk cache, at most 512 entries, newest first (R16, R164) -/
  walkCache : List WalkEntry := []
  /-- die queue, oldest first; entries beyond 8192 are held in HBM (R132) -/
  dq : List QEntry := []
  /-- PRESSED, 1 bit, 0 (R134) -/
  pressed : Bool := false
  /-- DQLOW in force while PRESSED, 0: that of the launch whose push found it so (R134) -/
  low : Nat := 0
  /-- domain of that launch, 64 bits, 0 (R135) -/
  pressDom : Nat := 0
  /-- clusters whose offload was refused, in order, with the watermarks of the push (R134) -/
  refused : List (Nat × Marks) := []
  /-- free-page ring, oldest first, at most 512 addresses (R300) -/
  ring : List Nat := []
  /-- ring places reserved for running swap-ins (R301) -/
  ringHeld : Nat := 0
  /-- wide duty d of 16, 4 to 16, 16 (R460) -/
  duty : Nat := 16
  /-- cap set by THR_SET, 16 = none (R462) -/
  cap : Nat := 16
  /-- throttle steps since reset, 32 bits, 0 (R463) -/
  steps : Nat := 0
  /-- clk of the last trigger or rise, from which R460 counts its 10 ms, 0 -/
  trig : Nat := 0
deriving DecidableEq, Repr

/-- A pending write-queue entry of a home: the requests that have joined it, in order of arrival (R360, R368). -/
structure WqEntry where
  reqs : List AccReq
deriving DecidableEq, Repr

/-- A write lease (cluster) or a read lease (remote grain) at a home (R435). -/
structure Lease where
  read : Bool
  /-- the grain lies on a described page -/
  desc : Bool
  cl : Nat
  pa : Nat
  size : Nat
  /-- clk of its registration or last heartbeat -/
  beat : Nat
  /-- it has expired, and write-backs of its cluster are discarded (R436) -/
  dead : Bool := false
deriving DecidableEq, Repr

/-- A line of a home slice's cache (R290, R291). -/
structure HomeLine where
  bytes : List Byte
  /-- bytes that HBM does not hold yet -/
  dirty : List Bool
deriving DecidableEq, Repr

/-- A write to a peer's memory on its way to its owner (R296). -/
structure RemoteWrite where
  core : Nat
  lid : Nat
  dev : Nat
  pa : Nat
  bytes : List Byte
deriving DecidableEq, Repr

/-- One home slice. -/
structure Home where
  /-- device-level cache: lines of 64 bytes by physical address, at most 96 MiB (R16, R290, R291) -/
  cache : FMap HomeLine := []
  /-- writes that pass to peers through this home, oldest first (R296) -/
  remoteOut : List RemoteWrite := []
  /-- write queue, oldest first, at most 256 entries (R360) -/
  wq : List WqEntry := []
  /-- requests accepted in this window, by source core × 2^52 + grain (R360) -/
  quota : FMap Nat := []
  /-- requests received from each core, 32 bits each (R369) -/
  received : FMap Nat := []
  /-- markers received: core and count (R369) -/
  markers : List (Nat × Nat) := []
  /-- leases registered here (R435) -/
  leases : List Lease := []
  /-- cached remote grains by key (R296) -/
  remote : FMap (List Byte) := []
deriving DecidableEq, Repr

/-- An address-space id (R109, R157). -/
structure Asid where
  /-- live, 1 bit, 0 (R109) -/
  live : Bool := false
  /-- PTBR, 64 bits, 0 until ASID_SET (R157) -/
  ptbr : Word := 0
  /-- session secret of a sealed ASID, none (R108) -/
  secret : Option (List Byte) := none
  /-- storage key, 32 bytes, none until ASID_SET (R109) -/
  key : List Byte := []
  /-- last accepted nonce, 64 bits, 0 (R108) -/
  nonce : Nat := 0
  /-- swap IV counter, 64 bits, DESIGN CHOICE 0 (R298, log 7) -/
  iv : Nat := 0
deriving DecidableEq, Repr

/-- One command queue's register block (R99). -/
structure Queue where
  /-- QBASE, 64 bits, 0 -/
  base : Word := 0
  /-- QCFG.EN, 1 bit, 0 -/
  en : Bool := false
  /-- QCFG.LOG2SIZE, 4 bits, 4 -/
  log2 : Nat := 4
  /-- QCFG.ASID, 14 bits, 0 -/
  asid : Nat := 0
  /-- QPI, 32 bits, 0 -/
  pi : Nat := 0
  /-- QCI, 32 bits, 0 -/
  ci : Nat := 0
  /-- QSTAT.OVF, 1 bit, 0 -/
  ovf : Bool := false
  /-- QSTAT.HOLD, 1 bit, 0: the launch id that waits (R104, R105) or the RESUME target -/
  hold : Option Nat := none
  /-- QSTAT.ADDR, 1 bit, 0 -/
  addrErr : Bool := false
deriving DecidableEq, Repr

/-- A DRAIN or RESUME command that acts on a launch (R429, R432). -/
structure Command where
  image : Nat
  /-- SEQ of its journal entry -/
  seq : Nat
  notify : Bool
  source : Nat
  /-- clk at which a drain's limit ends, and whether it has ended (R428, R429) -/
  limit : Nat := 0
  expired : Bool := false
deriving DecidableEq, Repr

/-- A launch that is not final (R104, R105, R112). -/
structure Launch where
  lid : Nat
  asid : Nat
  /-- the 256 bytes of its record (R103) -/
  record : List Byte
  /-- usable clusters of its domain at admission (R104) -/
  domain : Nat
  /-- SEQ of its journal entry -/
  seq : Nat
  /-- journal STATE: 1 to 5 (R112) -/
  state : Nat
  /-- queue that carried it, 255 for LAUNCH -/
  source : Nat
  rootFrame : Nat := 0
  /-- the root task has ended (R455) -/
  rootEnded : Bool := false
  /-- live donated tasks (R455) -/
  donated : Nat := 0
  /-- the DRAIN that has stopped task hand-out (R429) -/
  drain : Option Command := none
  /-- save areas made by this drain: FRP and bytes (R430) -/
  saved : List (Nat × Memory) := []
  /-- entries of the slots that this drain has saved (R430) -/
  savedEntries : List QEntry := []
  /-- image of the last drain (R432) -/
  image : Nat := 0
  /-- the RESUME that waits for scratch (R432) -/
  resume : Option Command := none
  /-- messages held for resumed frames (R432) -/
  messages : List (Nat × List Byte) := []
  /-- clk when copies, fetches, swaps or home requests of it were last outstanding (R434) -/
  busy : Nat := 0
  /-- QWAIT has been raised and no slot has issued since (R434) -/
  quiet : Bool := false
  /-- an end that waits for its completion record to be written: final STATE, REASON, DETAIL (R115, R457) -/
  ending : Option (Nat × Nat × Nat) := none
deriving DecidableEq, Repr

/-- A donation queue (R141). -/
structure DonQ where
  /-- the launch it is open for, none = closed -/
  lid : Option Nat := none
  /-- generation, 24 bits, DESIGN CHOICE 0 (R141, log 7) -/
  gen : Nat := 0
  /-- descriptors of 64 bytes, oldest first, at most 4096 -/
  descs : List (List Byte) := []
deriving DecidableEq, Repr

/-- A swap request (R343). -/
structure Swap where
  id : Nat
  /-- swap-out (true) or swap-in -/
  out : Bool
  tid : Nat
  lid : Nat
  asid : Nat
  /-- VA<55:16> -/
  vpn : Nat
  drive : Nat
  lba : Nat
  /-- destination page of a swap-in, and whether it came from a ring, with its die -/
  dest : Nat
  ring : Option Nat
  /-- FLUSH or DEALLOC; AS; NOTIFY -/
  opt : Nat
  /-- 0 not started, 1 waiting for the drive, 2 the drive has answered, 3 ended, its message waiting for the inbox, 4 the
  record is written and the drive flushes it (R299) -/
  phase : Nat
  ok : Bool
  /-- final status -/
  code : Nat := 0
  /-- the record of a swap-out -/
  data : List Byte := []
  /-- physical address of the PTE once the walk has found it -/
  ptePa : Nat
deriving DecidableEq, Repr

/-- What the step being taken was given: the place where it happens and what the outside world brings to it. -/
structure EventArgs where
  a : Nat := 0
  b : Nat := 0
  c : Nat := 0
  v : Word := 0
  bytes : List Byte := []
deriving DecidableEq, Repr

/-- The whole package. -/
structure State where
  /-- power is on, 1 bit, 1 (R117, R461) -/
  power : Bool
  /-- the management side-band is powered, 1 bit, 1 (R461) -/
  sideOn : Bool
  /-- boots since the model began, added to firmware's persistent boot count, 0 (R298) -/
  boots : Nat
  /-- clk counted since reset, a natural number, 0 (R185 CYC, R360) -/
  clk : Nat
  /-- the model's own counter of steps, 0 (log 2) -/
  tick : Nat
  /-- TID of the slot whose instruction is executed, 14 bits, DESIGN CHOICE 0 (R18, log 7) -/
  cur : Nat
  /-- what the step being taken was given, none (log 9) -/
  ev : EventArgs
  /-- steps that the outside world has asked for, oldest first, none (log 9) -/
  inputs : List (Instr × EventArgs)
  /-- slots by TID (R17) -/
  slots : FMap Slot
  /-- cores by device-wide number (R17) -/
  cores : FMap Core
  /-- clusters by device-wide number (R17) -/
  clusters : FMap Cluster
  /-- C-dies by number (R10) -/
  dies : FMap Die
  /-- home slices by number (R17) -/
  homes : FMap Home
  /-- parked slots in order of arrival, none (R398) -/
  waits : List Wait
  /-- HBM, by physical address; DESIGN CHOICE 0 where nothing wrote it (R289, log 8) -/
  mem : Memory
  /-- plain grains tagged poisoned: base to size, none (R436) -/
  poison : FMap Nat
  /-- the bytes of a tagged grain that have been written since, by its base, none (R436) -/
  mended : FMap (List Bool)
  /-- STVEC, 64 bits, 0 (R464) -/
  stvec : Word
  /-- HSEL.VAR, 3 bits, 0 from firmware; ACT reads MDIEMASK (R289) -/
  hselVar : Nat
  /-- DOM0 to DOM3, 17 bits each, MASK = ACT and SPREAD = 0 (R290) -/
  doms : FMap Nat
  /-- HQOTA.QUOTA, 7 bits, 4 (R359) -/
  hqota : Nat
  /-- QUOTA in force in the current window, 7 bits, 4 (R359) -/
  quotaNow : Nat
  /-- number of the window of 256 clk whose counts the homes keep, 0 (R360) -/
  window : Nat
  /-- DRNL.LIMIT, 14 bits, 50 (R428) -/
  drnl : Nat
  /-- LEASE.PERIOD, 11 bits, 64 (R435) -/
  lease : Nat
  /-- ASIDs by number (R109) -/
  asids : FMap Asid
  /-- 2 MiB regions owned by sealed ASIDs: region number to ASID, none (R111) -/
  owned : FMap Nat
  /-- launches that are not final, by admission (R105) -/
  launches : List Launch
  /-- next launch id, 32 bits, 1 (R105) -/
  nextLid : Nat
  /-- JHEAD, 64 bits, 1 (R114) -/
  jhead : Nat
  /-- JREL, 64 bits, 1 (R114) -/
  jrel : Nat
  /-- the 16 command queues (R99) -/
  queues : FMap Queue
  /-- the queue served last (R101) -/
  lastQueue : Nat
  /-- DSTAT.STATE, 4 bits, 1 BOOTING (R98) -/
  dstate : Nat
  /-- DSTAT.BOOTERR, 8 bits, 0 (R98) -/
  bootErr : Nat
  /-- MDIEMASK of the capability record, 16 bits, all ones on a GRM-P416 (R97) -/
  mdieMask : Nat
  /-- CLUMASK of the capability record, 64 bits, 0 until boot ends (R97) -/
  cluMask : Nat
  /-- JBASE of the capability record, 64 bits, 0 until boot ends (R97) -/
  jbase : Nat
  /-- host window entries by number, 64 bits each, DESIGN CHOICE 0 (R95, log 7) -/
  windows : FMap Nat
  /-- mailbox: the command that runs, 0 = none (R109) -/
  mbRun : Nat
  /-- MBCMD argument length, 16 bits, DESIGN CHOICE 0 (R109, log 7) -/
  mbLen : Nat
  /-- MBSTS<7:0>, 8 bits, DESIGN CHOICE 0x01 (R109, log 7) -/
  mbSts : Nat
  /-- MBSTS<31:16>, 16 bits, DESIGN CHOICE 0 (R109, log 7) -/
  mbResp : Nat
  /-- mailbox data area, 1 KiB, DESIGN CHOICE 0 (R109, log 7) -/
  mbData : Memory
  /-- MSI-X table and pending-bit array by BAR0 offset from 0x2_0000, DESIGN CHOICE 0 (R94, log 7) -/
  msixTable : Memory
  /-- MSI-X messages sent, by vector, newest first, none (R94) -/
  msix : List Nat
  /-- data of the last host read, none (R96) -/
  hostData : List Byte
  /-- donation queues by number (R141) -/
  donqs : FMap DonQ
  /-- descriptors sent to peer devices and not yet answered: TID, LID, handle, descriptor (R151) -/
  donOut : List (Nat × Nat × Nat × List Byte)
  /-- answers of peers on their way: kind, TID, LID, handle, descriptor (R151) -/
  donIn : List (Nat × Nat × Nat × Nat × List Byte)
  /-- swap requests not yet final (R343) -/
  swaps : List Swap
  /-- next swap request id, 16 bits, DESIGN CHOICE 1 (R343, log 7) -/
  nextSwap : Nat
  /-- final statuses by request id, the 4096 latest, none (R344) -/
  swapStatus : FMap Nat
  /-- ids of kept statuses, oldest first (R344) -/
  swapKept : List Nat
  /-- page notices on their way: C-die, ASID, 64 KiB page number (R167) -/
  notices : List (Nat × Nat × Nat)
  /-- flash contents by drive and byte address (R297) -/
  drives : FMap Memory
  /-- memory of peer devices by device id, as their homes hold it (R296) -/
  peers : FMap Memory
  /-- fenced clusters, 64 bits, 0 (R437) -/
  fencedClusters : Nat
  /-- fenced C-dies, 4 bits, 0 (R437) -/
  fencedDies : Nat
  /-- fenced M-dies, 16 bits, 0 (R437) -/
  fencedMdies : Nat
  /-- fenced link ports, 24 bits, 0 (R437) -/
  fencedLinks : Nat
  /-- fenced flash ports, 4 bits, 0 (R437) -/
  fencedFlash : Nat
  /-- break-to-halt, 1 bit, DESIGN CHOICE 0 (R438, log 7) -/
  breakHalt : Bool
  /-- thermal trips since the last DEV_RESET, 32 bits, 0 (R463) -/
  trips : Nat
  /-- image in the boot flash, DESIGN CHOICE empty (R118, log 7) -/
  bootImage : List Byte
  /-- image that the running firmware was started from, empty before a boot has started one (R97, R118, R119) -/
  fwImage : List Byte
  /-- answers given on the side-band, newest first, none (R462) -/
  sideband : List (List Byte)
deriving DecidableEq, Repr

/-- Why the machine stops. -/
inductive Fault where
  /-- `step`, when the clocks are stopped or power is lost (R117, R461) and no reset is asked for. Safe: the device does
  nothing until a conventional reset. -/
  | clockStopped
deriving DecidableEq, Repr

/-- Why there is no meaning. -/
inductive Refusal where
  /-- The arm of an instruction that has no meaning yet. Safe. -/
  | notModelled (mnemonic : String)
deriving DecidableEq, Repr

/-- The package right after reset: firmware has not booted it (R98, R118). -/
def State.reset : State where
  power := true
  sideOn := true
  boots := 0
  clk := 0
  tick := 0
  cur := 0
  ev := {}
  inputs := []
  slots := []
  cores := []
  clusters := []
  dies := []
  homes := []
  waits := []
  mem := []
  poison := []
  mended := []
  stvec := 0
  hselVar := 0
  doms := []
  hqota := 4
  quotaNow := 4
  window := 0
  drnl := 50
  lease := 64
  asids := []
  owned := []
  launches := []
  nextLid := 1
  jhead := 1
  jrel := 1
  queues := []
  lastQueue := 15
  dstate := 1
  bootErr := 0
  mdieMask := 0xFFFF
  cluMask := 0
  jbase := 0
  windows := []
  mbRun := 0
  mbLen := 0
  mbSts := 1
  mbResp := 0
  mbData := []
  msixTable := []
  msix := []
  hostData := []
  donqs := []
  donOut := []
  donIn := []
  swaps := []
  nextSwap := 1
  swapStatus := []
  swapKept := []
  notices := []
  drives := []
  peers := []
  fencedClusters := 0
  fencedDies := 0
  fencedMdies := 0
  fencedLinks := 0
  fencedFlash := 0
  breakHalt := false
  trips := 0
  bootImage := []
  fwImage := []
  sideband := []

end Sys2Proof.Machine
end

