-- ==== Sys2Proof/Machine/Access.lean ====
section
/-!
DEFINITION. Reading and writing the places of the state: slots, cores, clusters, dies, home slices, launches; scalar
and mask registers with their hard-wired members (R177); device constants of the capability record (R97).
-/
namespace Sys2Proof.Machine

/-! ### Numbers of places (R17, R18) -/

/-- Core of a TID. -/
def coreOf (t : Nat) : Nat := t / 16
/-- Device-wide cluster of a TID. -/
def cluOf (t : Nat) : Nat := t / 256
/-- C-die of a TID. -/
def dieOf (t : Nat) : Nat := t / 4096
/-- Device-wide cluster of a core. -/
def cluOfCore (c : Nat) : Nat := c / 16
/-- C-die of a cluster. -/
def dieOfClu (k : Nat) : Nat := k / 16

/-! ### Tables of the state -/

def State.slotAt (s : State) (t : Nat) : Slot := FMap.getD s.slots t {}
def State.setSlot (s : State) (t : Nat) (x : Slot) : State := { s with slots := FMap.put s.slots t x }
def State.modSlot (s : State) (t : Nat) (f : Slot → Slot) : State := s.setSlot t (f (s.slotAt t))

/-- The slot whose instruction is executed. -/
def State.me (s : State) : Slot := s.slotAt s.cur
def State.modMe (s : State) (f : Slot → Slot) : State := s.modSlot s.cur f

def State.coreAt (s : State) (c : Nat) : Core := FMap.getD s.cores c {}
def State.setCore (s : State) (c : Nat) (x : Core) : State := { s with cores := FMap.put s.cores c x }
def State.modCore (s : State) (c : Nat) (f : Core → Core) : State := s.setCore c (f (s.coreAt c))
/-- Core of the current slot. -/
def State.myCore (s : State) : Nat := coreOf s.cur
/-- Cluster of the current slot. -/
def State.myClu (s : State) : Nat := cluOf s.cur

def State.cluAt (s : State) (k : Nat) : Cluster := FMap.getD s.clusters k {}
def State.setClu (s : State) (k : Nat) (x : Cluster) : State := { s with clusters := FMap.put s.clusters k x }
def State.modClu (s : State) (k : Nat) (f : Cluster → Cluster) : State := s.setClu k (f (s.cluAt k))

def State.dieAt (s : State) (d : Nat) : Die := FMap.getD s.dies d {}
def State.modDie (s : State) (d : Nat) (f : Die → Die) : State := { s with dies := FMap.put s.dies d (f (s.dieAt d)) }

def State.homeAt (s : State) (h : Nat) : Home := FMap.getD s.homes h {}
def State.modHome (s : State) (h : Nat) (f : Home → Home) : State :=
  { s with homes := FMap.put s.homes h (f (s.homeAt h)) }

def State.asidAt (s : State) (a : Nat) : Asid := FMap.getD s.asids a {}
def State.modAsid (s : State) (a : Nat) (f : Asid → Asid) : State :=
  { s with asids := FMap.put s.asids a (f (s.asidAt a)) }

def State.queueAt (s : State) (q : Nat) : Queue := FMap.getD s.queues q {}
def State.modQueue (s : State) (q : Nat) (f : Queue → Queue) : State :=
  { s with queues := FMap.put s.queues q (f (s.queueAt q)) }

def State.donqAt (s : State) (q : Nat) : DonQ := FMap.getD s.donqs q {}
def State.modDonq (s : State) (q : Nat) (f : DonQ → DonQ) : State :=
  { s with donqs := FMap.put s.donqs q (f (s.donqAt q)) }
/-- A descriptor that a slot was given and has not stored is the oldest of its queue again (R152). -/
def State.ungive (s : State) (t : Nat) : State :=
  match (s.slotAt t).got with
  | none => s
  | some (q, desc) =>
    (if (s.donqAt q).lid = some (s.slotAt t).lid then s.modDonq q fun x => { x with descs := desc :: x.descs } else s).modSlot t
      fun x => { x with got := none }

/-- The launch with an id, if it is not final. -/
def State.launch? (s : State) (lid : Nat) : Option Launch := s.launches.find? fun l => l.lid = lid
def State.modLaunch (s : State) (lid : Nat) (f : Launch → Launch) : State :=
  { s with launches := s.launches.map fun l => if l.lid = lid then f l else l }

/-! ### Scalar and mask registers (R177) -/

/-- Read s_r; s0 reads as zero. -/
def Slot.reg (x : Slot) (r : Nat) : Word := if r = 0 then 0 else FMap.getD x.regs r 0
/-- Write s_r; a write to s0 is discarded. -/
def Slot.setReg (x : Slot) (r : Nat) (v : Word) : Slot :=
  if r = 0 then x else { x with regs := FMap.put x.regs r v }
/-- Read k_i; k0 reads as all ones. -/
def Slot.mask (x : Slot) (i : Nat) : BitVec 32 := if i = 0 then 0xFFFFFFFF else FMap.getD x.masks i 0
/-- Write k_i; a write to k0 is discarded. -/
def Slot.setMask (x : Slot) (i : Nat) (v : BitVec 32) : Slot :=
  if i = 0 then x else { x with masks := FMap.put x.masks i v }

/-- Scalar register r of the current slot. -/
def State.reg (s : State) (r : BitVec 5) : Word := s.me.reg r.toNat
/-- Write a scalar register of the current slot. -/
def State.setReg (s : State) (r : BitVec 5) (v : Word) : State := s.modMe fun x => x.setReg r.toNat v
/-- Write a scalar register given by number. -/
def State.setRegN (s : State) (t r : Nat) (v : Word) : State := s.modSlot t fun x => x.setReg r v

/-- Advance the program counter of the current slot by n bytes (R58). -/
def State.advance (s : State) (n : Nat) : State := s.modMe fun x => { x with pc := x.pc + BitVec.ofNat 64 n }
/-- Jump of the current slot. -/
def State.jump (s : State) (pc : Word) : State := s.modMe fun x => { x with pc := pc }

/-- OR flags into FLG of a slot (R187). -/
def State.orFlags (s : State) (t : Nat) (f : Flags) : State := s.modSlot t fun x => { x with flg := x.flg ||| f }

/-- One more instruction of the slot has issued within the shadows of its pending results (R73, R192). -/
def Slot.passShadow (x : Slot) : Slot :=
  { x with pend := x.pend.map fun p => if p.fresh then { p with fresh := false } else { p with left := p.left - 1 } }

/-- The slot is in a trap handler (R416). -/
def Slot.inHandler (x : Slot) : Bool := x.uh || x.sh

/-- The low 32 bits of a word with their sign extended. -/
def sext32 (w : Word) : Word := (w.setWidth 32).signExtend 64

/-! ### Time and device constants -/

/-- TIME in ns (R185). -/
def State.time (s : State) : Nat := s.clk * 10 / 7

/-- Number of bits set below position n. -/
def popcount (w : Nat) : Nat → Nat
  | 0 => 0
  | n + 1 => popcount w n + b2n (bitOf w n)

/-- The set bits of w below n, in rising order. -/
def setBits (w n : Nat) : List Nat := (List.range n).filter fun i => bitOf w i

/-- Active M-dies (R97). -/
def State.activeMdies (s : State) : List Nat := setBits s.mdieMask 16
/-- MEMBYTES: 64 GiB for each active M-die (R97, R22). -/
def State.memBytes (s : State) : Nat := popcount s.mdieMask 16 * 2 ^ 36

/-- Usable clusters now: usable at boot and not fenced (R104, R437). -/
def State.usable (s : State) : Nat :=
  (List.range 64).foldl (fun a c =>
    if bitOf s.cluMask c && !bitOf s.fencedClusters c && !bitOf s.fencedDies (dieOfClu c) then a + 2 ^ c else a) 0

/-! ### Home slices (R289, R290) -/

/-- The M-die that stores a physical address: the r-th active one (R289). -/
def State.storeOf (s : State) (pa : Nat) : Nat :=
  let act := s.activeMdies
  act.getD ((pa / 4096) % act.length) 0

/-- fold(g) of R290. -/
def foldG (g : Nat) : Nat := (bitsOf g 7 0) ^^^ (bitsOf g 15 8) ^^^ (bitsOf g 23 16) ^^^ (bitsOf g 27 24)

/-- DOMn: its reset value is MASK = ACT, SPREAD = 0 (R290). -/
def State.domAt (s : State) (n : Nat) : Nat := FMap.getD s.doms n s.mdieMask

/-- The home of an address under a value of its domain register (R290). -/
def State.homeUnder (s : State) (dom pa : Nat) : Nat :=
  if bitOf dom 16 then
    let set := setBits dom 16
    set.getD (foldG (pa / 4096) % set.length) 0
  else s.storeOf pa

/-- The home slice of a physical address in domain n (R290). -/
def State.homeOf (s : State) (n pa : Nat) : Nat := s.homeUnder (s.domAt n) pa

/-! ### Launch records (R103) -/

/-- A little-endian field of a record. -/
def recField (r : List Byte) (off n : Nat) : Nat := natOfBytes ((r.drop off).take n)

def Launch.prio (l : Launch) : Nat := recField l.record 6 1
def Launch.prec (l : Launch) : Nat := recField l.record 7 1
def Launch.entry (l : Launch) : Nat := recField l.record 16 8
def Launch.arg (l : Launch) : Nat := recField l.record 24 8
def Launch.vcount (l : Launch) : Nat := recField l.record 32 1
def Launch.vclass (l : Launch) : Nat := recField l.record 33 1
def Launch.tcount (l : Launch) : Nat := recField l.record 34 1
def Launch.cqhigh (l : Launch) : Nat := recField l.record 40 2
def Launch.cqlow (l : Launch) : Nat := recField l.record 42 2
def Launch.dqhigh (l : Launch) : Nat := recField l.record 44 2
def Launch.dqlow (l : Launch) : Nat := recField l.record 46 2
def Launch.rage (l : Launch) : Nat := recField l.record 48 4
def Launch.drainLimit (l : Launch) : Nat := recField l.record 52 4
def Launch.tvec (l : Launch) : Nat := recField l.record 56 8
def Launch.done (l : Launch) : Nat := recField l.record 64 8
def Launch.tag (l : Launch) : Nat := recField l.record 72 8
def Launch.notify (l : Launch) : Bool := bitOf (recField l.record 2 2) 1

/-- The smallest power of two that is at least n, at most 2^k. -/
def pow2Up (n : Nat) : Nat → Nat
  | 0 => 1
  | k + 1 => if n ≤ 2 ^ k then pow2Up n k else 2 ^ (k + 1)

/-- S: SCRATCH rounded up to a power of two (R278). -/
def Launch.scratch (l : Launch) : Nat := pow2Up (recField l.record 36 4) 32

/-- Size of a frame in bytes rounded up to 64. -/
def roundUp64 (n : Nat) : Nat := (n + 63) / 64 * 64

/-- SIZE of the root frame of a record, in bytes (R400). -/
def Launch.rootSize (l : Launch) : Nat := roundUp64 (64 + 8 * 31 + l.vcount * (64 + 16 * l.vclass))

/-- A list without its element at index i. -/
def dropIdx {α : Type} (l : List α) (i : Nat) : List α := l.take i ++ l.drop (i + 1)

/-- Send an MSI-X message (R94). -/
def State.sendMsix (s : State) (v : Nat) : State := { s with msix := v :: s.msix }

end Sys2Proof.Machine
end

