-- ==== Sys2Proof/Machine/DBlock.lean ====
section
/-!
DEFINITION. D-blocks (R37 to R57): the 64-byte blocks of described pages. A block is its 64 bytes; its first two are
the header, the other 62 the payload.
-/
namespace Sys2Proof.Machine

/-- The 64 bytes of a block. -/
abbrev Block := List Byte

def fmtEMPTY : Nat := 0x00
def fmtPEB7 : Nat := 0x20
def fmtPEB3 : Nat := 0x30
def fmtXACC : Nat := 0x40
def fmtNANBLK : Nat := 0xE0
def fmtPOISON : Nat := 0xF0

/-- FMT of a block (R37). -/
def Block.fmt (b : Block) : Nat := (b.getD 0 0).toNat
/-- SCL of a block, −128 to 127 (R37). -/
def Block.scl (b : Block) : Int := (b.getD 1 0).toInt
/-- The 512 bits of a block as a number; block bit b is bit b (R37). -/
def Block.num (b : Block) : Nat := natOfBytes b

/-- The element families that a described access may expect. -/
def fmtIsVlf (f : Nat) : Bool := 0x10 ≤ f && f ≤ 0x1F
def fmtIsInt (f : Nat) : Bool := 0x50 ≤ f && f ≤ 0x53

/-- The FMT values of R38; every other one is reserved. -/
def fmtValid (f : Nat) : Bool :=
  f = fmtEMPTY || fmtIsVlf f || f = fmtPEB7 || f = fmtPEB3 || f = fmtXACC || fmtIsInt f || f = fmtNANBLK ||
    f = fmtPOISON

/-- Width of a VLF memory element of class n (R43). -/
def memW (n : Nat) : Nat := 12 + 4 * n

/-- Elements per block of a format (R38). -/
def fmtK (f : Nat) : Nat :=
  if fmtIsVlf f then 496 / memW (f - 0x10)
  else if f = fmtPEB7 then 64
  else if f = fmtPEB3 then 128
  else if f = fmtXACC then 1
  else if f = 0x50 then 62 else if f = 0x51 then 31 else if f = 0x52 then 15 else if f = 0x53 then 7
  else 1

/-- Two's-complement reading of the low `w` bits of a number. -/
def signedOf (w x : Nat) : Int := if x % 2 ^ w < 2 ^ (w - 1) then (x % 2 ^ w : Nat) else (x % 2 ^ w : Nat) - (2 ^ w : Nat)

/-- The value of a PEB element with its selector, sign and m (R46). -/
def pebVal (scl : Int) (gap : Nat) (sel neg : Bool) (m : Nat) : Val :=
  mkVal neg m (if sel then scl - (gap + 1) else scl)

/-- The code of PEB7 element j (R44). -/
def peb7Code (b : Block) (j : Nat) : Nat := bitsOf b.num (24 + 7 * j + 6) (24 + 7 * j)
/-- The gap nibble of group q of a PEB7 block (R44). -/
def peb7Gap (b : Block) (q : Nat) : Nat := bitsOf b.num (16 + 4 * q + 3) (16 + 4 * q)
/-- The code of PEB3 element j (R45). -/
def peb3Code (b : Block) (j : Nat) : Nat := bitsOf b.num (32 + 3 * j + 2) (32 + 3 * j)
/-- The gap nibble of group q of a PEB3 block (R45). -/
def peb3Gap (b : Block) (q : Nat) : Nat := bitsOf b.num (16 + 4 * q + 3) (16 + 4 * q)

/-- The value of a PEB7 code under a scale and a gap (R44, R46). -/
def peb7Val (scl : Int) (gap code : Nat) : Val := pebVal scl gap (bitOf code 6) (bitOf code 5) (code % 32)
/-- The value of a PEB3 code under a scale and a gap (R45, R46). -/
def peb3Val (scl : Int) (gap code : Nat) : Val := pebVal scl gap (bitOf code 2) (bitOf code 1) (code % 2)

/-- The value of a VLF memory element of class n under a scale (R43). Infinities and NaNs are not scaled. -/
def vlfElemVal (n : Nat) (scl : Int) (x : Nat) : Val :=
  match plainDecode (memW n) (classL n) x with
  | .fin s m e => .fin s m (e + scl)
  | v => v

/-- The exact value of element slot i of a block whose FMT is one of the element families (R43 to R48, R52). -/
def Block.elem (b : Block) (i : Nat) : Val :=
  let f := b.fmt
  if fmtIsVlf f then
    let n := f - 0x10
    vlfElemVal n b.scl (bitsOf b.num (16 + i * memW n + memW n - 1) (16 + i * memW n))
  else if f = fmtPEB7 then peb7Val b.scl (peb7Gap b (i / 32)) (peb7Code b i)
  else if f = fmtPEB3 then peb3Val b.scl (peb3Gap b (i / 32)) (peb3Code b i)
  else if f = fmtXACC then
    let t := signedOf 496 (b.num / 2 ^ 16)
    mkVal (t < 0) t.natAbs (b.scl - 128)
  else if fmtIsInt f then
    let w := 8 * 2 ^ (f - 0x50)
    let t := signedOf w (b.num / 2 ^ (16 + i * w))
    mkVal (t < 0) t.natAbs b.scl
  else if f = fmtNANBLK then .nan false
  else .zero false

/-- A block from its header and its 496 payload bits (R37, R39). -/
def mkBlock (f : Nat) (scl : Int) (payload : Nat) : Block :=
  BitVec.ofNat 8 f :: BitVec.ofInt 8 scl :: leBytes 62 payload

/-- The blocks the device writes whole: empty, all NaN, poisoned (R49, R50, R51). -/
def emptyBlock : Block := mkBlock fmtEMPTY 0 0
def nanBlock : Block := mkBlock fmtNANBLK 0 0
def poisonBlock : Block := mkBlock fmtPOISON 0 0

/-- Fields of equal width laid side by side, the first lowest. -/
def packFields (w : Nat) : List Nat → Nat
  | [] => 0
  | x :: xs => x % 2 ^ w + 2 ^ w * packFields w xs

/-- Clamp an integer into a range. -/
def clampInt (lo hi x : Int) : Int := if x < lo then lo else if hi < x then hi else x

/-- The exponent that R53 takes of one element: of the element rounded to the memory precision, exponent unbounded. -/
def vstdExp (mode L : Nat) (v : Val) : Option Int :=
  match v with
  | .fin s m e => some (expOf (roundAt mode s m e (expOf m e - L) false).1 (expOf m e - L))
  | _ => none

/-- SCL of a VLF block (R53). -/
def vstdScl (mode L : Nat) (xs : List Val) : Int :=
  match (xs.filterMap (vstdExp mode L)).max? with
  | none => 0
  | some emax => clampInt (-128) 127 (emax - 127)

/-- One element as stored in a VLF block of class n under a scale (R53): its bits and flags. -/
def vstdElem (mode n : Nat) (scl : Int) (v : Val) : Nat × Flags :=
  let (w, fl) :=
    match v with
    | .nan sg => (Val.nan false, if sg then flNV else 0)
    | .fin s m e => roundTo (fmtMem (classL n)) mode s m (e - scl) false
    | u => (u, 0)
  (plainEncode (memW n) (classL n) w, fl)

/-- Some element is stored inexactly under this class and scale. -/
def vstdInexact (mode n : Nat) (scl : Int) (xs : List Val) : Bool :=
  xs.any fun v => (vstdElem mode n scl v).2 &&& flNX != 0

/-- The smallest memory class that stores every element exactly under the computed SCL, 16 if none (R53). -/
def vstdClassNeeded (mode : Nat) (scl : Int) (xs : List Val) : Nat :=
  ((List.range 16).find? fun c => !vstdInexact mode c scl xs).getD 16

/-- A whole VLF block of class n from its elements in slot order (R53), with the flags it sets. -/
def vstdBlock (mode n : Nat) (xs : List Val) : Block × Flags :=
  let scl := vstdScl mode (classL n) xs
  let es := xs.map (vstdElem mode n scl)
  (mkBlock (0x10 + n) scl (packFields (memW n) (es.map (·.1))), es.foldl (fun a t => a ||| t.2) 0)

/-- The least E ≥ −128 with rne(m × 2^(e − E)) ≤ M, searched over `fuel` steps (R56). -/
def leastExp (M m : Nat) (e : Int) : Nat → Int → Int
  | 0, E => E
  | k + 1, E => if rneNat m (e - E) ≤ M then E else leastExp M m e k (E + 1)

/-- The larger of two magnitudes. -/
def magMax (a b : Nat × Int) : Nat × Int :=
  let e := min a.2 b.2
  if a.1 * 2 ^ (a.2 - e).toNat < b.1 * 2 ^ (b.2 - e).toNat then b else a

/-- The largest finite magnitude, (0, 0) when every element is zero or infinite. -/
def finMax (xs : List Val) : Nat × Int :=
  xs.foldl (fun a v => match v with | .fin _ m e => if a.1 = 0 then (m, e) else magMax a (m, e) | _ => a) (0, 0)

/-- The scale a magnitude needs, before the clamp at 127 (R56). Searching starts where the magnitude surely does not fit. -/
def pebExp (M : Nat) (t : Nat × Int) : Int :=
  let start := max (-128) (expOf t.1 t.2 - 8)
  leastExp M t.1 t.2 20 start

/-- One element of a PEB block (R56): selector, m and flags. -/
def vqntElem (M : Nat) (scl : Int) (gap : Nat) (v : Val) : Bool × Nat × Flags :=
  match v with
  | .inf _ => (false, M, flQSAT ||| flOF ||| flNX)
  | .fin s m e =>
    let mlo := rneNat m (e - (scl - gap - 1))
    let r : Bool × Nat × Flags :=
      if 0 < mlo && mlo ≤ M then (true, mlo, 0)
      else
        let mh := rneNat m (e - scl)
        if M < mh then (false, M, flQSAT) else (false, mh, 0)
    let exact := Val.eqv (pebVal scl gap r.1 s r.2.1) v
    (r.1, r.2.1, if exact then r.2.2 else r.2.2 ||| flNX)
  | _ => (false, 0, 0)

/-- A whole PEB7 or PEB3 block from 64 or 128 elements (R56), with the flags it sets. -/
def vqntBlock (seven : Bool) (xs : List Val) : Block × Flags :=
  let M := if seven then 31 else 1
  let G := if seven then 2 else 4
  if xs.any Val.isNan then (nanBlock, flNV)
  else
    let amax := finMax xs
    let scl : Int := if amax.1 = 0 then 0 else min (pebExp M amax) 127
    let gaps := (List.range G).map fun g =>
      let gm := finMax ((xs.drop (32 * g)).take 32)
      if gm.1 = 0 then 0 else (clampInt 0 15 (scl - pebExp M gm - 1)).toNat
    let es := (List.range xs.length).map fun j => vqntElem M scl (gaps.getD (j / 32) 0) (xs.getD j (.zero false))
    let code (j : Nat) : Nat :=
      let t := es.getD j (false, 0, 0)
      let s := (xs.getD j (.zero false)).sign
      if seven then t.2.1 + 32 * b2n s + 64 * b2n t.1 else t.2.1 + 2 * b2n s + 4 * b2n t.1
    let codes := (List.range xs.length).map code
    let gapBits := packFields 4 gaps
    let payload := if seven then gapBits % 256 + 256 * packFields 7 codes else gapBits + 2 ^ 16 * packFields 3 codes
    (mkBlock (if seven then fmtPEB7 else fmtPEB3) scl payload, es.foldl (fun a t => a ||| t.2.2) 0)

/-- The coordinates of element i of an array of blocks with k elements each (R40): block index and slot. -/
def elemCoord (k i : Nat) : Nat × Nat := (i / k, i % k)

end Sys2Proof.Machine
end

