-- ==== Sys2Proof/Machine/Memory.lean ====
section
/-!
DEFINITION. Why an access stops, the regions of an address (R154), parking and waking (R398), the home slices with their
caches over HBM (R289 to R291), and translation (R156 to R168).
-/
namespace Sys2Proof.Machine

/-! ### What stops an access -/

/-- Why an instruction or an access does not complete now. -/
inductive Stop where
  /-- a trap: cause, ACC code, TVAL (R417) -/
  | trap (cause acc : Nat) (tval : Word)
  /-- a place to park at, and what the wake does (R398) -/
  | park (p : Place) (op : WaitOp)
deriving DecidableEq, Repr

/-- A result with the state after it, or a stop. -/
inductive Run (α : Type) where
  | ok (x : α) (s : State)
  | stop (r : Stop) (s : State)

/-- Go on after a result; a stop stays. -/
def Run.bind {α β : Type} (m : Run α) (f : α → State → Run β) : Run β :=
  match m with
  | .ok x s => f x s
  | .stop r s => .stop r s

/-- Run a function over a list, left to right, until one stops. -/
def Run.mapList {α β : Type} (f : α → State → Run β) : List α → State → Run (List β)
  | [], s => .ok [] s
  | x :: xs, s => (f x s).bind fun y s1 => (Run.mapList f xs s1).bind fun ys s2 => .ok (y :: ys) s2

/-- Trap causes (R417). -/
def cILL : Nat := 0x01
def cALIGN : Nat := 0x02
def cPAGE : Nat := 0x03
def cPROT : Nat := 0x04
def cFORMAT : Nat := 0x05
def cPOISON : Nat := 0x06
def cPXH : Nat := 0x07
def cDEADLINE : Nat := 0x08
def cBAROVER : Nat := 0x09
def cWIN : Nat := 0x0A
def cWINDEADLOCK : Nat := 0x0B
def cQWAIT : Nat := 0x0C
def cBRK : Nat := 0x0D
def cTRAP : Nat := 0x0E

/-- ACC codes (R418). -/
def accRead : Nat := 0
def accWrite : Nat := 1
def accFetch : Nat := 2
def accRW : Nat := 3

def trapAt {α : Type} (cause acc va : Nat) (s : State) : Run α := .stop (.trap cause acc (BitVec.ofNat 64 va)) s

/-! ### Regions (R154) -/

inductive Region where
  | user | aperture | scratch | frame | none
deriving DecidableEq, Repr

def regionOf (va : Nat) : Region :=
  let t := bitsOf va 63 48
  if t ≤ 0xFF then .user
  else if t = 0xFFF0 then (if bitsOf va 47 21 = 0 then .aperture else .none)
  else if t = 0xFFE0 then .scratch
  else if t = 0xFFC0 then (if bitsOf va 47 38 = 0 then .frame else .none)
  else .none

def scratchBase : Nat := 0xFFE0000000000000
def frameBase : Nat := 0xFFC0000000000000

/-- Cluster and SRAM offset of a frame-space address (R120). -/
def frameClu (fa : Nat) : Nat := bitsOf fa 37 32
def frameOff (fa : Nat) : Nat := fa % 2 ^ 32
/-- The frame-space address of an SRAM offset (R120). -/
def frameAddr (k off : Nat) : Nat := frameBase + k * 2 ^ 32 + off

/-! ### Banks and scratch (R275, R278) -/

/-- Mode of bank j of a cluster: 0 cache, 1 scratch, 2 frame store. -/
def Cluster.bankMode (k : Cluster) (j : Nat) : Nat := bitsOf k.bankcfg.toNat (2 * j + 1) (2 * j)
/-- Banks of a mode, in rising order. -/
def Cluster.banks (k : Cluster) (mode : Nat) : List Nat := (List.range 32).filter fun j => k.bankMode j = mode
/-- SRAM byte of an offset in a launch's scratch (R278). -/
def Scratch.byteAt (r : Scratch) (x : Nat) : Nat := r.banks.getD ((r.base + x) / 2 ^ 18) 0 * 2 ^ 18 + (r.base + x) % 2 ^ 18

/-- The scratch of a launch in a cluster (R278). -/
def Cluster.scratchOf (k : Cluster) (lid : Nat) : Option Scratch := k.scratch.find? fun x => x.lid = lid

/-- SRAM byte of scratch offset x of a launch; the offset wraps modulo S (R154, R278). -/
def Cluster.scratchAt (k : Cluster) (lid x : Nat) : Nat :=
  match k.scratchOf lid with
  | some r => r.byteAt (x % r.size)
  | none => x % 2 ^ 23

/-! ### Waking (R398, R427) -/

/-- The place is one of R398 or wfi; a held access waits at none (R165), and a slot that stalls at a stream is not ready
and not parked (R175, R183). -/
def Place.parks : Place → Bool
  | .walker _ _ => false
  | .stream _ _ => false
  | _ => true

/-- Set the event latches of the slots of a core (R427). -/
def State.latchCore (s : State) (core : Nat) : State :=
  (List.range 16).foldl (fun s i => s.modSlot (core * 16 + i) fun x => { x with latch := true }) s

/-- Take a waiter out of the lists and let its slot run again. The wake of a parked slot is an event for every slot of the
core, the woken one among them (R427: "any parked slot of its core"; DEDUCED, log 86); a held access that goes on is
none (R165). -/
def State.wakeSlot (s : State) (w : Wait) : State :=
  let s1 : State := { s with waits := s.waits.filter fun v => v.tid != w.tid }
  let s2 := s1.modSlot w.tid fun x => { x with mode := .running }
  if w.place.parks then s2.latchCore (coreOf w.tid) else s2

/-- Wake every waiter that a test selects, in order of arrival. -/
def State.wakeAll (s : State) (p : Wait → Bool) : State := (s.waits.filter p).foldl State.wakeSlot s

/-- Wake the waiters of a place. -/
def State.wakePlace (s : State) (p : Place) : State := s.wakeAll fun w => w.place = p

/-- Park a slot at a place (R398), or hold it there (R165, R175). -/
def State.parkAt (s : State) (t : Nat) (p : Place) (op : WaitOp) : State :=
  { (s.modSlot t fun x => { x with mode := if p.parks then .parked else .held }) with
    waits := s.waits ++ [{ tid := t, place := p, op := op, since := s.clk }] }

/-! ### Homes -/

/-- Every access homed at a fenced M-die raises POISON (R437). -/
def State.homeFenced (s : State) (pa dom : Nat) : Bool := bitOf s.fencedMdies (s.homeOf dom pa)

/-- A peer that every port to it is fenced for cannot be reached (R437). -/
def State.peerLost (s : State) (dev : Nat) : Bool :=
  let ports := (List.range 24).filter fun p => Config.linkPeer p = dev
  !ports.isEmpty && ports.all fun p => bitOf s.fencedLinks p

/-- Wake the slots parked on the D-blocks of a physical range that are no longer EMPTY (R49). -/
def State.wakeBlocks (s : State) (pa n : Nat) (fmtAt : Nat → Byte) : State :=
  s.wakeAll fun w => match w.place with
    | .block b => pa ≤ b && b < pa + n && fmtAt b != 0
    | _ => false

/-- The tags of the grains within a range go (R436). -/
def clearPoison (poison : FMap Nat) (pa n : Nat) : FMap Nat :=
  poison.filter fun g => !(pa ≤ g.1 && g.1 + g.2 ≤ pa + n)

/-- Merge dirty bytes into a list of bytes (R285). -/
def mergeBytes : List Byte → List Byte → List Bool → List Byte
  | o :: os, n :: ns, d :: ds => (if d then n else o) :: mergeBytes os ns ds
  | os, _, _ => os

/-- Merge masks: a byte is marked where either marks it. -/
def mergeMask : List Bool → List Bool → List Bool
  | a :: as, b :: bs => (a || b) :: mergeMask as bs
  | as, [] => as
  | [], bs => bs

/-- The marks of the bytes of a grain, once those of a write at pa have joined them. -/
def coverMask (old : List Bool) (base pa : Nat) (mask : List Bool) : List Bool :=
  old.zipIdx.map fun b => b.1 || (pa ≤ base + b.2 && mask.getD (base + b.2 - pa) false)

/-- A tagged grain receives a write: the tag goes once writes have covered the whole grain, in one piece or in several
(R436). -/
def State.healGrain (s : State) (base size pa : Nat) (mask : List Bool) : State :=
  let m := coverMask (FMap.getD s.mended base (List.replicate size false)) base pa mask
  if m.all id then { s with poison := FMap.del s.poison base, mended := FMap.del s.mended base }
  else { s with mended := FMap.put s.mended base m }

/-- The marked ones of some bytes from pa on have been written at the homes (R436). -/
def State.heal (s : State) (pa : Nat) (mask : List Bool) : State :=
  (s.poison.filter fun g => g.1 < pa + mask.length && pa < g.1 + g.2).foldl (fun s g => s.healGrain g.1 g.2 pa mask) s

/-- The 64-byte line of an address. -/
def lineBase (pa : Nat) : Nat := pa / 64 * 64
/-- Lines of 64 bytes that a range touches. -/
def lineBases (pa n : Nat) : List Nat :=
  (List.range ((pa + n + 63) / 64 - pa / 64)).map fun i => (pa / 64 + i) * 64
/-- Lines of 64 bytes that a home slice's cache holds: 96 MiB (R16). -/
def homeLines : Nat := 96 * 2 ^ 14

/-- A byte that a slice's cache holds. -/
def Home.byte? (x : Home) (pa : Nat) : Option Byte :=
  (FMap.find x.cache (lineBase pa)).map fun l => l.bytes.getD (pa % 64) 0

/-- A byte as slice h has it: its cache, or HBM behind a miss (R290, R291). -/
def State.sliceByte (s : State) (h pa : Nat) : Byte := ((s.homeAt h).byte? pa).getD (Memory.read s.mem pa)

/-- Bytes as slice h has them. -/
def State.sliceSee (s : State) (h pa n : Nat) : List Byte := (List.range n).map fun i => s.sliceByte h (pa + i)

/-- A slice writes the dirty bytes of a line to HBM (R291, R292). -/
def State.lineOut (s : State) (h base : Nat) : State :=
  match FMap.find (s.homeAt h).cache base with
  | none => s
  | some l =>
    { s with mem := Memory.writeN s.mem base (mergeBytes (Memory.readN s.mem base 64) l.bytes l.dirty) }.modHome h fun x =>
      { x with cache := FMap.put x.cache base { l with dirty := List.replicate 64 false } }

/-- A slice drops a line, its dirty bytes in HBM first. -/
def State.lineDrop (s : State) (h base : Nat) : State :=
  (s.lineOut h base).modHome h fun x => { x with cache := FMap.del x.cache base }

/-- A slice makes room for one more line: a line of its choice leaves a full cache. -/
def State.lineRoom (s : State) (h : Nat) : State :=
  let held := (s.homeAt h).cache
  if held.length < homeLines then s
  else match held[Config.choose s.tick % homeLines]? with
    | some l => s.lineDrop h l.1
    | none => s

/-- A line as HBM has it. -/
def State.hbmLine (s : State) (base : Nat) : HomeLine :=
  { bytes := Memory.readN s.mem base 64, dirty := List.replicate 64 false }

/-- A slice brings a line into its cache (R290). -/
def State.lineIn (s : State) (h base : Nat) : State :=
  match (s.homeAt h).cache |> (FMap.find · base) with
  | some _ => s
  | none =>
    let s1 := s.lineRoom h
    s1.modHome h fun x => { x with cache := FMap.put x.cache base (s1.hbmLine base) }

/-- A slice brings the lines of a range into its cache. -/
def State.sliceHold (s : State) (h pa n : Nat) : State := (lineBases pa n).foldl (fun s b => s.lineIn h b) s

/-- The marked ones of `bs`, which start at pa, in one line of a slice; the line is held there. -/
def HomeLine.put (l : HomeLine) (base pa : Nat) (bs : List Byte) (mask : List Bool) : HomeLine :=
  let lo := max pa base
  let k := lo - base
  let part := ((bs.drop (lo - pa)).take (64 - k))
  let m := (mask.drop (lo - pa)).take (64 - k)
  { bytes := l.bytes.take k ++ mergeBytes (l.bytes.drop k) part m
    dirty := l.dirty.take k ++ mergeMask (l.dirty.drop k) m }

/-- The marked ones of some bytes reach the line at a base of slice h: its copy there, else HBM. -/
def State.linePut (s : State) (h pa : Nat) (bs : List Byte) (mask : List Bool) (base : Nat) : State :=
  match FMap.find (s.homeAt h).cache base with
  | some l => s.modHome h fun x => { x with cache := FMap.put x.cache base (l.put base pa bs mask) }
  | none => { s with mem := Memory.writeN s.mem base ((s.hbmLine base).put base pa bs mask).bytes }

/-- Write the marked ones of some bytes at slice h, which brings their lines in where `hold` says so: it caches no page of
kind 0 (R285, R286). Poison tags heal, and waiters on blocks wake (R436, R49). -/
def State.slicePut (s : State) (h pa : Nat) (bs : List Byte) (mask : List Bool) (hold : Bool := true) : State :=
  let s1 := (lineBases pa bs.length).foldl (fun s b =>
    (if hold then s.lineIn h b else s).linePut h pa bs mask b) s
  let s2 := s1.heal pa mask
  s2.wakeBlocks pa bs.length fun b => s2.sliceByte h b

/-- The slice that serves an access which names no domain (host, engines, walkers, firmware): the one that holds the
line, else that of domain 0 (R290, log 73). -/
def State.servingHome (s : State) (pa : Nat) : Nat :=
  match s.homes.find? fun h => (h.2.byte? pa).isSome with
  | some h => h.1
  | none => s.homeOf 0 pa

/-- A byte of local memory for an access that names no domain. -/
def State.physByte (s : State) (pa : Nat) : Byte := s.sliceByte (s.servingHome pa) pa

/-- Read bytes at the homes, for an access that names no domain (R96, R290). -/
def State.homeRead (s : State) (pa n : Nat) : List Byte := (List.range n).map fun i => s.physByte (pa + i)

/-- A little-endian number read at the homes. -/
def State.homeNat (s : State) (pa n : Nat) : Nat := natOfBytes (s.homeRead pa n)

/-- Write the bytes of a range that lie in one line where that line is served: in the slice that holds it, else in
HBM. -/
def State.physPut (s : State) (pa : Nat) (bs : List Byte) (base : Nat) : State :=
  let lo := max pa base
  let part := (bs.drop (lo - pa)).take (base + 64 - lo)
  match s.homes.find? fun h => (FMap.find h.2.cache base).isSome with
  | some h => s.modHome h.1 fun x =>
    match FMap.find x.cache base with
    | some l => { x with cache := FMap.put x.cache base (l.put base lo part (List.replicate part.length true)) }
    | none => x
  | none => { s with mem := Memory.writeN s.mem lo part }

/-- Write bytes at the homes, for an access that names no domain (R96, R285, R290). -/
def State.homeWrite (s : State) (pa : Nat) (bs : List Byte) : State :=
  let s1 := (lineBases pa bs.length).foldl (fun s b => s.physPut pa bs b) s
  let s2 := s1.heal pa (List.replicate bs.length true)
  s2.wakeBlocks pa bs.length fun b => s2.physByte b

/-- Drop the lines of a range from every slice, dirty bytes in HBM first (R299). -/
def State.homesDrop (s : State) (pa n : Nat) : State :=
  (s.homes.map fun h => h.1).foldl (fun s h =>
    (((s.homeAt h).cache.filter fun l => l.1 < pa + n && pa < l.1 + 64).map fun l => l.1).foldl
      (fun s b => s.lineDrop h b) s) s

/-- A read of these bytes meets poison at the homes: a tagged grain (R436) or a fenced M-die (R437). -/
def State.homePoisoned (s : State) (pa n dom : Nat) : Bool :=
  (s.poison.any fun g => g.1 < pa + n && pa < g.1 + g.2) || s.homeFenced pa dom

/-- A read of these bytes by an access that names no domain meets poison: a tagged grain, or a fenced M-die that serves or
stores them (R436, R437). -/
def State.physPoisoned (s : State) (pa n : Nat) : Bool :=
  (s.poison.any fun g => g.1 < pa + n && pa < g.1 + g.2) || bitOf s.fencedMdies (s.servingHome pa) ||
    bitOf s.fencedMdies (s.storeOf pa)

/-- A core issues one request to a home, which receives it (R369). -/
def State.countReq (s : State) (core h : Nat) : State :=
  (s.modCore core fun c => { c with issued := FMap.put c.issued h ((FMap.getD c.issued h 0 + 1) % 2 ^ 32) }).modHome h
    fun x => { x with received := FMap.put x.received core ((FMap.getD x.received core 0 + 1) % 2 ^ 32) }

/-! ### Translation (R156 to R163) -/

/-- How a walk ends (R160). -/
inductive WalkEnd where
  | leaf (pte size ptePa : Nat)
  | transit (size : Nat)
  | swap (pte ptePa : Nat)
  | page
  /-- PAGE by a table entry that is refused: the walk cache keeps nothing of the walk (R158) -/
  | badTable
  /-- an entry that the walk needs is poisoned (R436, R437, log 88) -/
  | poison
deriving DecidableEq, Repr

/-- log2 of the page size of a level, and the number of index bits below the root (R156). -/
def levelShift : Nat → Nat
  | 0 => 16 | 1 => 21 | 2 => 30 | _ => 36
def levelBits : Nat → Nat
  | 0 => 5 | 1 => 9 | 2 => 6 | _ => 20

/-- PTE fields (R159). -/
def pteV (e : Nat) : Bool := bitOf e 0
def pteR (e : Nat) : Bool := bitOf e 1
def pteW (e : Nat) : Bool := bitOf e 2
def pteX (e : Nat) : Bool := bitOf e 3
def pteU (e : Nat) : Bool := bitOf e 4
def pteG (e : Nat) : Bool := bitOf e 5
def pteCK (e : Nat) : Nat := bitsOf e 7 6
def pteGRN (e : Nat) : Nat := bitsOf e 9 8
def pteD (e : Nat) : Bool := bitOf e 10
def pteDOM (e : Nat) : Nat := bitsOf e 12 11
def pteK (e : Nat) : Nat := bitsOf e 14 13
def pteT (e : Nat) : Bool := bitOf e 15
def ptePA (e : Nat) : Nat := bitsOf e 51 16 * 2 ^ 16
def pteS (e : Nat) : Bool := bitOf e 62
def pteAS (e : Nat) : Bool := bitOf e 63

/-- The leaf breaks R159 or row 4 of R160. -/
def leafBad (memBytes size e : Nat) : Bool :=
  pteS e || pteCK e = 3 || pteGRN e = 3 || pteK e = 3 || bitsOf e 61 52 != 0 || (pteW e && !pteR e) ||
    (pteX e && pteD e) || (pteD e && pteGRN e = 0) || (pteK e = 1 && pteCK e != 2) ||
    ptePA e % 2 ^ size != 0 || (pteK e != 1 && memBytes ≤ ptePA e)

/-- Classify a final entry (R158, R160). -/
def classifyPte (memBytes lvl ptePa e : Nat) : WalkEnd :=
  if pteT e then .transit (levelShift lvl)
  else if !pteV e then
    (if pteS e && pteAS e && pteK e = 2 && lvl = 0 then .swap e ptePa else .page)
  else if leafBad memBytes (levelShift lvl) e then .page
  else .leaf e (levelShift lvl) ptePa

/-- A table entry that a walk follows: it points to the next table and sets nothing else (R158). -/
def tableOk (memBytes e : Nat) : Bool := e - bitsOf e 51 12 * 2 ^ 12 = 1 && bitsOf e 51 12 * 2 ^ 12 < memBytes

/-- Walk from a table of a level (R156, R158). `rd` gives the entry of a level at a physical address, none where it is
poisoned. The list holds the table entries that it followed: level, physical address, value. -/
def walkFrom (rd : Nat → Nat → Option Nat) (memBytes va : Nat) : Nat → Nat → WalkEnd × List (Nat × Nat × Nat)
  | lvl, base =>
    let pa := base + 8 * ((va / 2 ^ levelShift lvl) % 2 ^ levelBits lvl)
    match rd lvl pa with
    | none => (.poison, [])
    | some e =>
      if pteV e && bitsOf e 3 1 = 0 then
        match lvl with
        | 0 => (.page, [])
        | l + 1 =>
          if tableOk memBytes e then
            let r := walkFrom rd memBytes va l (bitsOf e 51 12 * 2 ^ 12)
            (r.1, (l + 1, pa, e) :: r.2)
          else (.badTable, [])
      else (classifyPte memBytes lvl pa e, [])

/-- A leaf touches a region that another sealed ASID owns; the whole leaf is refused then, also where only a part of it
lies there (R111, DESIGN CHOICE: log 74). -/
def ownedByOther (owned : FMap Nat) (asid pa size : Nat) : Bool :=
  owned.any fun r => r.2 != asid && r.1 * 2 ^ 21 < pa + 2 ^ size && pa < (r.1 + 1) * 2 ^ 21

/-- The root table of an ASID (R157). -/
def ptbrRoot (ptbr : Nat) : Nat :=
  let sz := 8 * 2 ^ bitsOf ptbr 4 0
  (bitsOf ptbr 51 12 * 2 ^ 12) / sz * sz

/-- The table entry that a die's walkers use at a level: the walk cache's, else the one at its home, none where that is
poisoned (R164, R436, R437). -/
def State.walkEntry (s : State) (die asid va lvl pa : Nat) : Option Nat :=
  match (s.dieAt die).walkCache.find? fun w =>
      w.asid = asid && w.level = lvl && w.lead = va / 2 ^ levelShift lvl && w.pa = pa with
  | some w => some w.entry
  | none => if s.physPoisoned pa 8 then none else some (s.homeNat pa 8)

/-- An entry of a table as an engine reads it: a poisoned one counts as 0, which maps nothing (log 88). -/
def State.tableNat (s : State) (pa : Nat) : Nat := if s.physPoisoned pa 8 then 0 else s.homeNat pa 8

/-- Walk the tables of an ASID for an address on a C-die (R156, R111), with the table entries followed. -/
def State.walk (s : State) (die asid va : Nat) : WalkEnd × List (Nat × Nat × Nat) :=
  let ptbr := (s.asidAt asid).ptbr.toNat
  if 2 ^ bitsOf ptbr 4 0 ≤ bitsOf va 55 36 then (.page, [])
  else
    let r := walkFrom (s.walkEntry die asid va) s.memBytes va 3 (ptbrRoot ptbr)
    match r.1 with
    | .leaf e size _ => if pteK e != 1 && ownedByOther s.owned asid (ptePA e) size then (.page, r.2) else r
    | _ => r

/-- The walk cache keeps the table entries that a walk followed, at most 512 (R16, R164). -/
def State.keepTables (s : State) (die asid va : Nat) (es : List (Nat × Nat × Nat)) : State :=
  if es.isEmpty then s
  else
    let new := es.map fun e =>
      ({ asid := asid, level := e.1, lead := va / 2 ^ levelShift e.1, pa := e.2.1, entry := e.2.2 } : WalkEntry)
    s.modDie die fun d => { d with walkCache := (new ++ d.walkCache.filter fun w => !new.contains w).take 512 }

/-- A cached translation (R163). -/
def tlbFind (tlb : List TlbEntry) (asid va : Nat) : Option TlbEntry :=
  tlb.find? fun t => (t.glob || t.asid = asid) && t.vpn = va / 2 ^ t.size

/-- A TLB takes an entry in place of those it had for the address; the oldest leave a full one (R163). -/
def tlbPut (tlb : List TlbEntry) (cap asid va : Nat) (e : TlbEntry) : List TlbEntry :=
  (e :: tlb.filter fun t => !((t.glob || t.asid = asid) && t.vpn = va / 2 ^ t.size)).take cap

/-- The translation that a core finds in its L1 TLB or in its cluster's L2 TLB (R163). -/
def State.tlbHit (s : State) (core asid va : Nat) : Option TlbEntry :=
  match tlbFind (s.coreAt core).tlb asid va with
  | some e => some e
  | none => tlbFind (s.cluAt (cluOfCore core)).tlb2 asid va

/-- Both TLBs take a translation (R16, R163). -/
def State.tlbKeep (s : State) (core asid va : Nat) (e : TlbEntry) : State :=
  (s.modCore core fun c => { c with tlb := tlbPut c.tlb 256 asid va e }).modClu (cluOfCore core) fun k =>
    { k with tlb2 := tlbPut k.tlb2 8192 asid va e }

/-- The access is not permitted (R161). -/
def permBad (pte acc : Nat) (sup : Bool) : Bool :=
  (acc = 0 && !pteR pte) || (acc = 1 && !pteW pte) || (acc = 3 && !(pteR pte && pteW pte)) ||
    (acc = 2 && !pteX pte) || (!sup && !pteU pte) || (sup && acc = 2 && pteU pte)

/-- Start the swap-in that a walk asks for: T is set at the PTE's home, and the ring of the die gives the page (R160,
R300). With an empty ring T is not set. -/
def State.walkerSwap (s : State) (die tid lid asid va pte ptePa : Nat) : Option State :=
  match (s.dieAt die).ring with
  | [] => none
  | p :: rest =>
    let s1 := s.modDie die fun d => { d with ring := rest, ringHeld := d.ringHeld + 1 }
    let s2 := s1.homeWrite ptePa (leBytes 8 (pte + 2 ^ 15))
    some { s2 with swaps := s2.swaps ++ [{
      id := 0, out := false, tid := tid, lid := lid, asid := asid, vpn := bitsOf va 55 16,
      drive := bitsOf pte 17 16, lba := bitsOf pte 57 18, dest := p, ring := some die, opt := 0, phase := 1,
      ok := true, ptePa := ptePa }] }

/-- Pages of a C-die's wait table: those that slots of the die wait on (R165, R167). -/
def State.waitTable (s : State) (die : Nat) : List (Nat × Nat) :=
  (s.waits.filterMap fun w => match w.place with
    | .page a v => if dieOf w.tid = die then some (a, v) else none
    | _ => none).eraseDups

/-- Walkers of a die that hold the access of a slot because the wait table is full (R165). -/
def State.heldWalks (s : State) (die : Nat) : Nat := (s.waits.filter fun w => w.place = .walker die true).length

/-- What a translation gives. -/
inductive Xlat where
  | ok (pa pte size : Nat)
  | page
  | wait
  /-- held: the wait table is full; with a walker, or with none because the walkers are full too (R165) -/
  | held (has : Bool)
  /-- an entry of the tables is poisoned (R436, R437) -/
  | poison
deriving DecidableEq, Repr

/-- The entry of the wait table for a page exists or can be made (R165, R168). -/
def State.tableRoom (s : State) (die asid va : Nat) : Bool :=
  let l := s.waitTable die
  l.length < 256 || l.contains (asid, va / 2 ^ 16)

/-- Translate by a walk (R160, R164, R165). -/
def State.xlateWalk (s : State) (t asid va : Nat) : State × Xlat :=
  let die := dieOf t
  if 256 ≤ (s.waitTable die).length && 16 ≤ s.heldWalks die then (s, .held false)
  else
    let r := s.walk die asid va
    let s1 := if r.1 = .badTable || r.1 = .poison then s else s.keepTables die asid va r.2
    match r.1 with
    | .page => (s1, .page)
    | .badTable => (s1, .page)
    | .poison => (s1, .poison)
    | .transit _ => (s1, if s1.tableRoom die asid va then .wait else .held true)
    | .swap pte ptePa =>
      if s1.tableRoom die asid va then
        match s1.walkerSwap die t (s.slotAt t).lid asid va pte ptePa with
        | some s2 => (s2, .wait)
        | none => (s1, .page)
      else (s1, .held true)
    | .leaf pte size _ =>
      (s1.tlbKeep (coreOf t) asid va { asid := asid, glob := pteG pte, vpn := va / 2 ^ size, size := size, pte := pte },
       .ok (ptePA pte + va % 2 ^ size) pte size)

/-- Translate a user-space address for a slot: L1 TLB, L2 TLB, then a walk (R160, R163). A cached leaf that does not
permit the access is walked again, because a right may have been added without TLBI (R166). -/
def State.xlate (s : State) (t asid acc va : Nat) : State × Xlat :=
  match s.tlbHit (coreOf t) asid va with
  | some e =>
    if permBad e.pte acc (s.slotAt t).sup then s.xlateWalk t asid va
    else (if (tlbFind (s.coreAt (coreOf t)).tlb asid va).isSome then s else s.tlbKeep (coreOf t) asid va e,
          .ok (ptePA e.pte + va % 2 ^ e.size) e.pte e.size)
  | none => s.xlateWalk t asid va

/-- log2 of the grain of a page (R159). -/
def grainLog (pte : Nat) : Nat := 5 + 2 * pteGRN pte

/-- The place of a translated address (R159). -/
def locOf (pa pte : Nat) : Loc :=
  if pteK pte = 1 then .peer (bitsOf pa 51 40) (pa % 2 ^ 40) (grainLog pte) (pteD pte) (pteDOM pte)
  else .phys pa (pteCK pte) (grainLog pte) (pteD pte) (pteDOM pte)

/-- The page is described. -/
def Loc.described : Loc → Bool
  | .phys _ _ _ d _ => d
  | .peer _ _ _ d _ => d
  | .sram _ _ => false

/-- Every access to the place raises POISON: its home is fenced, or its peer cannot be reached (R437). -/
def State.locFenced (s : State) : Loc → Bool
  | .phys pa _ _ _ dom => s.homeFenced pa dom
  | .sram _ _ => false
  | .peer d _ _ _ _ => s.fencedLinks != 0 && s.peerLost d

/-! ### Frames (R120, R122) -/

/-- The frame that holds an SRAM offset. -/
def Cluster.frameAt (k : Cluster) (off : Nat) : Option (Nat × FrameInfo) :=
  k.frames.find? fun f => f.1 ≤ off && off < f.1 + 64 * f.2.units

/-- The address of the first byte that an access to frame space may not reach (R122, R161). -/
def State.frameFault (s : State) (t acc va n : Nat) : Option Nat :=
  let k := s.cluAt (frameClu va)
  let off := frameOff va
  match k.frameAt off with
  | none => some va
  | some (base, f) =>
    if Memory.readNat k.sram (base + 48) 4 != (s.slotAt t).lid || (acc != 0 && !(s.slotAt t).sup && off < base + 64) then
      some va
    else if base + 64 * f.units < off + n then some (va + (base + 64 * f.units - off))
    else none

/-! ### Resolving an access -/

/-- A contiguous part of an access: its place, its length, and the virtual address where it starts. -/
structure Chunk where
  loc : Loc
  len : Nat
  va : Nat
deriving DecidableEq, Repr

/-- Unit in which an access is single-copy atomic (R384): the whole of a naturally aligned one of up to 8 bytes, 4-byte
parts of a longer aligned one, else each byte. -/
def atomicUnit (va n : Nat) : Nat :=
  if [1, 2, 4, 8].contains n && va % n = 0 then n else if 8 < n && va % 4 = 0 && n % 4 = 0 then 4 else 1

/-- Parts of a scratch access: its single-copy atomic units, which do not wrap at S; the whole may (R278, R279, R304). -/
def State.scratchChunks (s : State) (t va n : Nat) : List Chunk :=
  let k := s.cluAt (cluOf t)
  let lid := (s.slotAt t).lid
  let u := atomicUnit va n
  (List.range (n / u)).map fun i =>
    { loc := .sram (cluOf t) (k.scratchAt lid (va % 2 ^ 48 + u * i)), len := u, va := va + u * i }

/-- Translate and check one part that lies in one page (R160, R161). -/
def State.resolvePart (s : State) (t acc va n : Nat) : Run Chunk :=
  if regionOf va != .user then trapAt cPAGE acc va s
  else
    match s.xlate t (s.slotAt t).asid acc va with
    | (s1, .page) => trapAt cPAGE acc va s1
    | (s1, .wait) => .stop (.park (.page (s.slotAt t).asid (va / 2 ^ 16)) .reissue) s1
    | (s1, .held has) => .stop (.park (.walker (dieOf t) has) .reissue) s1
    | (s1, .poison) => trapAt cPOISON acc va s1
    | (s1, .ok pa pte _) =>
      if permBad pte acc (s.slotAt t).sup then trapAt cPROT acc va s1
      else .ok { loc := locOf pa pte, len := n, va := va } s1

/-- Resolve an access of n bytes at va of slot t. `scr` and `frm` say whether it may reach scratch and frame space
(R302). Pages are checked one at a time, in rising order (R162). -/
def State.resolve (s : State) (t acc : Nat) (scr frm : Bool) (va n : Nat) : Run (List Chunk) :=
  match regionOf va with
  | .none => trapAt cPAGE acc va s
  | .aperture => trapAt cPROT acc va s
  | .scratch => if scr then .ok (s.scratchChunks t va n) s else trapAt cPROT acc va s
  | .frame =>
    if !frm then trapAt cPROT acc va s
    else match s.frameFault t acc va n with
    | some bad => trapAt cPROT acc bad s
    | none => .ok [{ loc := .sram (frameClu va) (frameOff va), len := n, va := va }] s
  | .user =>
    let n1 := min n (2 ^ 16 - va % 2 ^ 16)
    (s.resolvePart t acc va n1).bind fun c1 s1 =>
      if n1 = n then .ok [c1] s1
      else (s1.resolvePart t acc (va + n1) (n - n1)).bind fun c2 s2 => .ok [c1, c2] s2

end Sys2Proof.Machine
end

