-- ==== Sys2Proof/Machine/Slice.lean ====
section
/-!
DEFINITION. What a home slice does with the requests that reach it (chapter 13): conversion and merge of addends, the
write queue, atomics, remapping and release markers.
-/
namespace Sys2Proof.Machine

/-! ### Conversion and merge of addends (R355) -/

/-- Element width of an INT or XACC format. -/
def intW (f : Nat) : Nat := if f = fmtXACC then 496 else 8 * 2 ^ (f - 0x50)

/-- Two's-complement wrap of an integer to w bits. -/
def wrapS (w : Nat) (x : Int) : Int := signedOf w (x % 2 ^ w).toNat

/-- Outside the range of an XACC integer (R47). -/
def xaccOut (x : Int) : Bool := x < -(2 ^ 495) || 2 ^ 495 - 1 < x

/-- An addend converted to the integers of an INT or XACC block under its SCL (R355). -/
def intConv (f : Nat) (scl : Int) (v : Val) : Int × Flags :=
  match v with
  | .fin s m e =>
    let (r, inexact) := roundAt 0 s m (if f = fmtXACC then e + 128 - scl else e - scl) 0 false
    let x := sInt s r
    (wrapS (intW f) x, (if inexact then flNX else 0) ||| (if f = fmtXACC && xaccOut x then flXOV else 0))
  | _ => (0, 0)

/-- The value of an integer of an INT or XACC block under its SCL (R47, R48). -/
def intBlockVal (f : Nat) (scl x : Int) : Val :=
  mkVal (x < 0) x.natAbs (if f = fmtXACC then scl - 128 else scl)

/-- Addition of two such integers (R355). -/
def intMerge (f : Nat) (x y : Int) : Int × Flags :=
  (wrapS (intW f) (x + y), if f = fmtXACC && xaccOut (x + y) then flXOV else 0)

/-- Addition of two plain elements (R355). -/
def plainMerge (size : Nat) (float : Bool) (x y : Nat) : Nat × Flags :=
  if float then
    let (w, L, F) := if size = 4 then (32, 23, fmtB32) else (64, 52, fmtB64)
    let (v, fl) := (addRes 0 (plainDecode w L x) (plainDecode w L y)).deliver F 0
    (plainEncode w L v, fl)
  else ((x + y) % 2 ^ (8 * size), 0)

/-- The values of a VLF block of class n, slot 0 first. -/
def vlfVals (f : Nat) (b : Block) : List Val := (List.range (fmtK f)).map b.elem

/-- A list of values from a sparse list of element slots, +0 elsewhere. -/
def slotVals (k : Nat) (els : List (Nat × Val)) : List Val := (List.range k).map fun i => FMap.getD els i (.zero false)

/-- Exact sum of two values in RNE, as a value; opposite infinities and NaNs give a NaN (R33, R355). -/
def exactSum (x y : Val) : Val × Flags :=
  match addRes 0 x y with
  | .special v fl => (v, fl)
  | .exact s m e _ => (.fin s m e, 0)

/-- A VLF block with addends merged into it (R355): formed addend block, exact sums, whole block formed again. -/
def vlfMerge (f : Nat) (old : List Val) (els : List (Nat × Val)) : Block × Flags :=
  let (ab, f1) := vstdBlock 0 (f - 0x10) (slotVals (fmtK f) els)
  let sums := (old.zip (vlfVals f ab)).map fun p => exactSum p.1 p.2
  let f2 := sums.foldl (fun a t => a ||| t.2) 0
  let (nb, f3) := vstdBlock 0 (f - 0x10) (sums.map fun t => t.1)
  (nb, f1 ||| f2 ||| f3)

/-- The addend integers under a SCL (R355, R363). -/
def repOf (f : Nat) (scl : Int) : AccData → FMap Int × Flags
  | .desc _ els => els.foldl (fun a t =>
      let (x, fl) := intConv f scl t.2
      (FMap.put a.1 t.1 x, a.2 ||| fl)) ([], 0)
  | .rep f0 scl0 els =>
    if scl0 = scl then (els, 0)
    else els.foldl (fun a t =>
      let (x, fl) := intConv f scl (intBlockVal f0 scl0 t.2)
      (FMap.put a.1 t.1 x, a.2 ||| fl)) ([], 0)
  | .plain _ _ _ => ([], 0)

/-- Merge integers slot by slot. -/
def repMerge (f : Nat) (a b : FMap Int) : FMap Int × Flags :=
  b.foldl (fun acc t =>
    match FMap.find acc.1 t.1 with
    | some x => let (y, fl) := intMerge f x t.2; (FMap.put acc.1 t.1 y, acc.2 ||| fl)
    | none => (FMap.put acc.1 t.1 t.2, acc.2)) (a, 0)

/-- FMT that a described addend expects. -/
def AccData.fmt : AccData → Option Nat
  | .plain _ _ _ => none
  | .desc f _ => some f
  | .rep f _ _ => some f

/-- Two addends may merge: they aim at the same kind of target (R351, R362, R368). -/
def AccData.sameKind : AccData → AccData → Bool
  | .plain s1 f1 _, .plain s2 f2 _ => s1 = s2 && f1 = f2
  | .plain _ _ _, _ => false
  | _, .plain _ _ _ => false
  | .desc f _, .desc g _ => f = g
  | .desc f _, .rep g _ _ => f = g
  | .rep f _ _, .desc g _ => f = g
  | .rep f _ _, .rep g _ _ => f = g

/-- Merge an addend into one of the same kind that stands in for the target (R362, R363). -/
def resMerge (old new : AccData) : AccData × Flags :=
  match old with
  | .plain size fl els =>
    match new with
    | .plain _ _ els2 =>
      let r := els2.foldl (fun a t =>
        match FMap.find a.1 t.1 with
        | some x => let (y, f) := plainMerge size fl x t.2; (FMap.put a.1 t.1 y, a.2 ||| f)
        | none => (FMap.put a.1 t.1 t.2, a.2)) (els, (0 : Flags))
      (.plain size fl r.1, r.2)
    | _ => (new, 0)
  | .desc f els =>
    let els2 := match new with | .desc _ e => e | _ => []
    let (b, fl) := vlfMerge f (slotVals (fmtK f) els) els2
    (.desc f ((List.range (fmtK f)).map fun i => (i, b.elem i)), fl)
  | .rep f scl els =>
    let scl2 := match new with | .rep _ s2 _ => s2 | _ => scl
    let (e1, f1) := repOf f scl2 (.rep f scl els)
    let (e2, f2) := repOf f scl2 new
    let (e3, f3) := repMerge f e1 e2
    (.rep f scl2 e3, f1 ||| f2 ||| f3)

/-- The addend as a refusing home returns it: converted under R355 (R360). -/
def refusedData (scl : Int) : AccData → AccData × Flags
  | .plain s f e => (.plain s f e, 0)
  | .desc f els =>
    if fmtIsVlf f then
      let (b, fl) := vstdBlock 0 (f - 0x10) (slotVals (fmtK f) els)
      (.desc f ((List.range (fmtK f)).map fun i => (i, b.elem i)), fl)
    else let (e, fl) := repOf f scl (.desc f els); (.rep f scl e, fl)
  | .rep f s0 els => let (e, fl) := repOf f scl (.rep f s0 els); (.rep f scl e, fl)

/-- The block with its element integers replaced (R39, R355). -/
def blockAddInts (f : Nat) (scl : Int) (old : List Int) (els : FMap Int) : Block × Flags :=
  let r := (List.range (fmtK f)).map fun i =>
    match FMap.find els i with
    | some x => intMerge f (old.getD i 0) x
    | none => (old.getD i 0, 0)
  (mkBlock f scl (packFields (intW f) (r.map fun t => (t.1 % 2 ^ intW f).toNat)), r.foldl (fun a t => a ||| t.2) 0)

/-- The element integers of an INT or XACC block. -/
def blockInts (f : Nat) (b : Block) : List Int :=
  (List.range (fmtK f)).map fun i => signedOf (intW f) (b.num / 2 ^ (16 + i * intW f))

/-- Replace bytes of a list from an index on. -/
def setBytes (l : List Byte) (i : Nat) (bs : List Byte) : List Byte := l.take i ++ bs ++ l.drop (i + bs.length)

/-- What an accumulate makes of a target unit (R355, R356). -/
inductive AccOut where
  | done (bytes : List Byte) (fl : Flags)
  | fault (cause : Nat)

/-- Apply an addend to the bytes of its unit (R355, R356). -/
def applyAcc (old : List Byte) (d : AccData) : AccOut :=
  match d with
  | .plain size fl els =>
    let r := els.foldl (fun a t =>
      let (v, f) := plainMerge size fl (natOfBytes ((a.1.drop (t.1 * size)).take size)) t.2
      (setBytes a.1 (t.1 * size) (leBytes size v), a.2 ||| f)) (old, (0 : Flags))
    .done r.1 r.2
  | d =>
    let f := (d.fmt).getD 0
    let g := Block.fmt old
    if g = fmtNANBLK then .done old 0
    else if g = fmtPOISON then .fault cPOISON
    else if g != f && g != fmtEMPTY then .fault cFORMAT
    else
      let scl : Int := if g = fmtEMPTY then 0 else Block.scl old
      if fmtIsVlf f then
        let vals := if g = fmtEMPTY then List.replicate (fmtK f) (.zero false) else vlfVals f old
        let els := match d with | .desc _ e => e | _ => []
        let (b, fl) := vlfMerge f vals els
        .done b fl
      else
        let (els, f1) := repOf f scl d
        let (b, f2) := blockAddInts f scl (if g = fmtEMPTY then [] else blockInts f old) els
        .done b (f1 ||| f2)

/-! ### Requests of a core (R15, R292, R293, R346, R369) -/

/-- The slice that a request was sent to, 16 where it is none. -/
def HomeReq.home : HomeReq → Nat
  | .acc r => r.home
  | .amo a => a.home
def HomeReq.setHome (h : Nat) : HomeReq → HomeReq
  | .acc r => .acc { r with home := h }
  | .amo a => .amo { a with home := h }
/-- Launch of a request. -/
def HomeReq.lid : HomeReq → Nat
  | .acc r => r.lid
  | .amo a => a.lid
/-- Domain and physical address of a request to a slice. -/
def HomeReq.target : HomeReq → Nat × Nat
  | .acc r => (r.dom, r.pa)
  | .amo a => match a.loc with
    | .phys pa _ _ _ dom => (dom, pa)
    | _ => (0, 0)
/-- The 4 KiB granule of a request to a slice (R289). -/
def HomeReq.granule (r : HomeReq) : Nat := r.target.2 / 4096
/-- Its place in its core's order of issue (R15, R293). -/
def HomeReq.seq : HomeReq → Nat
  | .acc r => r.seq
  | .amo a => a.seq
def HomeReq.setSeq (n : Nat) : HomeReq → HomeReq
  | .acc r => .acc { r with seq := n }
  | .amo a => .amo { a with seq := n }
/-- A release atomic with its counts (R369). -/
def HomeReq.isRelease : HomeReq → Bool
  | .amo a => a.rel.isSome
  | .acc _ => false

/-- `n` is at least `m`, both counted modulo 2^32 (R369). -/
def countGe (n m : Nat) : Bool := (n + 2 ^ 32 - m % 2 ^ 32) % 2 ^ 32 < 2 ^ 31

/-- Add to a count of R369. -/
def countAdd (f : FMap Nat) (k d : Nat) : FMap Nat := FMap.put f k ((FMap.getD f k 0 + d) % 2 ^ 32)

/-- A request goes to the slice that its domain names now, and is counted there (R346, R369). -/
def State.sendNow (s : State) (core : Nat) (r : HomeReq) : State :=
  let h := s.homeOf r.target.1 r.target.2
  s.modCore core fun c => { c with out := c.out ++ [r.setHome h], issued := countAdd c.issued h 1 }

/-- A request is on its way to a slice that is no longer its granule's home: it will come back (R292). -/
def State.staleReq (s : State) (r : HomeReq) : Bool := r.home < 16 && r.home != s.homeOf r.target.1 r.target.2

/-- A request of the core to the granule waits to be reissued, or is going to come back for that (R15, R293). -/
def State.holdsGranule (s : State) (core pa : Nat) : Bool :=
  ((s.coreAt core).remapped.any fun q => q.granule = pa / 4096) ||
    (s.coreAt core).out.any fun q => s.staleReq q && q.granule = pa / 4096

/-- Send a request to a slice; behind remapped requests to its granule the core holds it, with 16 as its home (R293). It
takes its place in the core's order of issue. -/
def State.sendReq (s : State) (core : Nat) (r0 : HomeReq) : State :=
  let r := r0.setSeq (s.coreAt core).seq
  let s1 := s.modCore core fun c => { c with seq := c.seq + 1 }
  if s1.holdsGranule core r.target.2 then
    s1.modCore core fun c => { c with remapped := c.remapped ++ [r.setHome 16] }
  else s1.sendNow core r

/-- Put a reissued request in front of the release atomics issued after it, which must not overtake it (R293, R369). -/
def putBack (r : HomeReq) : List HomeReq → List HomeReq
  | [] => [r]
  | q :: qs => if q.isRelease && r.seq < q.seq then r :: q :: qs else q :: putBack r qs

/-- Put a request in its place among some that stand in the order of issue (R293). -/
def putInOrder (r : HomeReq) : List HomeReq → List HomeReq
  | [] => [r]
  | q :: qs => if r.seq < q.seq then r :: q :: qs else q :: putInOrder r qs

/-- A release marker that has come back is sent to the new home, behind the request that it counts (R292, R369). -/
def State.markAgain (s : State) (core h granule : Nat) : State :=
  let n := FMap.getD (s.coreAt core).issued h 0
  if (s.coreAt core).markersBack.contains granule then
    (s.modCore core fun c =>
      { c with markersBack := c.markersBack.erase granule, marked := FMap.put c.marked h n }).modHome h fun x =>
        { x with markers := x.markers ++ [(core, n)] }
  else s

/-- The core reissues one of the requests that it holds, at an index, and the marker that counted it (R292, R293). -/
def State.reissueAt (s : State) (core i : Nat) : State :=
  match (s.coreAt core).remapped[i]? with
  | none => s
  | some r =>
    let h := s.homeOf r.target.1 r.target.2
    (s.modCore core fun c =>
      { c with
        remapped := dropIdx c.remapped i, out := putBack (r.setHome h) c.out
        issued := countAdd c.issued h 1 }).markAgain core h r.granule

/-- The oldest request held by a core whose granule has no other request still to come back (R293). -/
def State.nextReissue (s : State) (core : Nat) : Option Nat :=
  (s.coreAt core).remapped.findIdx? fun r => !(s.coreAt core).out.any fun q => s.staleReq q && q.granule = r.granule

/-- REMAP_RETURN: the core reissues the oldest request that it holds and may reissue (R292, R293). -/
def State.reissue (s : State) (core : Nat) : State :=
  match s.nextReissue core with
  | some i => s.reissueAt core i
  | none => s

/-- The counts of a pending release atomic after a request that they may include has moved from slice `old`, which has
received `got`, to slice `new` (R293, R369). -/
def moveCounts (got old new : Nat) : HomeReq → HomeReq
  | .amo a =>
    .amo { a with
      rel := a.rel.map fun n =>
        if countGe got (FMap.getD n old 0) then n else countAdd (countAdd n old (2 ^ 32 - 1)) new 1 }
  | r => r

/-- The counts of pending markers of a core after the same move. -/
def Home.moveMarker (x : Home) (core d : Nat) : Home :=
  { x with markers := x.markers.map fun m =>
      if m.1 = core && !countGe (FMap.getD x.received core 0) m.2 then (core, (m.2 + d) % 2 ^ 32) else m }

/-- A request reaches a slice that is no longer its granule's home: it goes back to its core, uncounted, and
so does a marker that counted it (R292, R293). -/
def State.remapBack (s : State) (core : Nat) (r : HomeReq) : State :=
  let old := r.home
  let new := s.homeOf r.target.1 r.target.2
  let got := FMap.getD (s.homeAt old).received core 0
  let owed := (s.homeAt old).markers.any fun m => m.1 = core && !countGe got m.2
  let s1 := s.modCore core fun c =>
    { c with
      remapped := (putInOrder r c.remapped).map (moveCounts got old new)
      out := c.out.map (moveCounts got old new)
      issued := countAdd c.issued old (2 ^ 32 - 1)
      markersBack := if owed then c.markersBack ++ [r.granule] else c.markersBack }
  (s1.modHome old fun x => x.moveMarker core (2 ^ 32 - 1)).modHome new fun x => x.moveMarker core 1

/-! ### Accumulates (R356 to R368) -/

/-- Length of an accumulate unit (R358). -/
def unitLen (g : Nat) : Nat := if g = 5 then 32 else 64

/-- The base of the grain of an address. -/
def grainBase (g pa : Nat) : Nat := pa / 2 ^ g * 2 ^ g

/-- The home hands back an answer (R366). -/
def State.answerAcc (s : State) (a : AccAns) : State :=
  s.modCore a.req.core fun c => { c with accAns := c.accAns ++ [a] }

/-- Answers of one outcome for several requests. -/
def State.answerAll (s : State) (rs : List AccReq) (outcome cause : Nat) (fl : Flags) : State :=
  rs.foldl (fun s r => s.answerAcc { req := r, outcome := outcome, cause := cause, flags := fl }) s

/-- The bytes of a unit that an addend writes: those of its elements, a whole block, none of a NANBLK (R356, R358). -/
def accMask (old : List Byte) : AccData → List Bool
  | .plain size _ els => (List.range old.length).map fun i => els.any fun t => t.1 = i / size
  | _ => List.replicate old.length (Block.fmt old != fmtNANBLK)

/-- Apply an addend to the array for the requests that carried it, and answer them (R355, R366). -/
def State.applyData (s : State) (r : AccReq) (d : AccData) (fl : Flags) (rs : List AccReq) : State :=
  let h := s.homeOf r.dom r.pa
  if s.homePoisoned r.pa (unitLen r.grain) r.dom then s.answerAll rs 2 cPOISON 0
  else
    let old := s.sliceSee h r.pa (unitLen r.grain)
    match applyAcc old d with
    | .fault c => s.answerAll rs 2 c 0
    | .done bs f => (s.slicePut h r.pa bs (accMask old d)).answerAll rs 0 0 (fl ||| f)

/-- Apply one accepted request. -/
def State.applyReq (s : State) (r : AccReq) : State := s.applyData r r.data 0 [r]

/-- Addends whose merges round: their sum may depend on the grouping (R368). -/
def AccData.rounds : AccData → Bool
  | .plain _ fl _ => fl
  | .desc f _ => fmtIsVlf f
  | .rep _ _ _ => false

/-- Apply the requests of one entry: one by one in order of arrival, or, where grouping can be seen, summed on the way to
the array, the first of them formed as R355 says; the manual promises neither (R360, R368, log 5). -/
def State.applyReqs (s : State) (rs : List AccReq) : State :=
  match rs with
  | [] => s
  | r :: rest =>
    if !rest.isEmpty && rs.all (fun q => q.data.rounds) && Config.sumsFirst s.tick then
      let sum := rest.foldl (fun a q => let m := resMerge a.1 q.data; (m.1, a.2 ||| m.2)) (refusedData 0 r.data)
      s.applyData r sum.1 sum.2 rs
    else rs.foldl State.applyReq s

/-- WRITE_QUEUE_APPLY: the entry of a home at an index is applied (R360, R367). -/
def State.applyEntry (s : State) (h i : Nat) : State :=
  match (s.homeAt h).wq[i]? with
  | none => s
  | some e => (s.modHome h fun x => { x with wq := dropIdx x.wq i }).applyReqs e.reqs

/-- Grains that a write-queue entry touches: one, since its requests share their unit. -/
def WqEntry.grains (e : WqEntry) : List Nat := e.reqs.map fun r => grainBase r.grain r.pa

/-- The entries that a test selects, each with the earlier entries of its grain, and the others (R360). -/
def pickEntries (p : AccReq → Bool) : List WqEntry → List WqEntry × List WqEntry
  | [] => ([], [])
  | e :: es =>
    let r := pickEntries p es
    if e.reqs.any p || r.1.any (fun f => f.grains.any fun g => e.grains.contains g) then (e :: r.1, r.2)
    else (r.1, e :: r.2)

/-- Apply the pending entries of a home that hold a request which a test selects, oldest first, and what stands before
them on their grains. -/
def State.applyWhere (s : State) (h : Nat) (p : AccReq → Bool) : State :=
  let r := pickEntries p (s.homeAt h).wq
  r.1.foldl (fun s e => s.applyReqs e.reqs) (s.modHome h fun x => { x with wq := r.2 })

/-- The entries of two requests may merge: same unit and same kind of target (R351, R368). -/
def sameTarget (a b : AccReq) : Bool := a.pa = b.pa && a.data.sameKind b.data

/-- The SCL under which a target block takes addends: an EMPTY one is taken with SCL 0 (R355, R356). -/
def Block.accScl (b : Block) : Int := if b.fmt = fmtEMPTY then 0 else b.scl

/-- The home of a request receives it (R356, R360). -/
def State.acceptAcc (s : State) (r : AccReq) : State :=
  let h := s.homeOf r.dom r.pa
  let s0 := s.modHome h fun x => { x with received := countAdd x.received r.core 1 }
  -- pending entries of the unit with another kind of target are applied first
  let s1 := s0.applyWhere h fun q => q.pa = r.pa && !sameTarget q r
  let old := s1.sliceSee h r.pa (unitLen r.grain)
  let g := Block.fmt old
  let special := match r.data.fmt with
    | none => false
    | some f => g != f && g != fmtEMPTY
  if special || s1.homePoisoned r.pa (unitLen r.grain) r.dom then s1.applyReq r
  else
    let gb := grainBase r.grain r.pa
    let key := r.core * 2 ^ 52 + gb
    let n := FMap.getD (s1.homeAt h).quota key 0
    let others := (s1.homeAt h).wq.any fun e => e.reqs.any fun q => grainBase q.grain q.pa = gb && q.core != r.core
    if !r.must && (s1.quotaNow ≤ n || (Config.queueCrowded s1.tick && others)) then
      let (d, fl) := refusedData (Block.accScl old) r.data
      (s1.modCore r.core fun c => { c with refused := FMap.put c.refused r.lid (FMap.getD c.refused r.lid 0 + 1) }).answerAcc
        { req := { r with data := d }, outcome := 1, cause := 0, flags := fl }
    else
      let s2 := s1.modHome h fun x => { x with quota := FMap.put x.quota key (n + 1) }
      let s3 := if 256 ≤ (s2.homeAt h).wq.length then s2.applyEntry h 0 else s2
      s3.modHome h fun x =>
        if x.wq.any fun e => e.reqs.any (sameTarget r) then
          { x with wq := x.wq.map fun e => if e.reqs.any (sameTarget r) then { reqs := e.reqs ++ [r] } else e }
        else { x with wq := x.wq ++ [{ reqs := [r] }] }

/-! ### Atomics at a slice (R347 to R351) -/

/-- Signed reading of the low 8n bits. -/
def amoSigned (n x : Nat) : Int := signedOf (8 * n) x

/-- The new value of an atomic of n bytes; cas is not among these (R347). -/
def amoNew (fn n x y : Nat) : Nat :=
  if fn = 0 then (x + y) % 2 ^ (8 * n)
  else if fn = 1 then x &&& y
  else if fn = 2 then x ||| y
  else if fn = 3 then x ^^^ y
  else if fn = 4 then (if amoSigned n x < amoSigned n y then x else y)
  else if fn = 5 then (if amoSigned n x < amoSigned n y then y else x)
  else if fn = 6 then (if x < y then x else y)
  else if fn = 7 then (if x < y then y else x)
  else y

/-- Read, compute and write in one step at a slice, behind the pending accumulates of the grain (R346, R348, R360). -/
def State.sliceRmw (s : State) (pa g dom n : Nat) (f : Nat → Nat) : Nat × State :=
  let h := s.homeOf dom pa
  let s1 := s.applyWhere h fun r => grainBase r.grain r.pa = grainBase g pa
  let x := natOfBytes (s1.sliceSee h pa n)
  (x, s1.slicePut h pa (leBytes n (f x)) (List.replicate n true))

/-- The home of a posted atomic receives it and performs it (R349). -/
def State.acceptAmo (s : State) (core : Nat) (a : AmoReq) : State :=
  match a.loc with
  | .phys pa _ g _ dom =>
    ((s.modHome (s.homeOf dom pa) fun x => { x with received := countAdd x.received core 1 }).sliceRmw pa g dom a.size
      fun x => amoNew a.fn a.size x a.y).2
  | _ => s

/-- A slice receives a request: as its home it serves it, else it sends it back (R292, R356, R360). -/
def State.receiveReq (s : State) (core : Nat) (r : HomeReq) : State :=
  if r.home != s.homeOf r.target.1 r.target.2 then s.remapBack core r
  else match r with
    | .acc a => s.acceptAcc a
    | .amo a => s.acceptAmo core a

/-! ### Release markers (R369) -/

/-- A release sends a marker with its count to every home written since the core's previous marker (R369). -/
def State.sendMarkers (s : State) (core : Nat) : State :=
  ((s.coreAt core).issued.filter fun n => FMap.getD (s.coreAt core).marked n.1 0 != n.2).foldl (fun s n =>
    (s.modHome n.1 fun h => { h with markers := h.markers ++ [(core, n.2)] }).modCore core fun c =>
      { c with marked := FMap.put c.marked n.1 n.2 }) s

/-- RELEASE_MARKER: a home confirms the markers of a core whose requests it has received (R369). -/
def Home.confirm (x : Home) (core : Nat) : Home :=
  { x with markers := x.markers.filter fun m => m.1 != core || !countGe (FMap.getD x.received core 0) m.2 }

/-- A release atomic may be applied: every home has received what it counts there, its own home and those with markers
among them, and no request of its core waits to be reissued (R293, R369). -/
def State.relReady (s : State) (core : Nat) (a : AmoReq) : Bool :=
  match a.rel with
  | none => true
  | some n =>
    (s.coreAt core).remapped.isEmpty && n.all fun e => countGe (FMap.getD (s.homeAt e.1).received core 0) e.2

/-! ### Order of a core's messages to one slice (R15) -/

/-- A core's request at an index of its outgoing ones reaches its slice. -/
def State.arriveAt (s : State) (core i : Nat) : State :=
  match (s.coreAt core).out[i]? with
  | none => s
  | some r => (s.modCore core fun c => { c with out := dropIdx c.out i }).receiveReq core r

/-- Repeat a step n times. -/
def iter (f : State → State) : Nat → State → State
  | 0, s => s
  | n + 1, s => iter f n (f s)

/-- Every request of a core that is on its way to a slice arrives, in order (R15). A release atomic among them counts
what was issued before it, so the requests to the other slices, and those on their way back, arrive first (R369). -/
def State.deliverTo (s : State) (core h : Nat) : State :=
  let l := (s.coreAt core).out
  let all := l.any fun r => r.home = h && r.isRelease
  let go (s : State) : State :=
    match (s.coreAt core).out.findIdx? fun r => r.home < 16 && (all || r.home = h) with
    | none => s
    | some i =>
      if ((s.coreAt core).out[i]?).any HomeReq.isRelease && !(s.coreAt core).remapped.isEmpty then s.reissue core
      else s.arriveAt core i
  let s1 := iter go (3 * (l.length + (s.coreAt core).remapped.length)) s
  if all then { s1 with homes := s1.homes.map fun x => (x.1, x.2.confirm core) } else s1

/-- The requests of a core that are on their way to slices which are no longer their homes come back, with what goes there
before them (R15, R292). -/
def State.returnStale (s : State) (core : Nat) : State :=
  (((s.coreAt core).out.filter s.staleReq).map HomeReq.home).eraseDups.foldl (fun s h => s.deliverTo core h) s

/-- Before a core's message to the home of an address: its requests to the granule that come back and those held for it
are reissued, and what it sent
to that home before arrives (R15, R293). -/
def State.orderBefore (s : State) (core dom pa : Nat) : State :=
  if (s.coreAt core).out.isEmpty && (s.coreAt core).remapped.isEmpty then s
  else
    let s0 := if (s.coreAt core).out.any fun q => s.staleReq q && q.granule = pa / 4096 then s.returnStale core else s
    let n := ((s0.coreAt core).remapped.filter fun q => q.granule = pa / 4096).length
    let s1 := iter (fun s =>
      match (s.coreAt core).remapped.findIdx? fun q => q.granule = pa / 4096 with
      | some i => s.reissueAt core i
      | none => s) n s0
    s1.deliverTo core (s1.homeOf dom pa)

end Sys2Proof.Machine
end

