-- ==== Sys2Proof/Machine/Cache.lean ====
section
/-!
DEFINITION. The path of bytes between a core and the homes: L1s, cluster caches and the cluster directory (R282 to R288),
peers (R296), the store buffer (R387), and what a core sees. A cache lists grains by the key of their base: a local
physical address as it is, a peer's address above 2^52.
-/
namespace Sys2Proof.Machine

/-! ### Places that caches hold -/

/-- A place that caches may hold: the key of its address, coherence kind, log2 grain and domain (R159). -/
structure Spot where
  key : Nat
  ck : Nat
  g : Nat
  dom : Nat
deriving DecidableEq, Repr

/-- Key of an address of a peer. -/
def peerKey (dev pa : Nat) : Nat := 2 ^ 52 + dev * 2 ^ 40 + pa
def isPeerKey (key : Nat) : Bool := 2 ^ 52 ≤ key
def keyDev (key : Nat) : Nat := bitsOf key 51 40
def keyPa (key : Nat) : Nat := key % 2 ^ 40

/-- The place that caches may hold for a location; cluster SRAM is never cached (R277, R282). -/
def Loc.spot? : Loc → Option Spot
  | .phys pa ck g _ dom => some { key := pa, ck := ck, g := g, dom := dom }
  | .peer dev pa g _ dom => some { key := peerKey dev pa, ck := 2, g := g, dom := dom }
  | .sram _ _ => none

/-- The place of a grain's base. -/
def Spot.at (x : Spot) (key : Nat) : Spot := { x with key := key }

/-- Bases of the grains that a range touches. -/
def grainBases (g pa n : Nat) : List Nat :=
  (List.range ((pa + n - 1) / 2 ^ g - pa / 2 ^ g + 1)).map fun i => (pa / 2 ^ g + i) * 2 ^ g

/-- The place of a cached grain. -/
def Grain.spot (x : Grain) (key : Nat) : Spot := { key := key, ck := x.ck, g := x.size, dom := x.dom }

/-- A grain is dirty. -/
def Grain.isDirty (x : Grain) : Bool := x.dirty.any id

/-- A grain with no dirty byte. -/
def Grain.clean (x : Grain) : Grain := { x with dirty := List.replicate (2 ^ x.size) false, lids := [] }

/-- A grain that has taken the dirty bytes of another copy (R285). -/
def Grain.take (y x : Grain) : Grain :=
  { y with
    bytes := mergeBytes y.bytes x.bytes x.dirty
    dirty := mergeMask y.dirty x.dirty
    lids := (y.lids ++ x.lids).eraseDups }

/-- Keys of a table of grains that a test selects. -/
def keysWhere (l : FMap Grain) (p : Nat → Grain → Bool) : List Nat := (l.filter fun g => p g.1 g.2).map fun g => g.1

/-- Two ranges of grains overlap. -/
def overlaps (a n b m : Nat) : Bool := a < b + m && b < a + n

/-! ### Peers: the reading-side home (R296) -/

/-- A write is performed at a peer's home; it wakes the slots parked on blocks there that are no longer EMPTY (R49). -/
def State.performRemote (s : State) (dev pa : Nat) (bs : List Byte) : State :=
  let m := Memory.writeN (FMap.getD s.peers dev []) pa bs
  State.wakeBlocks { s with peers := FMap.put s.peers dev m } (peerKey dev pa) bs.length fun b => Memory.read m (keyPa b)

/-- The oldest write that passes through a home reaches its owner, which acknowledges it to the core. -/
def State.stepRemote (s : State) (h : Nat) : State :=
  match (s.homeAt h).remoteOut with
  | [] => s
  | w :: rest =>
    ((s.modHome h fun x => { x with remoteOut := rest }).modCore w.core fun c =>
      { c with remoteAcks := c.remoteAcks + 1 }).performRemote w.dev w.pa w.bytes

/-- Writes of a home up to the last that a test selects reach their owners, in order (R15). -/
def State.pushRemote (s : State) (h : Nat) (p : RemoteWrite → Bool) : State :=
  let n := ((s.homeAt h).remoteOut.reverse.dropWhile fun w => !p w).length
  iter (fun s => s.stepRemote h) n s

/-- Cache a line of 64 bytes of a peer at a reading-side home under a read lease of the cluster that reads (log 58); the
request follows the writes that the home has passed on to that peer (R15, R296, R435). -/
def State.remoteIn (s : State) (h key cl : Nat) : State :=
  match FMap.find (s.homeAt h).remote key with
  | some _ => s
  | none =>
    let s1 := s.pushRemote h fun w => w.dev = keyDev key
    s1.modHome h fun x =>
      { x with
        remote := FMap.put x.remote key (Memory.readN (FMap.getD s1.peers (keyDev key) []) (keyPa key) 64)
        leases := x.leases ++ [{ read := true, desc := false, cl := cl, pa := key, size := 6, beat := s.clk }] }

/-- A byte of a peer as a reading-side home has it. -/
def State.remoteByte (s : State) (h key : Nat) : Byte :=
  match FMap.find (s.homeAt h).remote (lineBase key) with
  | some bs => bs.getD (key % 64) 0
  | none => Memory.read (FMap.getD s.peers (keyDev key) []) (keyPa key)

/-- The home that serves a place for this device: of a peer's address the reading-side one (R290, R296). -/
def State.spotHome (s : State) (x : Spot) : Nat := s.homeOf x.dom (keyPa x.key)

/-- A grain's bytes as its home has them, after what the core has sent there before (R15). A home caches
no grain of kind 0 (R286). -/
def State.fromHome (s : State) (core : Nat) (x : Spot) : List Byte × State :=
  if isPeerKey x.key then
    let h := s.spotHome x
    let s1 := (lineBases x.key (2 ^ x.g)).foldl (fun s b => s.remoteIn h b (cluOfCore core)) s
    ((List.range (2 ^ x.g)).map fun i => s1.remoteByte h (x.key + i), s1)
  else
    let s0 := s.orderBefore core x.dom x.key
    let h := s0.spotHome x
    let s1 := if x.ck = 0 then s0 else s0.sliceHold h x.key (2 ^ x.g)
    (s1.sliceSee h x.key (2 ^ x.g), s1)

/-! ### The cluster cache (R275, R282, R285) -/

/-- The write lease of a cluster on a grain. -/
def isLease (k base : Nat) (l : Lease) : Bool := !l.read && l.cl = k && l.pa = base

/-- Some L1 of a cluster holds a grain dirty. -/
def State.l1Dirty (s : State) (k key : Nat) : Bool :=
  (List.range 16).any fun i =>
    match FMap.find (s.coreAt (k * 16 + i)).l1 key with
    | some x => x.isDirty
    | none => false

/-- Write the dirty bytes that a cluster cache holds of a grain back to its home, counted for a core (R285, R369). The
write lease ends unless an L1 still holds dirty bytes (R435); an expired cluster's write-back is discarded (R436). -/
def State.writeBack (s : State) (core k key : Nat) : State :=
  match FMap.find (s.cluAt k).grains key with
  | none => s
  | some x =>
    if !x.isDirty then s
    else
      let s0 := s.orderBefore core x.dom key
      let h := s0.homeOf x.dom key
      let dead := (s0.homeAt h).leases.any fun l => isLease k key l && l.dead
      let ends := dead || !s0.l1Dirty k key
      let s1 := (s0.countReq core h).modHome h fun y =>
        { y with leases := if ends then y.leases.filter fun l => !isLease k key l else y.leases }
      if dead then s1.modClu k fun c => { c with grains := FMap.del c.grains key }
      else (s1.slicePut h key x.bytes x.dirty (x.ck != 0)).modClu k fun c => { c with grains := FMap.put c.grains key x.clean }

/-- A grain leaves a cluster cache, its dirty bytes first; L1s keep their copies (R276). -/
def State.cluOut (s : State) (core k key : Nat) : State :=
  (s.writeBack core k key).modClu k fun c => { c with grains := FMap.del c.grains key }

/-- Lines of 512 bytes that a bank of a cluster cache holds. -/
def Cluster.bankLines (k : Cluster) (j : Nat) : List Nat :=
  ((k.grains.filter fun g => g.2.bank = j).map fun g => g.1 / 512).eraseDups

/-- The bank that takes a line: the one that holds it, else one of those in cache mode (R275). Where none is, 32 stands
for the one line on its way through (log 75). -/
def Cluster.bankFor (k : Cluster) (tick line : Nat) : Nat :=
  match k.grains.find? fun g => g.1 / 512 = line with
  | some g => g.2.bank
  | none => let bs := k.banks 0; bs.getD (Config.cacheBank tick % bs.length) 32

/-- Room in a bank for a line: a full bank gives up one of its lines (R16, R282). -/
def State.cluRoom (s : State) (core k j line : Nat) : State :=
  let ls := (s.cluAt k).bankLines j
  let cap := if j = 32 then 1 else 512
  if (s.cluAt k).grains.any (fun g => g.1 / 512 = line) || ls.isEmpty || ls.length < cap then s
  else
    let v := ls.getD (Config.choose s.tick % ls.length) 0
    (keysWhere (s.cluAt k).grains fun b _ => b / 512 = v).foldl (fun s b => s.cluOut core k b) s

/-- Bring a grain into the cluster cache of a core, from its home when it is not there; grains of another size that
overlap it leave (R282, log 75). -/
def State.fetchClu (s : State) (core : Nat) (x : Spot) : State :=
  let k := cluOfCore core
  let s1 := (keysWhere (s.cluAt k).grains fun b y => y.size != x.g && overlaps b (2 ^ y.size) x.key (2 ^ x.g)).foldl
    (fun s b => s.cluOut core k b) s
  match FMap.find (s1.cluAt k).grains x.key with
  | some _ => s1
  | none =>
    let r := s1.fromHome core x
    let j := (r.2.cluAt k).bankFor r.2.tick (x.key / 512)
    let y : Grain :=
      { size := x.g, ck := x.ck, dom := x.dom, bytes := r.1, dirty := List.replicate (2 ^ x.g) false, bank := j }
    (r.2.cluRoom core k j (x.key / 512)).modClu k fun c => { c with grains := FMap.put c.grains x.key y }

/-- The dirty bytes of an L1's grain reach the cluster cache, where they are merged over what the home has (R284, R285). -/
def State.mergeUp (s : State) (core key : Nat) (x : Grain) : State :=
  if !x.isDirty then s
  else
    (s.fetchClu core (x.spot key)).modClu (cluOfCore core) fun c =>
      match FMap.find c.grains key with
      | some y => { c with grains := FMap.put c.grains key (y.take x) }
      | none => c

/-! ### L1s and the directory (R282 to R284) -/

/-- An L1 passes its dirty bytes of a grain on and keeps a clean copy. -/
def State.l1Push (s : State) (core key : Nat) : State :=
  match FMap.find (s.coreAt core).l1 key with
  | none => s
  | some x =>
    if !x.isDirty then s
    else (s.mergeUp core key x).modCore core fun c => { c with l1 := FMap.put c.l1 key x.clean }

/-- An L1 gives a grain up: its dirty bytes travel with the answer or the notice (R283, R284). -/
def State.l1Give (s : State) (core key : Nat) : State :=
  match FMap.find (s.coreAt core).l1 key with
  | none => s
  | some x => (s.mergeUp core key x).modCore core fun c => { c with l1 := FMap.del c.l1 key }

/-- The cores of a cluster that a directory entry names. -/
def Dir.named (d : Dir) : List Nat := match d.owner with | some c => [c] | none => d.sharers

/-- A core's answer is outstanding. -/
def Dir.awaits (d : Dir) (core : Nat) : Bool :=
  match d.request with
  | some (_, out) => out.contains core
  | none => false

/-- A core's answer to an invalidation, counted once (R284). -/
def Dir.answer (d : Dir) (core : Nat) : Dir :=
  match d.request with
  | some (c, out) => { d with request := some (c, out.filter (· != core)) }
  | none => d

/-- The entry after an eviction notice of a core: a pointer goes, a coarse bit stays; while the core's answer to an
invalidation is outstanding the notice counts as that answer (R283, R284). -/
def Dir.evicted (d : Dir) (core : Nat) : Dir :=
  if d.awaits core then d.answer core
  else if d.owner = some core then { d with owner := none, sharers := [] }
  else if d.coarse then d
  else { d with sharers := d.sharers.filter (· != core) }

/-- No L1 holds the grain, and nothing is in progress: the entry is UNCACHED (R283). -/
def Dir.isNone (d : Dir) : Bool := d.owner.isNone && d.sharers.isEmpty && d.request.isNone

/-- The directory after a core has read a grain that no other core owns (R283): up to four pointers, then pairs. -/
def dirShare (d : Dir) (core : Nat) : Dir :=
  if d.owner = some core || d.sharers.contains core then d
  else if !d.coarse && d.sharers.length < 4 then { d with sharers := d.sharers ++ [core] }
  else
    { d with
      coarse := true
      sharers := (List.range 16).filter fun i => (core :: d.sharers).any fun j => j / 2 = i / 2 }

/-- An entry for a place that no L1 holds. -/
def Spot.dirNone (x : Spot) : Dir :=
  { size := x.g, ck := x.ck, dom := x.dom, sharers := [], coarse := false, owner := none, request := none }

/-- Set an entry; one that has become UNCACHED is not listed. -/
def State.setDir (s : State) (k key : Nat) (d : Dir) : State :=
  s.modClu k fun c => { c with dir := if d.isNone then FMap.del c.dir key else FMap.put c.dir key d }

/-- An L1 evicts a grain and sends the eviction notice (R283). -/
def State.l1Evict (s : State) (core key : Nat) : State :=
  let k := cluOfCore core
  let s1 := s.l1Give core key
  match FMap.find (s1.cluAt k).dir key with
  | none => s1
  | some d => s1.setDir k key (d.evicted (core % 16))

/-- Every L1 that an entry names, or that an invalidation of it has not reached, gives the grain up; the entry goes
(R283). -/
def State.l1Clear (s : State) (k key : Nat) : State :=
  let s1 := (List.range 16).foldl (fun s i => s.l1Give (k * 16 + i) key) s
  s1.modClu k fun c => { c with dir := FMap.del c.dir key }

/-- Room in an L1 of 128 lines of 512 bytes: a full one evicts a line of its choice, but none that the access at hand
needs (`keep`) (R16, R282). -/
def State.l1Room (s : State) (core line : Nat) (keep : List Nat) : State :=
  let ls := ((s.coreAt core).l1.map fun g => g.1 / 512).eraseDups
  if ls.contains line || ls.length < 128 then s
  else
    let free := ls.filter fun l => !keep.contains l
    let v := free.getD (Config.choose s.tick % free.length) 0
    (keysWhere (s.coreAt core).l1 fun b _ => b / 512 = v).foldl (fun s b => s.l1Evict core b) s

/-- A new directory entry may have to replace another, which first invalidates its grain in every L1 (R283); none of a line
that the access at hand needs. -/
def State.dirRoom (s : State) (k key : Nat) (keep : List Nat) : State :=
  let l := (s.cluAt k).dir.filter fun e => !keep.contains (e.1 / 512)
  if l.isEmpty || (FMap.find (s.cluAt k).dir key).isSome || !Config.dirReplace s.tick then s
  else match l[Config.choose s.tick % l.length]? with
    | some e => s.l1Clear k e.1
    | none => s

/-- An L1 takes a copy of a grain through its cluster cache: room is made before the grain is brought there (R282). -/
def State.l1In (s : State) (core : Nat) (x : Spot) (keep : List Nat) : State :=
  let s1 := (s.l1Room core (x.key / 512) (x.key / 512 :: keep)).fetchClu core x
  match FMap.find (s1.cluAt (cluOfCore core)).grains x.key with
  | some y => s1.modCore core fun c => { c with l1 := FMap.put c.l1 x.key { y.clean with bank := 0 } }
  | none => s1

/-- Ownership is granted: every core that was sent an invalidation has answered. The L1 gets the data with it (R284). -/
def State.ownGrant (s : State) (k core key : Nat) (d : Dir) : State :=
  let s1 := s.setDir k key { d with sharers := [], coarse := false, owner := some core, request := none }
  match FMap.find (s1.coreAt (k * 16 + core)).l1 key with
  | some _ => s1
  | none =>
    s1.l1In (k * 16 + core) { key := key, ck := d.ck, g := d.size, dom := d.dom } []

/-- A request in progress whose answers are all in is granted (R284). -/
def State.settleDir (s : State) (k key : Nat) : State :=
  match FMap.find (s.cluAt k).dir key with
  | some d =>
    match d.request with
    | some (c, []) => s.ownGrant k c key d
    | _ => s
  | none => s

/-- An eviction notice reaches the directory: as the last answer to an invalidation it lets the grant come (R283, R284). -/
def State.l1Notice (s : State) (core key : Nat) : State := (s.l1Evict core key).settleDir (cluOfCore core) key

/-- A core answers an invalidation: its L1 gives the grain up (R284). -/
def State.ackDir (s : State) (k core key : Nat) : State :=
  match FMap.find (s.cluAt k).dir key with
  | some d =>
    if d.awaits core then ((s.l1Give (k * 16 + core) key).setDir k key (d.answer core)).settleDir k key else s
  | none => s

/-- The cores that have still to answer. -/
def Dir.outstanding (d : Dir) : List Nat := match d.request with | some (_, out) => out | none => []

/-- The answers still outstanding arrive: the directory serialises what follows behind them (R284). -/
def State.finishDir (s : State) (k key : Nat) : State :=
  match FMap.find (s.cluAt k).dir key with
  | some d => (d.outstanding.foldl (fun s c => s.ackDir k c key) s).settleDir k key
  | none => s

/-- Grains of another size that overlap a place leave the L1s of a cluster (R282, log 75). -/
def State.clearClash (s : State) (k : Nat) (x : Spot) : State :=
  (((s.cluAt k).dir.filter fun e => e.2.size != x.g && overlaps e.1 (2 ^ e.2.size) x.key (2 ^ x.g)).map fun e => e.1).foldl
    (fun s b => s.l1Clear k b) s

/-- The directory is ready for a core's request for a grain: a request in progress has ended, and there is room for its
entry (R283, R284). -/
def State.openDir (s : State) (k : Nat) (x : Spot) (keep : List Nat) : State :=
  ((s.clearClash k x).finishDir k x.key).dirRoom k x.key (x.key / 512 :: keep)

/-- A core asks for ownership, no sharer for that: invalidations go to every other core that the entry names (R284). -/
def State.askDir (s : State) (core : Nat) (x : Spot) : State :=
  let k := cluOfCore core
  let d := FMap.getD (s.cluAt k).dir x.key x.dirNone
  if d.request.isSome || d.owner = some (core % 16) then s
  else (s.setDir k x.key { d with request := some (core % 16, d.named.filter (· != core % 16)) }).settleDir k x.key

/-- A grain stands in the cluster cache alone: every L1 has given it up. -/
def State.cluOnly (s : State) (core : Nat) (x : Spot) : State :=
  let k := cluOfCore core
  ((s.clearClash k x).l1Clear k x.key).fetchClu core x

/-- A grain leaves a cluster: L1s and cluster cache, dirty bytes at the home. -/
def State.evictGrain (s : State) (core k key : Nat) : State := (s.l1Clear k key).cluOut core k key

/-- Before a request leaves for a home, the cluster writes the target grain back and drops it (R346). -/
def State.flushTarget (s : State) (core : Nat) (x : Spot) : State :=
  s.evictGrain core (cluOfCore core) (grainBase x.g x.key)

/-! ### Requests of a core to other points than a home slice (R15, R346) -/

/-- A grain after bytes of a store from an offset on. -/
def Grain.write (x : Grain) (off lid : Nat) (part : List Byte) : Grain :=
  { x with
    bytes := setBytes x.bytes off part
    dirty := x.dirty.take off ++ List.replicate part.length true ++ x.dirty.drop (off + part.length)
    lids := (x.lids ++ [lid]).eraseDups }

/-- A grain after the marked ones of some bytes from an offset on. -/
def Grain.writeMarked (x : Grain) (off lid : Nat) (part : List Byte) (mask : List Bool) : Grain :=
  { x with
    bytes := x.bytes.take off ++ mergeBytes (x.bytes.drop off) part mask
    dirty := x.dirty.take off ++ mergeMask (x.dirty.drop off) mask
    lids := if mask.any id then (x.lids ++ [lid]).eraseDups else x.lids }

/-- Write the marked ones of some bytes in a grain that stands in the cluster cache alone. -/
def State.cluMerge (s : State) (core lid : Nat) (x : Spot) (bs : List Byte) (mask : List Bool) : State :=
  let base := grainBase x.g x.key
  s.modClu (cluOfCore core) fun c =>
    match FMap.find c.grains base with
    | some y => { c with grains := FMap.put c.grains base (y.writeMarked (x.key - base) lid bs mask) }
    | none => c

/-- Write bytes of a grain that stands in the cluster cache alone. -/
def State.cluPut (s : State) (core lid : Nat) (x : Spot) (bs : List Byte) : State :=
  let base := grainBase x.g x.key
  s.modClu (cluOfCore core) fun c =>
    match FMap.find c.grains base with
    | some y => { c with grains := FMap.put c.grains base (y.write (x.key - base) lid bs) }
    | none => c

/-- The byte of a held grain. -/
def grainByte (l : FMap Grain) (g key : Nat) : Option Byte :=
  (FMap.find l (grainBase g key)).map fun x => x.bytes.getD (key % 2 ^ g) 0

/-- n bytes of a grain that stands in the cluster cache. -/
def State.cluSee (s : State) (core : Nat) (x : Spot) (n : Nat) : List Byte :=
  (List.range n).map fun i => (grainByte (s.cluAt (cluOfCore core)).grains x.g (x.key + i)).getD 0

/-- Read, compute and write in one step at the point of serialisation (R346, R348). `f` gives the new value; the old
value is the result. -/
def State.rmwHere (s : State) (core lid : Nat) (loc : Loc) (n : Nat) (f : Nat → Nat) : Nat × State :=
  match loc with
  | .phys pa ck g _ dom =>
    let x : Spot := { key := pa, ck := ck, g := g, dom := dom }
    if ck = 0 then
      let s1 := s.cluOnly core (x.at (grainBase g pa))
      let v := natOfBytes (s1.cluSee core x n)
      (v, s1.cluPut core lid x (leBytes n (f v)))
    else
      let s1 := (s.flushTarget core x).orderBefore core dom pa
      (s1.countReq core (s1.homeOf dom pa)).sliceRmw pa g dom n f
  | .sram k off =>
    let v := Memory.readNat (s.cluAt k).sram off n
    (v, s.modClu k fun c => { c with sram := Memory.writeNat c.sram off n (f v) })
  | .peer d pa g _ dom =>
    let x : Spot := { key := peerKey d pa, ck := 2, g := g, dom := dom }
    let h := s.spotHome x
    let s1 := (s.pushRemote h fun w => w.dev = d).flushTarget core x
    let v := Memory.readNat (FMap.getD s1.peers d []) pa n
    (v, (s1.performRemote d pa (leBytes n (f v))).modHome h fun y => { y with remote := FMap.del y.remote (lineBase x.key) })

/-- Where a location is served, as a number, 0 where its home slice says so (R346). -/
def placeOf : Loc → Nat
  | .phys _ ck _ _ _ => if ck = 0 then 16 else 0
  | .sram k _ => 100 + k
  | .peer d _ _ _ _ => 1000 + d

/-- Where a request is served: those of a core to one place arrive in order (R15, R346). -/
def HomeReq.place : HomeReq → Nat
  | .acc r => r.home
  | .amo a => if placeOf a.loc = 0 then a.home else placeOf a.loc

/-- A request of a core at an index of its outgoing ones reaches its point of serialisation. -/
def State.serveAt (s : State) (core i : Nat) : State :=
  match (s.coreAt core).out[i]? with
  | some (.amo a) =>
    if a.home < 16 then s.arriveAt core i
    else
      ((s.modCore core fun c => { c with out := dropIdx c.out i }).rmwHere core a.lid a.loc a.size
        fun x => amoNew a.fn a.size x a.y).2
  | some (.acc _) => s.arriveAt core i
  | none => s

/-- The requests of a core that a test selects arrive, with those that stand before them on their way to the same place
(R15). -/
def State.sendThrough (s : State) (core : Nat) (p : HomeReq → Bool) : State :=
  let ps := ((s.coreAt core).out.filter p).map HomeReq.place |>.eraseDups
  ps.foldl (fun s h =>
    if h < 16 then s.deliverTo core h
    else iter (fun s =>
      match (s.coreAt core).out.findIdx? fun r => r.place = h with
      | some i => s.serveAt core i
      | none => s) (s.coreAt core).out.length s) s

/-- A core's earlier requests to the place of a location, which is no home, are served before one that waits for none (R15). -/
def State.servePlace (s : State) (core : Nat) (loc : Loc) : State :=
  let p := placeOf loc
  if (s.coreAt core).out.any fun r => 16 ≤ p && r.place = p then s.sendThrough core fun r => r.place = p else s

/-- The place as a location, for the order of requests to it. -/
def Spot.loc (x : Spot) : Loc :=
  if isPeerKey x.key then .peer (keyDev x.key) (keyPa x.key) x.g false x.dom else .phys x.key x.ck x.g false x.dom

/-- A request of a core to the cluster cache or to a peer follows those of its atomics that are on their way there (R15). -/
def State.serveSpot (s : State) (core : Nat) (x : Spot) : State := s.servePlace core x.loc

/-! ### Reading and owning grains (R282 to R284) -/

/-- A core reads a grain: its L1's copy, or one brought in. What another core holds dirty reaches the cluster cache
first, and that core keeps a clean copy (R282, R283). `keep` are the lines that the access needs besides. -/
def State.fetchGrain (s0 : State) (core : Nat) (x : Spot) (keep : List Nat) : State :=
  if ((FMap.find (s0.coreAt core).l1 x.key).any fun y => y.size = x.g) then s0
  else
    let k := cluOfCore core
    let s := s0.serveSpot core x
    let s1 := s.openDir k x keep
    let d := FMap.getD (s1.cluAt k).dir x.key x.dirNone
    let (s2, d1) : State × Dir := match d.owner with
      | some c => (s1.l1Push (k * 16 + c) x.key, { d with owner := none, sharers := [c] })
      | none => (s1, d)
    (s2.setDir k x.key (dirShare d1 (core % 16))).l1In core x keep

/-- A core owns a grain, with no request for it in progress. -/
def State.owns (s : State) (core : Nat) (x : Spot) : Bool :=
  match FMap.find (s.cluAt (cluOfCore core)).dir x.key with
  | some d => d.owner = some (core % 16) && d.request.isNone && d.size = x.g
  | none => false

/-- A core gets ownership of a grain (R284), where it has none yet: the request and all its answers. -/
def State.own (s : State) (core : Nat) (x : Spot) : State :=
  let k := cluOfCore core
  if s.owns core x then s else (((s.serveSpot core x).openDir k x []).askDir core x).finishDir k x.key

/-- A grain leaves a cluster, and what the cluster wrote to it is lost. -/
def State.dropGrain (s : State) (k key : Nat) : State :=
  let s1 := (List.range 16).foldl (fun s i =>
    if (FMap.find (s.coreAt (k * 16 + i)).l1 key).isSome then
      s.modCore (k * 16 + i) fun c => { c with l1 := FMap.del c.l1 key } else s) s
  s1.modClu k fun c => { c with grains := FMap.del c.grains key, dir := FMap.del c.dir key }

/-- Every grain that a cluster holds in an L1 or its cluster cache, and that a test selects. -/
def State.heldKeys (s : State) (k : Nat) (p : Nat → Grain → Bool) : List Nat :=
  (keysWhere (s.cluAt k).grains p ++ (List.range 16).flatMap fun i => keysWhere (s.coreAt (k * 16 + i)).l1 p).eraseDups

/-- Write back what R287 says of a release of device scope by a core: the dirty grains of kinds 1 and 2 of its L1 and of
its cluster cache. -/
def State.releaseDev (s : State) (core : Nat) : State :=
  let k := cluOfCore core
  let s1 := (keysWhere (s.coreAt core).l1 fun _ x => x.ck != 0 && x.isDirty).foldl (fun s b => s.l1Push core b) s
  (keysWhere (s1.cluAt k).grains fun _ x => x.ck != 0 && x.isDirty).foldl (fun s b => s.writeBack core k b) s1

/-- Write back every dirty grain of kinds 1 and 2 of a cluster, all its L1s included (R393, R456). -/
def State.writeBackCluster (s : State) (k : Nat) : State :=
  let s1 := (List.range 16).foldl (fun s i =>
    (keysWhere (s.coreAt (k * 16 + i)).l1 fun _ x => x.ck != 0 && x.isDirty).foldl (fun s b => s.l1Push (k * 16 + i) b) s) s
  (keysWhere (s1.cluAt k).grains fun _ x => x.ck != 0 && x.isDirty).foldl (fun s b => s.writeBack (k * 16) k b) s1

/-- The other cores of a cluster remember which grains of kinds 1 and 2 their L1s held when a core of it made a wider
acquire: what that core then passes on with a release of cluster scope may be newer than they are (R390). -/
def State.markStale (s : State) (core : Nat) (p : Nat → Bool) : State :=
  { s with cores := s.cores.map fun c =>
      if cluOfCore c.1 = cluOfCore core && c.1 != core then
        (c.1, { c.2 with stale := (c.2.stale ++ keysWhere c.2.l1 fun b x => x.ck != 0 && p b).eraseDups })
      else c }

/-- An acquire of cluster scope or wider: an L1 gives up the grains that it has held since before a wider acquire of its
cluster, so that what was seen through that acquire is seen here too (R390, log 76). -/
def State.dropStale (s : State) (core : Nat) : State :=
  match (s.coreAt core).stale with
  | [] => s
  | l => (l.foldl (fun s b => s.l1Notice core b) s).modCore core fun c => { c with stale := [] }

/-- Self-invalidation of R287 by a core: the grains of kinds 1 and 2 that a test selects leave its L1 and its cluster
cache, dirty ones written back first. A grain that is dirty in the core's own L1 goes too, so that its clean bytes are
read afresh, as R390 asks (log 76). The other L1s of the cluster keep theirs, until their cores acquire what the acquirer
passes on (`State.stale`). -/
def State.acquireWhere (s0 : State) (core : Nat) (p : Nat → Bool) : State :=
  let k := cluOfCore core
  let s := s0.markStale core p
  let s1 := (keysWhere (s.coreAt core).l1 fun b x => x.ck != 0 && p b).foldl (fun s b => s.l1Notice core b) s
  (keysWhere (s1.cluAt k).grains fun b x => x.ck != 0 && p b).foldl (fun s b => s.cluOut core k b) s1

/-- Self-invalidation at device scope: a peer's grains stay until system scope (R286, R287). -/
def State.acquireDev (s : State) (core : Nat) : State := s.acquireWhere core fun b => !isPeerKey b

/-- Every home slice drops its remote grains (R296). -/
def Home.dropRemote (x : Home) : Home := { x with remote := [], leases := x.leases.filter fun l => !l.read }

/-- Remote grains leave the acquirer's L1 and cluster cache and every home slice (R296). -/
def State.dropRemote (s : State) (core : Nat) : State :=
  let s1 := s.acquireWhere core isPeerKey
  { s1 with homes := s1.homes.map fun h => (h.1, h.2.dropRemote) }

/-! ### Stores (R284, R296, R387, R388) -/

/-- Register the write lease of a cluster that dirties a grain of kind 1 or 2 for the first time (R435). -/
def State.addLease (s : State) (k : Nat) (x : Spot) (desc : Bool) : State :=
  if x.ck = 0 then s
  else
    s.modHome (s.spotHome x) fun h =>
      if h.leases.any (isLease k x.key) then h
      else { h with leases := h.leases ++ [{ read := false, desc := desc, cl := k, pa := x.key, size := x.g, beat := s.clk }] }

/-- Write the part of `bs`, which starts at x, that lies in the grain at a base: the core owns it first (R284, R388). -/
def State.storeGrain (s : State) (core lid : Nat) (x : Spot) (d : Bool) (bs : List Byte) (base : Nat) : State :=
  let s1 := (s.own core (x.at base)).addLease (cluOfCore core) (x.at base) d
  let lo := max x.key base
  let part := (bs.drop (lo - x.key)).take (base + 2 ^ x.g - lo)
  s1.modCore core fun c =>
    match FMap.find c.l1 base with
    | some y => { c with l1 := FMap.put c.l1 base (y.write (lo - base) lid part) }
    | none => c

/-- Update a copy of a peer's grain that is held somewhere, without making it dirty. -/
def patchGrain (l : FMap Grain) (x : Spot) (bs : List Byte) (base : Nat) : FMap Grain :=
  match FMap.find l base with
  | some y =>
    let lo := max x.key base
    FMap.put l base { y with bytes := setBytes y.bytes (lo - base) ((bs.drop (lo - x.key)).take (base + 2 ^ y.size - lo)) }
  | none => l

/-- A write to a peer passes through the L1 and the cluster cache without allocating: copies there and at the
reading-side home are updated, the other L1s of the cluster are invalidated, and the write goes on to the owner (R283,
R286, R296). One message carries the bytes of one line of 64. -/
def State.writeRemote (s : State) (core lid : Nat) (x : Spot) (bs : List Byte) : State :=
  let k := cluOfCore core
  let gs := grainBases x.g x.key bs.length
  let s1 := gs.foldl (fun s b => (List.range 16).foldl (fun s i =>
    if k * 16 + i != core && (FMap.find (s.coreAt (k * 16 + i)).l1 b).isSome then s.l1Evict (k * 16 + i) b else s) s) s
  let s2 := (s1.modCore core fun c => { c with l1 := gs.foldl (fun l b => patchGrain l x bs b) c.l1 }).modClu k fun c =>
    { c with grains := gs.foldl (fun l b => patchGrain l x bs b) c.grains }
  (lineBases x.key bs.length).foldl (fun s b =>
    let lo := max x.key b
    let part := (bs.drop (lo - x.key)).take (b + 64 - lo)
    s.modHome (s.spotHome (x.at lo)) fun h =>
      { h with
        remote := match FMap.find h.remote b with
          | some g => FMap.put h.remote b (setBytes g (lo - b) part)
          | none => h.remote
        remoteOut := h.remoteOut ++ [{ core := core, lid := lid, dev := keyDev lo, pa := keyPa lo, bytes := part }] }) s2

/-- Every remote write of a core reaches its owner, behind those before it, and is acknowledged (R296, R389). -/
def State.drainRemote (s : State) (core : Nat) : State :=
  let s1 := (s.homes.map fun h => h.1).foldl (fun s h => s.pushRemote h fun w => w.core = core) s
  s1.modCore core fun c => { c with remoteAcks := 0 }

/-- The space a place lies in, and its address there. -/
def Loc.space : Loc → Nat
  | .phys .. => 0
  | .sram k _ => k + 1
  | .peer d _ _ _ _ => d + 100
def Loc.addr : Loc → Nat
  | .phys pa _ _ _ _ => pa
  | .sram _ off => off
  | .peer _ pa _ _ _ => pa

/-- The place n bytes further on. -/
def Loc.plus : Loc → Nat → Loc
  | .phys pa ck g d dom, n => .phys (pa + n) ck g d dom
  | .sram k off, n => .sram k (off + n)
  | .peer dev pa g d dom, n => .peer dev (pa + n) g d dom

/-- A slot sees a store that its core's buffer holds: its own, or one whose value it has taken (R387). -/
def SBEntry.sees (e : SBEntry) (t : Nat) : Bool := e.tid = t || e.seen.contains t

/-- A buffered store reaches into n bytes at a place. -/
def SBEntry.covers (e : SBEntry) (loc : Loc) (n : Nat) : Bool :=
  e.loc.space = loc.space && overlaps e.loc.addr e.bytes.length loc.addr n

/-- A slot takes the values of the buffered stores that a test selects; what a release has set before one of them it sees
with it (R389). -/
def showTo (t : Nat) (p : SBEntry → Bool) : List SBEntry → List SBEntry × Bool
  | [] => ([], false)
  | e :: rest =>
    let r := showTo t p rest
    let hit := !e.sees t && (p e || (r.2 && e.before))
    ((if hit then { e with seen := e.seen ++ [t] } else e) :: r.1, r.2 || hit)

/-- A slot is about to read n bytes: of its siblings' buffered stores it may take those to these bytes early, each or not
(R386, R387, log 84). -/
def State.forward (s : State) (t : Nat) (loc : Loc) (n : Nat) : State :=
  let p (e : SBEntry) : Bool := e.covers loc n && Config.forwards s.tick e.loc.addr
  if (s.coreAt (coreOf t)).storeBuf.any fun e => !e.sees t && p e then
    s.modCore (coreOf t) fun c => { c with storeBuf := (showTo t p c.storeBuf).1 }
  else s

/-- A slot acquires from its siblings: it sees every store that its core's buffer holds (R389, R390). -/
def State.seeAll (s : State) (t : Nat) : State :=
  if (s.coreAt (coreOf t)).storeBuf.any fun e => !e.sees t then
    s.modCore (coreOf t) fun c => { c with storeBuf := (showTo t (fun _ => true) c.storeBuf).1 }
  else s

/-- A release of a core whose earlier stores stay buffered: no later store is seen, or leaves, before them (R389, R391). -/
def State.setBefore (s : State) (core : Nat) : State :=
  if (s.coreAt core).storeBuf.isEmpty then s
  else s.modCore core fun c => { c with storeBuf := c.storeBuf.map fun e => { e with before := true } }

/-- The byte that the youngest of some buffered stores to an address holds. -/
def bufByte : List SBEntry → Nat → Nat → Option Byte
  | [], _, _ => none
  | e :: rest, sp, a =>
    match bufByte rest sp a with
    | some b => some b
    | none =>
      if e.loc.space = sp && e.loc.addr ≤ a && a < e.loc.addr + e.bytes.length then e.bytes[a - e.loc.addr]? else none

/-- Bring what a read needs to the core's L1. -/
def State.touch (s : State) (core : Nat) (loc : Loc) (n : Nat) : State :=
  match loc.spot? with
  | some x =>
    let bs := grainBases x.g x.key n
    bs.foldl (fun s b => s.fetchGrain core (x.at b) (bs.map fun a => a / 512)) s
  | none => s

/-- A byte as a core has it, without the store buffer: its L1, its cluster cache, or the bank of the SRAM. -/
def State.cluByte (s : State) (core : Nat) (loc : Loc) (i : Nat) : Byte :=
  match loc with
  | .sram k off => Memory.read (s.cluAt k).sram (off + i)
  | .phys pa _ g _ _ =>
    (grainByte (s.coreAt core).l1 g (pa + i)).getD ((grainByte (s.cluAt (cluOfCore core)).grains g (pa + i)).getD 0)
  | .peer d pa g _ _ =>
    (grainByte (s.coreAt core).l1 g (peerKey d pa + i)).getD
      ((grainByte (s.cluAt (cluOfCore core)).grains g (peerKey d pa + i)).getD 0)

/-- Bytes as a slot sees them: the buffered stores that it sees first, then its core's L1 (R387). -/
def State.viewBytes (s : State) (t : Nat) (loc : Loc) (n : Nat) : List Byte :=
  let l := (s.coreAt (coreOf t)).storeBuf.filter fun e => e.sees t
  (List.range n).map fun i => (bufByte l loc.space (loc.addr + i)).getD (s.cluByte (coreOf t) loc i)

/-- A slot reads n bytes of a resolved part; a request to a bank follows those of its core that are on their way there
(R15). -/
def State.readLoc (s : State) (t : Nat) (loc : Loc) (n : Nat) : List Byte × State :=
  let s0 := match loc with | .sram _ _ => s.servePlace (coreOf t) loc | _ => s
  let s1 := (s0.touch (coreOf t) loc n).forward t loc n
  (s1.viewBytes t loc n, s1)

/-- A block of a cluster's waiters is no longer EMPTY as a core of the cluster sees it (R49). -/
def State.wakeCluBlocks (s : State) (core : Nat) (loc : Loc) (n : Nat) : State :=
  match loc.spot? with
  | none => s
  | some x =>
    s.wakeAll fun w => match w.place with
      | .block b => x.key ≤ b && b < x.key + n && cluOf w.tid = cluOfCore core && s.cluByte core (loc.plus (b - x.key)) 0 != 0
      | _ => false

/-- A store becomes visible to its cluster (R388). A write of a described block wakes waiters of its cluster (R49). A message
to a bank or a peer follows those of its core on their way there (R15). -/
def State.performStore (s0 : State) (core lid : Nat) (loc : Loc) (bs : List Byte) : State :=
  let s := match loc with | .phys .. => s0 | _ => s0.servePlace core loc
  match loc with
  | .phys pa ck g d dom =>
    let x : Spot := { key := pa, ck := ck, g := g, dom := dom }
    let s1 := (grainBases g pa bs.length).foldl (fun s b => s.storeGrain core lid x d bs b) s
    if d then s1.wakeCluBlocks core loc bs.length else s1
  | .sram k off => s.modClu k fun c => { c with sram := Memory.writeN c.sram off bs }
  | .peer d pa g _ dom => s.writeRemote core lid { key := peerKey d pa, ck := 2, g := g, dom := dom } bs

/-- A store may leave a buffer before those that stand in front of it: none of them touches its bytes, and no release has
come after one of them (R385, R386, R389). -/
def SBEntry.free (e : SBEntry) (older : List SBEntry) : Bool :=
  older.all fun o => !o.before && !o.covers e.loc e.bytes.length

/-- The store at an index of a core's buffer may leave it now: nothing orders it behind an older one, and its core owns the
grains it writes (R388), or it needs no ownership. -/
def State.mayLeave (s : State) (core i : Nat) : Bool :=
  let l := (s.coreAt core).storeBuf
  match l[i]? with
  | none => false
  | some e =>
    e.free (l.take i) && match e.loc with
      | .phys pa ck g _ dom =>
        (grainBases g pa e.bytes.length).all fun b => s.owns core { key := b, ck := ck, g := g, dom := dom }
      | _ => true

/-- The store at an index leaves a core's buffer (R387). -/
def State.leaveAt (s : State) (core i : Nat) : State :=
  match (s.coreAt core).storeBuf[i]? with
  | none => s
  | some e =>
    (s.modCore core fun c => { c with storeBuf := dropIdx c.storeBuf i }).performStore core e.lid e.loc e.bytes

/-- The oldest store of a core leaves its buffer (R387). -/
def State.leaveStore (s : State) (core : Nat) : State := s.leaveAt core 0

/-- Every store of a core leaves its buffer, in order. -/
def State.drainStores (s : State) (core : Nat) : State :=
  iter (fun s => s.leaveStore core) (s.coreAt core).storeBuf.length s

/-- The stores of a core up to the last that touches some bytes leave its buffer, in order (R387). -/
def State.drainOver (s : State) (core : Nat) (loc : Loc) (n : Nat) : State :=
  let l := (s.coreAt core).storeBuf.reverse.dropWhile fun e => !e.covers loc n
  iter (fun s => s.leaveStore core) l.length s

/-- The stores of a core that a release has set before what comes leave its buffer: what is performed outside the buffer
follows them (R389, R391). -/
def State.drainBefore (s : State) (core : Nat) : State :=
  let l := (s.coreAt core).storeBuf.reverse.dropWhile fun e => !e.before
  iter (fun s => s.leaveStore core) l.length s

/-- Post a store to the shared store buffer (R306). -/
def State.postStore (s : State) (t : Nat) (loc : Loc) (bs : List Byte) : State :=
  s.modCore (coreOf t) fun c => { c with storeBuf := c.storeBuf ++ [{ tid := t, lid := (s.slotAt t).lid, loc := loc, bytes := bs }] }

/-- Post the bytes of a store from an index on, in its single-copy atomic units of u bytes (R384). -/
def State.postUnits (s : State) (t : Nat) (loc : Loc) (u : Nat) (bs : List Byte) : Nat → State
  | 0 => s
  | n + 1 => (s.postUnits t loc u bs n).postStore t (loc.plus (u * n)) ((bs.drop (u * n)).take u)

/-! ### Poison and described pages -/

/-- The virtual address of the aligned unit of 2^g bytes that holds va. -/
def alignDown (g va : Nat) : Nat := va / 2 ^ g * 2 ^ g

/-- The first unit of a read that meets poison: the block or grain address (R51, R436). `s` has the bytes at hand. -/
def State.poisonAt (s : State) (t : Nat) (c : Chunk) : Option Nat :=
  let blocks := if c.loc.described then
      ((grainBases 6 c.loc.addr c.len).find? fun b =>
        match c.loc with
        | .phys _ ck g d dom => s.viewBytes t (.phys b ck g d dom) 1 = [BitVec.ofNat 8 fmtPOISON]
        | .peer dev _ g d dom => s.viewBytes t (.peer dev b g d dom) 1 = [BitVec.ofNat 8 fmtPOISON]
        | .sram _ _ => false).map fun b => c.va + b - c.loc.addr
    else none
  match blocks with
  | some a => some a
  | none =>
    match c.loc with
    | .phys pa _ g _ dom =>
      ((grainBases g pa c.len).find? fun b =>
        s.homeFenced b dom || s.poison.any fun q => overlaps q.1 q.2 b (2 ^ g)).map fun b => c.va + b - pa
    | l => if s.locFenced l then some (alignDown 6 c.va) else none

/-- Read a resolved access: its bytes, or POISON (R51, R436). -/
def State.readChunks (s : State) (t acc : Nat) : List Chunk → Run (List Byte)
  | [] => .ok [] s
  | c :: cs =>
    let (bs, s1) := s.readLoc t c.loc c.len
    match s1.poisonAt t c with
    | some a => trapAt cPOISON acc a s1
    | none => (s1.readChunks t acc cs).bind fun rest s2 => .ok (bs ++ rest) s2

/-- Post the bytes of a store to its parts, each in its single-copy atomic units (R384). -/
def State.postChunks (s : State) (t : Nat) : List Chunk → List Byte → State
  | [], _ => s
  | c :: cs, bs =>
    let u := atomicUnit c.va c.len
    (s.postUnits t c.loc u (bs.take c.len) (c.len / u)).postChunks t cs (bs.drop c.len)

/-- A plain store to a described page raises FORMAT with the block address (R41, R305); one to a place that is fenced
raises POISON (R437). -/
def formatCheck (acc : Nat) (cs : List Chunk) (s : State) : Run Unit :=
  match cs.find? fun c => c.loc.described with
  | some c => trapAt cFORMAT acc (alignDown 6 c.va) s
  | none =>
    match cs.find? fun c => s.locFenced c.loc with
    | some c => trapAt cPOISON acc c.va s
    | none => .ok () s

/-! ### Recalls and range maintenance (R299, R328) -/

/-- A cluster writes back and drops its grains of a range of keys, buffered stores first. -/
def State.recallClu (s : State) (k key n : Nat) : State :=
  let s1 := (List.range 16).foldl (fun s i => s.drainStores (k * 16 + i)) s
  (s1.heldKeys k fun b x => overlaps b (2 ^ x.size) key n).foldl (fun s b => s.evictGrain (k * 16) k b) s1

/-- Every cluster writes back and drops its grains of a physical range (R299). -/
def State.recall (s : State) (pa n : Nat) : State :=
  (s.clusters.map fun k => k.1).foldl (fun s k => s.recallClu k pa n) s

end Sys2Proof.Machine
end

