-- ==== Sys2Proof/Machine/Home.lean ====
section
/-!
DEFINITION. A core's requests to points of serialisation: accumulates and its residual store (R358 to R371), atomics
(R346 to R351); the release and acquire actions that rest on them (R287, R369, R370, R389); plain loads and stores.
-/
namespace Sys2Proof.Machine

/-! ### Sending accumulates (R346, R358 to R364) -/

/-- The place of a request's unit. -/
def AccReq.spot (r : AccReq) : Spot := { key := r.pa, ck := r.ck, g := r.grain, dom := r.dom }

/-- Send an accumulate request: the core's buffered stores to the unit and the target grain leave the cluster first
(R346). -/
def State.sendAcc (s : State) (r : AccReq) : State :=
  let len := unitLen r.grain
  let s1 := ((s.drainBefore r.core).drainOver r.core (.phys r.pa r.ck r.grain false r.dom) len).flushTarget r.core r.spot
  let s2 := s1.modCore r.core fun c =>
    { c with accumulated := if c.accumulated.contains (r.lid, r.pa, len) then c.accumulated
        else c.accumulated ++ [(r.lid, r.pa, len)] }
  s2.sendReq r.core (.acc r)

/-- Set of an entry in the residual store (R361). -/
def residualSet (pa : Nat) : Nat := bitsOf pa 9 6

/-- The entry is that of a unit and launch. -/
def Residual.isFor (x : Residual) (pa lid : Nat) : Bool := x.req.pa = pa && x.req.lid = lid

/-- The entry of a core for a unit and launch. -/
def Core.residual? (c : Core) (pa lid : Nat) : Option Residual := c.residuals.find? fun x => x.isFor pa lid

/-- A core sends a residual entry as must-accept and frees it (R364). -/
def State.sendResidual (s : State) (core : Nat) (x : Residual) : State :=
  (s.modCore core fun c => { c with residuals := c.residuals.filter fun y => !y.isFor x.req.pa x.req.lid }).sendAcc
    { x.req with must := true, born := some x.born }

/-- The oldest of some residual entries. -/
def oldestResidual : List Residual → Option Residual
  | [] => none
  | x :: xs =>
    match oldestResidual xs with
    | none => some x
    | some y => if y.born < x.born then some y else some x

/-- A new entry enters the residual store; its full set sends its oldest entry (R362). -/
def State.newResidual (s : State) (r : AccReq) : State :=
  let set := (s.coreAt r.core).residuals.filter fun y => residualSet y.req.pa = residualSet r.pa
  let s1 :=
    if set.length < 4 then s
    else match oldestResidual set with
      | some x => s.sendResidual r.core x
      | none => s
  s1.modCore r.core fun c => { c with residuals := c.residuals ++ [{ req := r, born := r.born.getD s.clk }] }

/-- A refused addend enters the residual store: it joins the entry of its unit and launch (R362). An entry of another
kind of target cannot take it and is sent as must-accept first (log 77). -/
def State.keepResidual (s : State) (r : AccReq) : State :=
  match (s.coreAt r.core).residual? r.pa r.lid with
  | none => s.newResidual r
  | some x =>
    if x.req.data.sameKind r.data then
      let m := resMerge x.req.data r.data
      let slots := (x.req.slots ++ r.slots).eraseDups
      let y : Residual :=
        { req := { x.req with data := m.1, slots := slots }, born := min x.born (r.born.getD s.clk) }
      slots.foldl (fun s t => s.orFlags t m.2) (s.modCore r.core fun c =>
        { c with residuals := c.residuals.map fun z => if z.isFor r.pa r.lid then y else z })
    else (s.sendResidual r.core x).newResidual r

/-- An accumulate fault reaches a slot, which keeps the first (R357). -/
def State.accFaultTo (s : State) (t cause va : Nat) : State :=
  s.modSlot t fun x => if x.accFault.isSome then x else { x with accFault := some (cause, va) }

/-- A launch lives, and its end has not begun (R365, R375, R458). -/
def State.lives (s : State) (lid : Nat) : Bool := (s.launch? lid).any fun l => l.ending.isNone

/-- Slots of a request that still run its launch: flags and faults of a launch that has ended reach no one (R375). -/
def State.liveSlots (s : State) (r : AccReq) : List Nat := r.slots.filter fun t => (s.slotAt t).lid = r.lid && s.lives r.lid

/-- ACCUMULATE_ANSWER: flags reach the slots; a refused addend becomes a residual, while its launch lives; a fault is kept
(R357, R362, R365, R366, R375). -/
def State.takeAnswer (s : State) (a : AccAns) : State :=
  let ts := s.liveSlots a.req
  let s1 := ts.foldl (fun s t => s.orFlags t a.flags) s
  if a.outcome = 0 then s1
  else if a.outcome = 1 then (if s.lives a.req.lid then s1.keepResidual a.req else s1)
  else ts.foldl (fun s t => s.accFaultTo t a.cause a.req.va) s1

/-- The oldest answer of a core that a test selects arrives. -/
def State.stepAnswer (s : State) (core : Nat) (p : AccAns → Bool) : State :=
  match (s.coreAt core).accAns.findIdx? p with
  | none => s
  | some i =>
    match (s.coreAt core).accAns[i]? with
    | none => s
    | some a => (s.modCore core fun c => { c with accAns := dropIdx c.accAns i }).takeAnswer a

/-- The answers that a home slice has sent to a core arrive, in order. -/
def State.answersFrom (s : State) (core h : Nat) : State :=
  iter (fun s => s.stepAnswer core fun a => a.req.home = h) (s.coreAt core).accAns.length s

/-- What a home sent to a core before an old value, or anything else that it sends the core now, arrives first (R15). -/
def State.answersBefore (s : State) (core : Nat) : Loc → State
  | .phys pa ck _ _ dom => if ck = 0 then s else s.answersFrom core (s.homeOf dom pa)
  | _ => s

/-! ### Atomics (R346 to R351) -/

/-- An atomic that its slot waits for, at its point of serialisation, behind the buffered stores to its bytes and those that a
release has set before it (R346, R348, R389). -/
def State.rmw (s : State) (core lid : Nat) (loc : Loc) (n : Nat) (f : Nat → Nat) : Nat × State :=
  ((s.drainBefore core).drainOver core loc n).rmwHere core lid loc n f

/-- A posted atomic leaves the core, behind the buffered stores to its bytes: where it runs at a home the target grain leaves
the cluster first (R346, R349). A release at a home carries the counts of R369. -/
def State.postAmo (s : State) (a : AmoReq) : State :=
  let core := coreOf a.tid
  let s1 := (s.drainBefore core).drainOver core a.loc a.size
  if placeOf a.loc = 0 then
    (match a.loc.spot? with | some x => s1.flushTarget core x | none => s1).sendReq core (.amo a)
  else s1.modCore core fun c => { c with out := c.out ++ [.amo a] }

/-- An atomic of a core that is on its way. -/
def HomeReq.isAmo : HomeReq → Bool
  | .amo _ => true
  | .acc _ => false

/-- Every request that a core holds for reissue is reissued, in order (R293). -/
def State.reissueAll (s : State) (core : Nat) : State :=
  iter (fun s => s.reissue core) (s.coreAt core).remapped.length s

/-- The requests of a core that a test selects arrive, remapped ones among them (R292, R293). -/
def State.complete (s : State) (core : Nat) (p : HomeReq → Bool) : State :=
  let s1 := s.sendThrough core p
  if (s1.coreAt core).remapped.any p then ((s1.returnStale core).reissueAll core).sendThrough core p else s1

/-- Every posted atomic of a core is performed. -/
def State.drainAmo (s : State) (core : Nat) : State := s.complete core HomeReq.isAmo

/-- A request of a slot touches a part of an access. -/
def HomeReq.touches (t : Nat) (c : Chunk) : HomeReq → Bool
  | .amo a => a.tid = t && a.loc.space = c.loc.space && overlaps a.loc.addr a.size c.loc.addr c.len
  | .acc _ => false

/-- The slot's own posted atomics to a place are performed before its next access to it (R306, R385). -/
def State.syncAmo (s : State) (t : Nat) (cs : List Chunk) : State :=
  let core := coreOf t
  let hit (r : HomeReq) : Bool := cs.any fun c => r.touches t c
  if (s.coreAt core).out.any hit || (s.coreAt core).remapped.any hit then s.complete core hit else s

/-! ### Issuing an accumulate (R346, R363) -/

/-- An accumulate to a CK 0 target, served at the cluster cache and never refused (R346, R360). -/
def State.accLocal (s : State) (t va : Nat) (x : Spot) (d : AccData) : State :=
  let core := coreOf t
  let len := unitLen x.g
  let loc := Loc.phys x.key x.ck x.g d.fmt.isSome x.dom
  let s0 := (((s.servePlace core loc).drainBefore core).drainOver core loc len).cluOnly core (x.at (grainBase x.g x.key))
  let old := s0.cluSee core x len
  if s0.homePoisoned x.key len x.dom then s0.accFaultTo t cPOISON va
  else match applyAcc old d with
    | .fault c => s0.accFaultTo t c va
    | .done bs fl => ((s0.cluMerge core (s.slotAt t).lid x bs (accMask old d)).wakeCluBlocks core loc len).orFlags t fl

/-- Issue an accumulate unit from a slot: a residual of the same unit, launch and kind of target is merged into it, one
of another kind is sent first (R363, log 77). -/
def State.issueAcc (s : State) (t pa va ck g dom : Nat) (d : AccData) : State :=
  let core := coreOf t
  let lid := (s.slotAt t).lid
  let r : AccReq :=
    { core := core, lid := lid, slots := [t], pa := pa, va := va, ck := ck, grain := g, dom := dom, data := d,
      must := false, born := none }
  if ck = 0 then s.accLocal t va r.spot d
  else
    match (s.coreAt core).residual? pa lid with
    | none => s.sendAcc r
    | some x =>
      if x.req.data.sameKind d then
        let m := resMerge x.req.data d
        let slots := (x.req.slots ++ [t]).eraseDups
        let s1 := s.modCore core fun c => { c with residuals := c.residuals.filter fun y => !y.isFor pa lid }
        (slots.foldl (fun s u => s.orFlags u m.2) s1).sendAcc
          { x.req with slots := slots, data := m.1, must := false, born := some x.born }
      else (s.sendResidual core x).sendAcc r

/-! ### The residual flush (R364, R370) -/

/-- Every outstanding accumulate of a core for a launch is answered (R370 step 1). -/
def State.awaitAcc (s : State) (core lid : Nat) : State :=
  let s1 := s.complete core fun r => !r.isAmo && r.lid = lid
  let s2 := (List.range 16).foldl (fun s h => s.applyWhere h fun r => r.core = core && r.lid = lid) s1
  iter (fun s => s.stepAnswer core fun a => a.req.lid = lid)
    ((s2.coreAt core).accAns.filter fun a => a.req.lid = lid).length s2

/-- RESIDUAL_FLUSH: answers are awaited, every residual entry of the launch goes out as must-accept and is accepted
(R370). An answer can leave one more residual, so the second wait follows the sends. -/
def State.flushResiduals (s : State) (core lid : Nat) : State :=
  let s1 := s.awaitAcc core lid
  let s2 := ((s1.coreAt core).residuals.filter fun x => x.req.lid = lid).foldl (fun s x => s.sendResidual core x) s1
  s2.awaitAcc core lid

/-! ### Release and acquire (R389) -/

/-- Release actions of a core for a launch at a scope, before the release's own write (R389, R287, R296, R370). -/
def State.releaseAs (s : State) (core lid scope : Nat) : State :=
  if scope = 0 then s
  else
    let s1 := s.drainAmo core
    if scope = 1 then s1.setBefore core
    else
      let s2 := (s1.drainStores core).flushResiduals core lid
      if scope = 2 then s2
      else
        let s3 := s2.releaseDev core
        if scope = 3 then s3 else s3.drainRemote core

/-- Release actions of a slot (R389). -/
def State.release (s : State) (t scope : Nat) : State := s.releaseAs (coreOf t) (s.slotAt t).lid scope

/-- Release actions of an atomic that runs at a home: posted atomics that run elsewhere are
performed, residuals are flushed and write-backs made, and markers go to the homes; the atomic carries the counts and waits at its home, not at the core (R369). -/
def State.releaseByMarker (s : State) (t scope : Nat) : FMap Nat × State :=
  let core := coreOf t
  if scope = 0 then ([], s)
  else
    let s0 := s.sendThrough core fun r => r.isAmo && 16 ≤ r.place
    let s1 :=
      if scope = 1 then s0.setBefore core
      else
        let s2 := (s0.drainStores core).flushResiduals core (s.slotAt t).lid
        if scope = 2 then s2
        else
          let s3 := s2.releaseDev core
          if scope = 3 then s3 else s3.drainRemote core
    let s4 := s1.sendMarkers core
    ((s4.coreAt core).issued, s4)

/-- Acquire actions of a core at a scope (R389, R287, R296). From cluster scope on, copies that are older than an acquire
which a core of its cluster may have passed on go (R390). -/
def State.acquireAs (s : State) (core scope : Nat) : State :=
  if scope < 2 then s
  else
    let s1 := s.dropStale core
    if scope = 2 then s1
    else
      let s2 := s1.acquireDev core
      if scope = 3 then s2 else s2.dropRemote core

/-- Acquire actions of a slot: it sees what its siblings have stored before (R389, R390). -/
def State.acquire (s : State) (t scope : Nat) : State :=
  let s1 := s.acquireAs (coreOf t) scope
  if scope = 0 then s1 else s1.seeAll t

/-- A release of a task edge: at any scope it flushes the residuals (R364, R392). -/
def State.releaseEdge (s : State) (core lid scope : Nat) : State :=
  (s.flushResiduals core lid).releaseAs core lid scope

/-- E(x, y): the narrowest scope that encloses two cores (R20, R392). -/
def edgeScope (x y : Nat) : Nat := if x = y then 1 else if cluOfCore x = cluOfCore y then 2 else 3

/-! ### Plain loads and stores -/

/-- A plain load: resolved, read and checked for poison (R303 to R305). -/
def State.plainLoad (s : State) (t : Nat) (va n : Nat) : Run (List Byte) :=
  (s.resolve t accRead true true va n).bind fun cs s1 => (s1.syncAmo t cs).readChunks t accRead cs

/-- A plain store: resolved, checked, posted (R305, R306). -/
def State.plainStore (s : State) (t : Nat) (va : Nat) (bs : List Byte) : Run Unit :=
  (s.resolve t accWrite true true va bs.length).bind fun cs s1 =>
    (formatCheck accWrite cs s1).bind fun _ s2 => .ok () ((s2.syncAmo t cs).postChunks t cs bs)

end Sys2Proof.Machine
end

