-- ==== Sys2Proof/Machine/Window.lean ====
section
/-!
DEFINITION. Vector and tile windows, the pools they come from (R179 to R182, R245, R271), and the conversions between
registers, plain formats and blocks (R52, R57, R313).
-/
namespace Sys2Proof.Machine

/-! ### Precision of a slot (R30, R186) -/

def Slot.rnd (x : Slot) : Nat := bitsOf x.prc.toNat 6 4
def Slot.exact (x : Slot) : Bool := bitOf x.prc.toNat 7
/-- The arithmetic class min(PRC.p, WCLS). -/
def Slot.aclass (x : Slot) : Nat := min (x.prc.toNat % 16) x.vclass
/-- L of R221. -/
def Slot.L (x : Slot) : Nat := classL x.aclass

/-! ### Vector registers -/

/-- Vector register j. -/
def Slot.vreg (x : Slot) (j : Nat) : FMap Lane := FMap.getD x.vregs j []
/-- Lane i of a vector; a lane that is not listed is +0, whose bits are zero. -/
def laneOf (v : FMap Lane) (i : Nat) : Lane := FMap.getD v i 0
def Slot.setVreg (x : Slot) (j : Nat) (v : FMap Lane) : Slot := { x with vregs := FMap.put x.vregs j v }
/-- A vector from its 32 lanes. -/
def mkVec (f : Nat → Lane) : FMap Lane :=
  (List.range 32).foldl (fun m i => FMap.store m i 0 (f i)) []
/-- The exact value of lane i of a vector of class n. -/
def laneVal (n : Nat) (v : FMap Lane) (i : Nat) : Val := decodeLane n (laneOf v i)

/-- One element changed from class a to class b in a rounding mode (R35): the element, its flags, the class it needs.
Without a change of class there is no conversion. -/
def reclass (a b mode : Nat) (x : Lane) : Lane × Flags × Nat :=
  if a = b then (x, 0, 0)
  else if a < b then
    match decodeLane a x with
    | .nan _ => (canonicalNaN b, 0, 0)
    | _ =>
      let f := x.toNat % 2 ^ classL a
      let hi := x.toNat / 2 ^ classL a % 2 ^ 13
      (BitVec.ofNat 76 ((f * 2 ^ (4 * (b - a))) + hi * 2 ^ classL b), 0, 0)
  else
    match decodeLane a x with
    | .nan _ => (canonicalNaN b, 0, 0)
    | v =>
      let r := v.toRes
      let (w, fl) := r.deliver (fmtReg (classL b)) mode
      (encodeLane b w, fl, r.classNeeded)

/-- A vector changed from class a to class b (R35): lanes and flags. -/
def reclassVec (a b mode : Nat) (v : FMap Lane) : FMap Lane × Flags :=
  v.foldl (fun t e => let (y, fl, _) := reclass a b mode e.2; (FMap.store t.1 e.1 0 y, t.2 ||| fl)) ([], 0)

/-! ### Pools (R180, R181) -/

/-- Bytes of a window. -/
def winBytes (c n : Nat) : Nat := c * (64 + 16 * n)

/-- Slots of a core. -/
def coreSlots (core : Nat) : List Nat := (List.range 16).map fun i => core * 16 + i

/-- Free bytes of a core's vector register pool (R180). -/
def State.poolFree (s : State) (core : Nat) : Nat :=
  2 ^ 18 - (coreSlots core).foldl (fun a t => a + winBytes (s.slotAt t).vcount (s.slotAt t).vclass) 0

/-- Free tiles of a core's TAS (R181). -/
def State.tasFree (s : State) (core : Nat) : Nat := 64 - (s.coreAt core).tas.length

/-- Window requests of a core in their order (R180). -/
def State.poolWaits (s : State) (core : Nat) : List Wait := s.waits.filter fun w => w.place = .pool core

/-- The slot holds pool space (R182). -/
def Slot.holdsPool (x : Slot) : Bool := x.vcount != 0 || x.tcount != 0

/-! ### Tiles -/

/-- Some window of the core or some frame refers to a TAS storage (R126). -/
def State.tileUsed (s : State) (core st : Nat) : Bool :=
  (coreSlots core).any (fun t => (s.slotAt t).tmap.any fun e => e.2 = st) ||
    s.clusters.any fun k => k.2.frames.any fun f => f.2.tiles.contains (core, st)

/-- A copy that was writing a TAS storage writes no more rows there; it will end with status TILE (R334). -/
def State.endReceiver (s : State) (core st : Nat) : State :=
  let f (c : Copy) : Copy :=
    if !c.finished && c.recv.contains (core, st) then
      { c with recv := c.recv.filter (· != (core, st)), status := if c.status = 0 then 7 else c.status }
    else c
  { s with cores := s.cores.map fun c => (c.1, { c.2 with copies := c.2.copies.map f }) }

/-- Give back a TAS storage that nothing refers to any more (R126). -/
def State.freeTile (s : State) (core st : Nat) : State :=
  if s.tileUsed core st then s
  else (s.modCore core fun c => { c with tas := FMap.del c.tas st }).endReceiver core st

/-- A free TAS storage number of a core: no rule orders them. -/
def Core.freeStore (c : Core) : Nat := ((List.range 64).find? fun i => (FMap.find c.tas i).isNone).getD 64

/-- A new zero ACC32 tile at position j of a slot's window (R181). -/
def State.newTile (s : State) (t j : Nat) : State :=
  let st := (s.coreAt (coreOf t)).freeStore
  (s.modCore (coreOf t) fun c => { c with tas := FMap.put c.tas st {} }).modSlot t fun x =>
    { x with tmap := FMap.put x.tmap j st }

/-- The tile at position j of a slot's window. -/
def State.tile (s : State) (t j : Nat) : Tile :=
  FMap.getD (s.coreAt (coreOf t)).tas (FMap.getD (s.slotAt t).tmap j 64) {}

/-- Write the tile at position j of a slot's window. -/
def State.setTile (s : State) (t j : Nat) (x : Tile) : State :=
  match FMap.find (s.slotAt t).tmap j with
  | none => s
  | some st => s.modCore (coreOf t) fun c => { c with tas := FMap.put c.tas st x }

/-- The tile is held (R125). -/
def State.tileHeld (s : State) (t j : Nat) : Bool := !(s.tile t j).holds.isEmpty

/-- Release the tiles of a window from position c on (R271). -/
def State.dropTiles (s : State) (t c : Nat) : State :=
  let gone := (s.slotAt t).tmap.filter fun e => c ≤ e.1
  let s1 := s.modSlot t fun x => { x with tmap := x.tmap.filter fun e => e.1 < c, tcount := min c x.tcount }
  gone.foldl (fun s e => s.freeTile (coreOf t) e.2) s1

/-- Set a tile window of c tiles (R271). -/
def State.setTiles (s : State) (t c : Nat) : State :=
  let c0 := (s.slotAt t).tcount
  let s1 := s.dropTiles t c
  let s2 := ((List.range c).filter fun j => c0 ≤ j).foldl (fun s j => s.newTile t j) s1
  s2.modSlot t fun x => { x with tcount := c }

/-! ### Conversions (R52, R57, R313) -/

/-- Size of a vld or vst type in memory (R66, R312). -/
def typeSize (ty : Nat) : Nat :=
  if ty = 0 || ty = 1 then 4 else if ty = 2 then 8 else if ty = 3 || ty = 5 || ty = 7 then 2 else 1

/-- The type needs integer lanes (R313). -/
def typeInt (ty : Nat) : Bool := ty = 0 || 4 ≤ ty

/-- The exact value of a floating memory element (R24). -/
def typeVal (ty w : Nat) : Val :=
  if ty = 1 then plainDecode 32 23 w else if ty = 2 then plainDecode 64 52 w else plainDecode 16 7 w

/-- A value brought into a register of class n at fraction length L: element, flags, class needed (R30, R57). -/
def toLane (n L mode : Nat) (v : Val) : Lane × Flags × Nat :=
  let r := v.toRes
  let (w, fl) := r.deliver (fmtReg L) mode
  (encodeLane n w, fl, r.classNeeded)

/-- A memory element of a type brought into a lane (R313). -/
def loadElem (ty n L mode w : Nat) : Lane × Flags × Nat :=
  if ty = 0 then (BitVec.ofNat 76 (w % 2 ^ 32), 0, 0)
  else if ty = 4 then (BitVec.ofNat 76 ((signedOf 8 w) % 2 ^ 32).toNat, 0, 0)
  else if ty = 5 then (BitVec.ofNat 76 ((signedOf 16 w) % 2 ^ 32).toNat, 0, 0)
  else if ty = 6 then (BitVec.ofNat 76 (w % 2 ^ 8), 0, 0)
  else if ty = 7 then (BitVec.ofNat 76 (w % 2 ^ 16), 0, 0)
  else toLane n L mode (typeVal ty w)

/-- A lane converted to a memory element of a type (R313): bits and flags. -/
def storeElem (ty n mode : Nat) (x : Lane) : Nat × Flags :=
  if ty = 1 then let (v, fl) := convert fmtB32 mode (decodeLane n x); (plainEncode 32 23 v, fl)
  else if ty = 2 then let (v, fl) := convert fmtB64 mode (decodeLane n x); (plainEncode 64 52 v, fl)
  else if ty = 3 then let (v, fl) := convert fmtBF16 mode (decodeLane n x); (plainEncode 16 7 v, fl)
  else (x.toNat % 2 ^ (8 * typeSize ty), 0)

/-- A described element brought into a lane (R52); an element of a NANBLK is a quiet NaN (R50). -/
def loadDesc (n L mode : Nat) (b : Block) (slot : Nat) : Lane × Flags × Nat := toLane n L mode (b.elem slot)

/-- A fetched stream element converted by a slot, at its class, precision and rounding mode of the moment (R52, R57). -/
def Slot.convElem (x : Slot) (fmt : Nat) : SElem → Lane × Flags × Nat
  | .word w => loadElem fmt x.vclass x.L x.rnd w
  | .val v => toLane x.vclass x.L x.rnd v
  | .lane y => (y, 0, 0)

/-- Lane i of a buffered vector of a read stream as a slot's pop delivers it: +0 past the end (R30, R183, log 78). -/
def Slot.popLane (x : Slot) (fmt : Nat) (v : SVec) (i : Nat) : Lane × Flags × Nat :=
  match FMap.find v.raw i with
  | some e => x.convElem fmt e
  | none => (0, 0, 0)

/-- The lanes of a buffered vector as a slot's pop delivers them. -/
def Slot.popVec (x : Slot) (fmt : Nat) (v : SVec) : FMap Lane := mkVec fun i => (x.popLane fmt v i).1

/-- A value rounded to the precision of class n, as a shrink does to an element of a register (R35): a special value keeps
its kind. -/
def Slot.shrinkVal (x : Slot) (n : Nat) (v : Val) : Val × Flags × Nat :=
  match v with
  | .fin _ _ _ =>
    let r := toLane n (classL n) x.rnd v
    (decodeLane n r.1, r.2)
  | _ => (v, 0, 0)

/-- A buffered element when its slot's class becomes n: element, flags, class needed. A wider class leaves a value as it
is, a narrower one rounds it; an integer element is a lane whose bits are converted as a register's are (R35, R245, log
78). -/
def Slot.reclassElem (x : Slot) (fmt n : Nat) (e : SElem) : SElem × Flags × Nat :=
  let keep (v : Val) : SElem × Flags × Nat :=
    if x.vclass ≤ n then (e, 0, 0) else let r := x.shrinkVal n v; (if r.1 = v then e else .val r.1, r.2)
  let bits (y : Lane) : SElem × Flags × Nat := let r := reclass x.vclass n x.rnd y; (.lane r.1, r.2)
  if n = x.vclass then (e, 0, 0)
  else match e with
    | .word w => if typeInt fmt then bits (x.convElem fmt e).1 else keep (typeVal fmt w)
    | .val v => keep v
    | .lane y => bits y

/-- The elements of a buffered vector when the class becomes n. -/
def Slot.reclassStream (x : Slot) (fmt n : Nat) (v : SVec) : SVec × Flags :=
  ({ v with raw := v.raw.map fun e => (e.1, (x.reclassElem fmt n e.2).1) },
   v.raw.foldl (fun a e => a ||| (x.reclassElem fmt n e.2).2.1) 0)

/-! ### Changing a vector window (R245) -/

/-- Registers with a vector load still on its way (R246). -/
def State.pendingWrite (s : State) (t j : Nat) : Bool :=
  (s.coreAt (coreOf t)).wideq.any fun e => e.tid = t && e.vd = j

/-- The read streams that a slot has bound. -/
def State.readStreams (s : State) (t : Nat) : List Stream :=
  ((s.coreAt (coreOf t)).streams.map fun e => e.2).filter fun st => st.tid = t && st.rcd.dir = 0

/-- The class that a shrink needs, when exact mode forbids it: of the registers without a pending write, and of the vectors
buffered in read streams, which are converted like the register (R35, R245). -/
def State.vwinPxh (s : State) (t c n : Nat) : Option Nat :=
  let x := s.slotAt t
  if x.exact && n < x.vclass then
    let rs := ((List.range (min c x.vcount)).filter fun j => !s.pendingWrite t j).flatMap fun j =>
      (x.vreg j).map fun e => (reclass x.vclass n x.rnd e.2).2
    let bs := (s.readStreams t).flatMap fun st => st.buf.flatMap fun v =>
      v.raw.map fun e => (x.reclassElem st.rcd.fmt n e.2).2
    if (rs ++ bs).any fun r => r.1 &&& flNX != 0 then some ((rs ++ bs).foldl (fun a r => max a r.2) 0) else none
  else none

/-- Engines bound by a slot. -/
def Slot.engines (x : Slot) : List Nat := x.binds.map fun b => b.2

/-- Change the window to c registers of class n, converting what stays; new registers read +0 (R35, R36, R245). A load whose register goes away is
discarded with the flags that its conversion would have set (R36, DESIGN CHOICE: log 87). -/
def State.setWindow (s : State) (t c n : Nat) : State :=
  let x := s.slotAt t
  let conv := ((x.vregs.filter fun r => r.1 < min c x.vcount).map fun r => (r.1, reclassVec x.vclass n x.rnd r.2))
  let s1 := s.modSlot t fun y =>
    { y with
      vregs := conv.map fun r => (r.1, r.2.1)
      flg := conv.foldl (fun a r => a ||| r.2.2) y.flg
      vcount := c
      vclass := if c = 0 then 0 else n }
  let bufFl := (s.readStreams t).foldl
    (fun a st => st.buf.foldl (fun a v => a ||| (x.reclassStream st.rcd.fmt n v).2) a) 0
  (s1.orFlags t bufFl).modCore (coreOf t) fun k =>
    { k with
      wideq := (k.wideq.filter fun e => e.tid != t || e.vd < c).map fun e =>
        if e.tid = t then
          let r := reclassVec e.cls n x.rnd e.lanes
          { e with cls := n, lanes := r.1, flags := e.flags ||| r.2 }
        else e
      streams := k.streams.map fun e =>
        if e.2.tid = t && e.2.rcd.dir = 0 then (e.1, { e.2 with buf := e.2.buf.map fun v => (x.reclassStream e.2.rcd.fmt n v).1 }) else e }

/-! ### Wide queue (R195) -/

/-- A vector load's data is written to its active lanes, with its flags (R195, R219, R246). -/
def State.completeWide (s : State) (e : WideEntry) : State :=
  s.modSlot e.tid fun x =>
    { x with
      vregs := if e.vd < x.vcount then
          FMap.put x.vregs e.vd (mkVec fun i => if e.act.getLsbD i then laneOf e.lanes i else laneOf (x.vreg e.vd) i)
        else x.vregs
      flg := x.flg ||| e.flags }

/-- The oldest entry of a core's wide queue completes. -/
def State.stepWide (s : State) (core : Nat) : State :=
  match (s.coreAt core).wideq with
  | [] => s
  | e :: rest => (s.modCore core fun c => { c with wideq := rest }).completeWide e

/-- Entries of a core's queue up to the last that a test selects: the queue completes in issue order (R195). -/
def wideUpTo (q : List WideEntry) (p : WideEntry → Bool) : Nat := (q.reverse.dropWhile fun e => !p e).length

/-- The entries of a core up to the last that a test selects complete (R195). -/
def State.stepWides (s : State) (core : Nat) (p : WideEntry → Bool) : State :=
  iter (fun s => s.stepWide core) (wideUpTo (s.coreAt core).wideq p) s

/-- The entries of a slot complete, and those before them (R195). -/
def State.drainWide (s : State) (t : Nat) : State := s.stepWides (coreOf t) fun e => e.tid = t

/-- Every entry of a core completes: a wide instruction that completes now is ordered behind them (R195). -/
def State.drainCore (s : State) (core : Nat) : State := s.stepWides core fun _ => true

/-- A vwin of slot t takes its place in the wide queue: the loads of its siblings complete before it, and the slot's own in
front of them; the others stay pending across it (R195, R245, R246). -/
def State.orderVwin (s : State) (t : Nat) : State := s.stepWides (coreOf t) fun e => e.tid != t

/-- What a parked vwin asks for when it issues again: the registers of its register form are read anew (R245). -/
def Slot.vwinAsks (x : Slot) (src : Option (Nat × Nat)) (count cls : Nat) : Nat × Nat :=
  match src with
  | some (a, b) => ((x.reg a).toNat, (x.reg b).toNat)
  | none => (count, cls)

/-- The same for a parked twin (R271). -/
def Slot.twinAsks (x : Slot) (src : Option Nat) (count : Nat) : Nat :=
  match src with
  | some a => (x.reg a).toNat
  | none => count

/-- A window request that the pool is asked for: it is a valid one, and larger than the slot's window (R245). -/
def Slot.vwinGrows (x : Slot) (c n : Nat) : Bool :=
  c ≤ 64 && n ≤ 15 && (x.binds.all fun b => b.1 < c) && winBytes x.vcount x.vclass < winBytes c n

/-- The same for tiles; the register form of twin needs a tile window (R271). -/
def Slot.twinGrows (x : Slot) (src : Option Nat) (c : Nat) : Bool :=
  c ≤ 16 && x.tcount < c && (src.isNone || x.tcount != 0)

/-- A window request of a core has been granted: it is not deadlocked any more (R433). -/
def State.granted (s : State) (core : Nat) : State := s.modCore core fun c => { c with deadlockShown := false }

/-- A vector load whose data is on its way enters its core's wide queue: of 32 entries, of which a slot holds at most
eight; in a full one the oldest complete first (R195). -/
def State.queueWide (s : State) (e : WideEntry) : State :=
  let core := coreOf e.tid
  let q := (s.coreAt core).wideq
  let mine := (q.filter fun w => w.tid = e.tid).length
  let s1 := if mine < 8 then s
    else iter (fun s => s.stepWide core) ((q.findIdx fun w => w.tid = e.tid) + 1) s
  let s2 := if (s1.coreAt core).wideq.length < 32 then s1 else s1.stepWide core
  s2.modCore core fun c => { c with wideq := c.wideq ++ [e] }

/-! ### Streams (R183, R322 to R327) -/

/-- Element index at a position of a stream's sequence, dimension 0 innermost (R183). -/
def streamIndex : Nat → List Nat → List Int → Int
  | p, c :: cs, st :: sts => ((p % c : Nat) : Int) * st + streamIndex (p / c) cs sts
  | _, _, _ => 0

/-- Elements of a stream. -/
def StreamRec.total (r : StreamRec) : Nat := r.count.foldl (fun a c => a * c) 1

/-- Address of a stream element: plain, or block and slot of a described one (R40, R183). -/
def StreamRec.elemAddr (r : StreamRec) (pos : Nat) : Nat × Nat :=
  let i := streamIndex pos r.count r.stride
  if r.desc then
    let k := (fmtK r.fmt : Int)
    (((((r.base / 64 * 64 : Nat) : Int) + 64 * (i / k)) % 2 ^ 64).toNat, (i % k).toNat)
  else (((r.base : Int) + i * typeSize r.fmt) % 2 ^ 64).toNat |> fun a => (a, 0)

/-- log2 of the grain of a place. -/
def Loc.grain : Loc → Nat
  | .phys _ _ g _ _ => g
  | .peer _ _ g _ _ => g
  | .sram _ _ => 0

/-- The key of a place that caches may hold. -/
def Loc.key (l : Loc) : Nat := (l.spot?.map Spot.key).getD 0

/-- The place of a D-block: D = 1 is needed; `frm` is the trap of frame space (R41, R302). -/
def State.blockPlace (s : State) (t acc frm va : Nat) : Run Loc :=
  match regionOf va with
  | .frame => trapAt frm acc va s
  | .scratch => trapAt cFORMAT acc va s
  | _ =>
    (s.resolve t acc false false va 64).bind fun cs s1 =>
      match cs with
      | [c] =>
        if !c.loc.described then trapAt cFORMAT acc va s1
        else if c.loc.grain = 5 then trapAt cPAGE acc va s1
        else .ok c.loc s1
      | _ => trapAt cFORMAT acc va s1

/-- A block that reads EMPTY is read again at its home, but for CK 0, whose cluster cache is the serialising point; of a
peer at the owner's (R49). -/
def State.reread (s : State) (t : Nat) (loc : Loc) : List Byte × State :=
  let core := coreOf t
  match loc.spot? with
  | none => s.readLoc t loc 64
  | some x =>
    if x.ck = 0 then s.readLoc t loc 64
    else
      let s1 := s.evictGrain core (cluOfCore core) (grainBase x.g x.key)
      let s2 := if isPeerKey x.key then
          s1.modHome (s1.spotHome x) fun h => { h with remote := FMap.del h.remote (lineBase x.key) }
        else s1
      s2.readLoc t loc 64

/-- The block that a described access of a slot finds, read whole: D = 1 is needed, a copy that reads EMPTY is fetched
again, POISON, a reserved FMT and another FMT than the expected raise their traps (R38, R40, R41, R49). `none` is an EMPTY
block, with its key. -/
def State.readBlock (s : State) (t acc frm va f : Nat) : Run (Nat × Option Block) :=
  (s.blockPlace t acc frm va).bind fun loc s1 =>
    let r0 := s1.readLoc t loc 64
    let r := if Block.fmt r0.1 = fmtEMPTY then r0.2.reread t loc else r0
    let x := Block.fmt r.1
    if r.2.locFenced loc || x = fmtPOISON then trapAt cPOISON acc va r.2
    else if x = fmtEMPTY then .ok (loc.key, none) r.2
    else if x != f && x != fmtNANBLK then trapAt cFORMAT acc va r.2
    else .ok (loc.key, some r.1) r.2

/-- Write a block whole: D = 1 is needed (R41, R42). -/
def State.blockLoc (s : State) (t acc frm va : Nat) : Run Loc :=
  (s.blockPlace t acc frm va).bind fun loc s1 =>
    if s1.locFenced loc then trapAt cPOISON acc va s1 else .ok loc s1

/-- One element of a stream, as it is in memory; `none` is the +0 past the end (R183). -/
def State.fetchElem (s : State) (t : Nat) (r : StreamRec) (pos : Nat) : Run (Option SElem) :=
  if r.total ≤ pos then .ok none s
  else
    let a := r.elemAddr pos
    if r.desc then
      (s.readBlock t accRead cPROT a.1 r.fmt).bind fun b s1 =>
        match b with
        | (key, none) => .stop (.park (.block key) .reissue) s1
        | (_, some blk) => .ok (some (.val (blk.elem a.2))) s1
    else
      (s.resolve t accRead true false a.1 (typeSize r.fmt)).bind fun cs s1 =>
        (s1.readChunks t accRead cs).bind fun bs s2 => .ok (some (.word (natOfBytes bs))) s2

/-- Write an engine's state. -/
def State.putStream (s : State) (core e : Nat) (x : Stream) : State :=
  s.modCore core fun c => { c with streams := FMap.put c.streams e x }

/-- A stream has data, room or a fault to tell: the slots that stall at it go on (R183, R325, R326). -/
def State.streamMoved (s : State) (core e : Nat) : State := s.wakePlace (.stream core e)

/-- Where a stopped engine stands: a fault that awaits delivery, or a wait (R325, R326). -/
def State.engineStop (s : State) (core e : Nat) (va : Nat) (r : Stop) : State :=
  match FMap.find (s.coreAt core).streams e with
  | none => s
  | some st =>
    match r with
    | .trap cause _ _ => (s.putStream core e { st with fault := some (cause, va), waiting := none }).streamMoved core e
    | .park p _ => s.putStream core e { st with waiting := some p }

/-- STREAM_FETCH: an engine reads the next vector of a read stream into its buffer; the pop converts its elements (R325,
DESIGN CHOICE: log 78). A fault of an element, POISON of a block among them, is told with the element's address (R326,
DESIGN CHOICE: log 90). -/
def State.streamFetch (s : State) (core e : Nat) : State :=
  match FMap.find (s.coreAt core).streams e with
  | none => s
  | some st =>
    if st.rcd.dir != 0 || 8 ≤ st.buf.length then s
    else
      match Run.mapList (fun i s => s.fetchElem st.tid st.rcd (st.pos + i)) (List.range 32) s with
      | .ok els s1 =>
        let v : SVec := {
          lanes := [], cls := (s1.slotAt st.tid).vclass
          raw := els.zipIdx.filterMap fun o => o.1.map fun e => (o.2, e) }
        (s1.putStream core e
          { st with pos := st.pos + 32, buf := st.buf ++ [v], fault := none, told := false, waiting := none }).streamMoved core e
      | .stop r s1 =>
        let bad := ((List.range 32).find? fun i =>
          match s.fetchElem st.tid st.rcd (st.pos + i) with | .ok _ _ => false | .stop _ _ => true).getD 0
        s1.engineStop core e (st.rcd.elemAddr (st.pos + bad)).1 r

/-- The place of element i after the next of a plain write stream, checked (R41, R302). -/
def State.plainSpot (s : State) (st : Stream) (i : Nat) : Run (List Chunk) :=
  (s.resolve st.tid accWrite true false (st.rcd.elemAddr (st.pos + i)).1 (typeSize st.rcd.fmt)).bind fun cs s1 =>
    (formatCheck accWrite cs s1).bind fun _ s2 => .ok cs s2

/-- Write the elements of one appended vector of a plain stream (R183, R325). -/
def State.writePlain (s : State) (st : Stream) (v : SVec) (n : Nat) : Run Flags :=
  (Run.mapList (fun i s => s.plainSpot st i) (List.range n) s).bind fun css s1 =>
    let es := (List.range n).map fun i => storeElem st.rcd.fmt v.cls v.aux (laneOf v.lanes i)
    let s2 := (css.zip es).foldl (fun s p => s.postChunks st.tid p.1 (leBytes (typeSize st.rcd.fmt) p.2.1)) s1
    .ok (es.foldl (fun a x => a ||| x.2) 0) (s2.drainStores (coreOf st.tid))

/-- Write the described block number j of a stream from its values (R324). -/
def State.writeStreamBlock (s : State) (st : Stream) (j mode : Nat) (vals : List Val) : Run Flags :=
  (s.blockLoc st.tid accWrite cPROT ((st.rcd.base / 64 * 64 + 64 * j) % 2 ^ 64)).bind fun loc s1 =>
    let k := fmtK st.rcd.fmt
    let (b, fl) := vstdBlock mode (st.rcd.fmt - 0x10) (vals ++ List.replicate (k - vals.length) (.zero false))
    .ok fl (((s1.drainStores (coreOf st.tid)).performStore (coreOf st.tid) (s1.slotAt st.tid).lid loc b))

/-- Append values to a described write stream, writing every block that fills and the last one (R324). -/
def State.writeDesc (s : State) (st : Stream) (mode : Nat) : Nat → Nat → List Val → Run (Flags × List Val)
  | 0, _, part => .ok (0, part) s
  | fuel + 1, done, part =>
    let k := fmtK st.rcd.fmt
    if k ≤ part.length || (st.rcd.total ≤ done + part.length && !part.isEmpty) then
      (s.writeStreamBlock st (done / k) mode (part.take k)).bind fun fl s1 =>
        (s1.writeDesc st mode fuel (done + min k part.length) (part.drop k)).bind fun r s2 =>
          .ok (fl ||| r.1, r.2) s2
    else .ok (0, part) s

/-- STREAM_WRITE: an engine performs the writes of its oldest appended vector (R324, R325). -/
def State.streamWrite (s : State) (core e : Nat) : State :=
  match FMap.find (s.coreAt core).streams e with
  | none => s
  | some st =>
    match st.buf with
    | [] => s
    | v :: rest =>
      if st.rcd.dir != 1 then s
      else
        let n := min 32 (st.rcd.total - st.pos)
        if st.rcd.desc then
          let part := st.part ++ (List.range n).map fun i => laneVal v.cls v.lanes i
          match s.writeDesc st v.aux 64 (st.pos - st.part.length) part with
          | .ok (fl, left) s1 =>
            ((s1.putStream core e { st with pos := st.pos + n, buf := rest, part := left, fault := none, told := false, waiting := none }).orFlags
              st.tid fl).streamMoved core e
          | .stop r s1 => s1.engineStop core e (match r with | .trap _ _ tval => tval.toNat | .park _ _ => 0) r
        else
          match s.writePlain st v n with
          | .ok fl s1 =>
            ((s1.putStream core e { st with pos := st.pos + n, buf := rest, fault := none, told := false, waiting := none }).orFlags
              st.tid fl).streamMoved core e
          | .stop r s1 =>
            let bad := ((List.range n).find? fun i =>
              match s.plainSpot st i with | .ok _ _ => false | .stop _ _ => true).getD 0
            s1.engineStop core e (st.rcd.elemAddr (st.pos + bad)).1 r

/-- The engine's stream of a bound register. -/
def State.boundStream (s : State) (t v : Nat) : Option (Nat × Stream) :=
  match FMap.find (s.slotAt t).binds v with
  | none => none
  | some e => (FMap.find (s.coreAt (coreOf t)).streams e).map fun st => (e, st)

/-- Deliver the fault of an engine as a trap of its slot; it then waits for the instruction to execute again (R326). -/
def State.tellFault (s : State) (core e : Nat) (st : Stream) (acc : Nat) (f : Nat × Nat) : Run Unit :=
  trapAt f.1 acc f.2 (s.putStream core e { st with told := true })

/-- The instruction stalls at a stream: its slot is not ready until the engine has moved (R175, R183, R325). -/
def stallRun {α : Type} (core e : Nat) (s : State) : Run α := .stop (.park (.stream core e) .reissue) s

/-- The engine of a stream whose fault has been told tries again (R326). -/
def Stream.again (st : Stream) : Stream := if st.told then { st with fault := none, told := false } else st

/-- A slot stalls at a stream: its instruction has had no effect, and the engine goes on, after a fault that has been told
too (R175, R326). -/
def State.stallAt (s : State) (t core e : Nat) : State :=
  (match FMap.find (s.coreAt core).streams e with
    | some st => s.putStream core e st.again
    | none => s).parkAt t (.stream core e) .reissue

/-- The stream that a slot stalls at, by core and engine. -/
def State.stalledAt (s : State) (t : Nat) : Option (Nat × Nat) :=
  s.waits.findSome? fun w => match w.place with
    | .stream c e => if w.tid = t then some (c, e) else none
    | _ => none

/-- The write stream bound to a register of slot u has room for an instruction of slot t, which stalls while there is none.
A fault that awaits is taken by slot u's own instruction; one of a sibling waits until it has been (R175, R183, R190, R325,
R326). -/
def State.writeRoom (s : State) (t u r : Nat) : Run Unit :=
  let core := coreOf u
  match s.boundStream u r with
  | none => .ok () s
  | some (e, st) =>
    if st.rcd.dir = 0 then .ok () s
    else if st.fault.isSome && !st.told && t = u then s.tellFault core e st accWrite (st.fault.getD (0, 0))
    else if st.fault.isNone && st.buf.length < 8 then .ok () s
    else stallRun core e s

/-- Append a vector to a write stream of a slot (R183). -/
def State.append (s : State) (core e : Nat) (st : Stream) (lanes : FMap Lane) : State :=
  let x := s.slotAt st.tid
  let v : SVec := { lanes := lanes, cls := x.vclass, aux := x.rnd }
  s.putStream core e { st with buf := st.buf ++ [v], vecs := st.vecs + 1 }

/-- Perform every buffered write of a stream, at most eight vectors. -/
def State.finishWrites (s : State) (core e : Nat) : State := iter (fun s => s.streamWrite core e) 8 s

/-- The last partial block of a described write stream is written when the stream ends by its release (R324, R327). -/
def State.finishPart (s : State) (core e : Nat) : State :=
  match FMap.find (s.coreAt core).streams e with
  | none => s
  | some st =>
    if st.part.isEmpty then s
    else
      match s.writeStreamBlock st ((st.pos - st.part.length) / fmtK st.rcd.fmt) (s.slotAt st.tid).rnd st.part with
      | .ok fl s1 => s1.orFlags st.tid fl
      | .stop _ s1 => s1

/-- The lowest free engine of a core (R323). -/
def Core.freeEngine (c : Core) : Option Nat := (List.range 16).find? fun e => (FMap.find c.streams e).isNone

/-- Bind a stream at a position (R323, R432). -/
def State.bindAt (s : State) (t v : Nat) (r : StreamRec) (vecs : Nat) : State :=
  match (s.coreAt (coreOf t)).freeEngine with
  | none => s
  | some e =>
    (s.putStream (coreOf t) e
      { tid := t, v := v, rcd := r, pos := 32 * vecs, vecs := vecs, buf := [], fault := none, waiting := none, part := [] }).modSlot
      t fun x => { x with binds := FMap.put x.binds v e }

/-- The oldest sbind that waits for an engine of a core is performed, if one is free (R323). -/
def State.serveEngine (s : State) (core : Nat) : State :=
  if (s.coreAt core).freeEngine.isNone then s
  else
    match s.waits.find? fun w => w.place = .engine core with
    | none => s
    | some w =>
      match w.op with
      | .bind v r => ((s.wakeSlot w).bindAt w.tid v r 0).modSlot w.tid fun x => { x.passShadow with pc := x.pc + 4 }
      | _ => s.wakeSlot w

/-- The waiting sbinds of a core are served in order of arrival while engines are free (R323). -/
def State.serveEngines (s : State) (core : Nat) : State :=
  iter (fun s => s.serveEngine core) (s.waits.filter fun w => w.place = .engine core).length s

/-- Release one binding: a write stream completes its writes, then the engine is free and a parked bind goes on (R184,
R323, R327). -/
def State.unbind (s : State) (t v : Nat) : State :=
  match FMap.find (s.slotAt t).binds v with
  | none => s
  | some e =>
    let core := coreOf t
    let s1 := (s.finishWrites core e).finishPart core e
    let s2 := (s1.modCore core fun c => { c with streams := FMap.del c.streams e }).modSlot t fun x =>
      { x with binds := FMap.del x.binds v }
    (s2.streamMoved core e).serveEngines core

/-- Release every binding of a slot (R184). -/
def State.unbindAll (s : State) (t : Nat) : State :=
  ((s.slotAt t).binds.map fun b => b.1).foldl (fun s v => s.unbind t v) s

/-- The fault that a release of a slot's write streams would have to deliver first (R326). -/
def State.streamFault (s : State) (t : Nat) : Option (Nat × Nat) :=
  ((s.slotAt t).binds.findSome? fun b =>
    match FMap.find (s.coreAt (coreOf t)).streams b.2 with
    | some st => if st.rcd.dir = 1 then st.fault else none
    | none => none)

end Sys2Proof.Machine
end

