-- ==== Sys2Proof/Machine/Task.lean ====
section
/-!
DEFINITION. Frames, queues, steal engines and the start and resumption of tasks (chapter 05; task edges of R392).
-/
namespace Sys2Proof.Machine

/-! ### Frame headers (R121) -/

/-- n bytes at an offset of a frame. -/
def State.frRd (s : State) (fa off n : Nat) : Nat := Memory.readNat (s.cluAt (frameClu fa)).sram (frameOff fa + off) n
def State.frWr (s : State) (fa off n v : Nat) : State :=
  s.modClu (frameClu fa) fun k => { k with sram := Memory.writeNat k.sram (frameOff fa + off) n v }

/-- Frame states (R123). -/
def frIDLE : Nat := 0
def frRUNNING : Nat := 1
def frSTOLEN : Nat := 2
def frWAITING : Nat := 3

def State.frState (s : State) (fa : Nat) : Nat := s.frRd fa 20 4 % 4
def State.setFrState (s : State) (fa st : Nat) : State := s.frWr fa 20 4 st
def State.frJoin (s : State) (fa : Nat) : Int := signedOf 32 (s.frRd fa 16 4)
def State.frParent (s : State) (fa : Nat) : Nat := s.frRd fa 8 8
def State.frSmask (s : State) (fa : Nat) : Nat := s.frRd fa 24 4
def State.frVclass (s : State) (fa : Nat) : Nat := s.frRd fa 28 1
def State.frVcnt (s : State) (fa : Nat) : Nat := s.frRd fa 29 1
def State.frNT (s : State) (fa : Nat) : Nat := s.frRd fa 30 1
def State.frTname (s : State) (fa i : Nat) : Nat := s.frRd fa (32 + i) 1
def State.frLid (s : State) (fa : Nat) : Nat := s.frRd fa 48 4
def State.frFlags (s : State) (fa : Nat) : Nat := s.frRd fa 56 8

/-- Bits of FLAGS. -/
def fROOT : Nat := 2 ^ 9
def fDONATED : Nat := 2 ^ 10
def fUNSTARTED : Nat := 2 ^ 11
def fFRESH : Nat := 2 ^ 12

/-- Hidden data of a frame. -/
def State.frInfo (s : State) (fa : Nat) : FrameInfo :=
  FMap.getD (s.cluAt (frameClu fa)).frames (frameOff fa) { units := 1, holder := 0, round := 0, tiles := [], args := [] }
def State.modFrInfo (s : State) (fa : Nat) (f : FrameInfo → FrameInfo) : State :=
  s.modClu (frameClu fa) fun k =>
    match FMap.find k.frames (frameOff fa) with
    | none => k
    | some x => { k with frames := FMap.put k.frames (frameOff fa) (f x) }

/-- Bytes of saved state before the published vectors: 64 + 8 × popcount(SMASK). -/
def savedVec (smask : Nat) : Nat := 64 + 8 * popcount smask 32

/-! ### The frame store (R120, R277) -/

/-- Bytes at the top of the frame store that hold the cluster queue, the waiter lists and, in cluster-in-die 0, the die
queue (R277, log 10). -/
def queueBytes (k : Nat) : Nat := if k % 16 = 0 then 8192 + 4096 + 131072 else 8192 + 4096

/-- Start and end of the usable part of each mode-2 bank. -/
def Cluster.frameSpans (c : Cluster) (k : Nat) : List (Nat × Nat) :=
  let bs := c.banks 2
  bs.map fun j => (j * 2 ^ 18, if bs.getLast? = some j then (j + 1) * 2 ^ 18 - queueBytes k else (j + 1) * 2 ^ 18)

/-- n bytes at an offset are free and lie in one bank. -/
def Cluster.frameFits (c : Cluster) (k n off : Nat) : Bool :=
  off % 64 = 0 && (c.frameSpans k).any (fun p => p.1 ≤ off && off + n ≤ p.2) &&
    c.frames.all fun f => off + n ≤ f.1 || f.1 + 64 * f.2.units ≤ off

/-- An offset for a new frame of n bytes; which free run it is, no rule says (R120, log 4). -/
def State.frameRoom (s : State) (k n : Nat) : Option Nat :=
  let c := s.cluAt k
  let starts : List Nat := (c.frameSpans k).map fun p => p.1
  let ends : List Nat := c.frames.map fun f => f.1 + 64 * f.2.units
  ((Config.frameHint s.tick * 64) :: (starts ++ ends)).find? fun off => c.frameFits k n off

/-- Allocate a frame: its header is zero but for the fields given (R121, R146). -/
def State.newFrame (s : State) (k off n holder : Nat) (cpc parent state lid asid flags : Nat) : State :=
  let s1 := s.modClu k fun c =>
    { c with
      frames := FMap.put c.frames off { units := n / 64, holder := holder, round := 0, tiles := [], args := [] }
      sram := Memory.writeN c.sram off (List.replicate 64 0) }
  let fa := frameAddr k off
  (((((s1.frWr fa 0 8 cpc).frWr fa 8 8 parent).frWr fa 20 4 state).frWr fa 48 4 lid).frWr fa 52 4 asid).frWr fa 56 8
    (flags + n / 64)

/-- Free a frame: the tiles it refers to, then a spawner that waits for room (R126, R146). -/
def State.freeFrame (s : State) (fa : Nat) : State :=
  let ts := (s.frInfo fa).tiles
  let s1 := s.modClu (frameClu fa) fun c => { c with frames := FMap.del c.frames (frameOff fa) }
  let s2 := ts.foldl (fun s x => s.freeTile x.1 x.2) s1
  s2.wakePlace (.frames (frameClu fa))

/-! ### Launches of slots and entries -/

/-- The launch of a queue entry. -/
def State.entryLaunch (s : State) (e : QEntry) : Option Launch := s.launch? (s.frLid e.frame)
def State.slotLaunch (s : State) (t : Nat) : Option Launch := s.launch? (s.slotAt t).lid
def State.draining (s : State) (lid : Nat) : Bool :=
  match s.launch? lid with
  | some l => l.drain.isSome
  | none => false

/-- A cluster belongs to the domain of a launch. -/
def Launch.hasClu (l : Launch) (k : Nat) : Bool := bitOf l.domain k

/-- An entry is eligible for a cluster (R137). -/
def State.eligible (s : State) (k : Nat) (e : QEntry) : Bool :=
  match s.entryLaunch e with
  | some l => l.hasClu k && l.drain.isNone
  | none => false

/-- A slot that a work notice reaches: an engine that rests probes again, and the event latch is set (R139, R427). -/
def Slot.noticed (x : Slot) : Slot := { x with notice := x.notice || x.mode = .resting, latch := true }

/-- A work notice to a domain reaches every slot of its clusters, also one that has held no task yet (R139, R427). -/
def State.sendNotice (s : State) (domain : Nat) : State :=
  (setBits domain 64).foldl (fun s k => (List.range 256).foldl (fun s i => s.modSlot (k * 256 + i) Slot.noticed) s) s

/-- Notice for the domain of an entry's launch. -/
def State.noticeFor (s : State) (e : QEntry) : State :=
  match s.entryLaunch e with
  | some l => s.sendNotice l.domain
  | none => s

/-! ### Queues (R132 to R135) -/

/-- Push to the die queue (R132). -/
def State.pushDie (s : State) (d : Nat) (e : QEntry) : State :=
  (s.modDie d fun x => { x with dq := x.dq ++ [{ e with moved := true }] }).noticeFor e

/-- Push to the tail of a slot's deque; a push that leaves at least two entries sends a notice (R132, R139). -/
def State.pushDeque (s : State) (t : Nat) (e : QEntry) : State :=
  let s1 := s.modSlot t fun x => { x with deque := x.deque ++ [e] }
  if 2 ≤ (s1.slotAt t).deque.length then s1.noticeFor e else s1

/-- A continuation leaves its deque: JOIN of its frame rises, the frame is STOLEN, the entry COUNTED (R123, R129). -/
def State.joinInc (s : State) (e : QEntry) : State × QEntry :=
  if e.kind = 0 && !e.counted then
    (((s.frWr e.frame 16 4 ((s.frRd e.frame 16 4 + 1) % 2 ^ 32)).setFrState e.frame frSTOLEN), { e with counted := true })
  else (s, e)

/-- Entries of a list that a block move takes: eight, lowest priority class first, oldest first in a class (R133). -/
def offloadPick (q : List QEntry) : List QEntry :=
  (((q.filter fun e => e.prio = 0) ++ (q.filter fun e => e.prio = 1) ++ (q.filter fun e => e.prio = 2) ++
    q.filter fun e => e.prio = 3).take 8)

/-- The same with the highest class first (R133). -/
def pullPick (q : List QEntry) : List QEntry :=
  (((q.filter fun e => e.prio = 3) ++ (q.filter fun e => e.prio = 2) ++ (q.filter fun e => e.prio = 1) ++
    q.filter fun e => e.prio = 0).take 8)

/-- Take entries out of a list, each once. -/
def removeAll (q es : List QEntry) : List QEntry := es.foldl (fun q e => q.erase e) q

/-- The watermarks of a launch's push. -/
def Launch.marks (l : Launch) : Marks := { cqhigh := l.cqhigh, dqhigh := l.dqhigh, dqlow := l.dqlow, domain := l.domain }

/-- A full deque finds the cluster queue at or above CQHIGH: it becomes PRESSED (R134). -/
def Cluster.press (c : Cluster) (l : Launch) : Cluster :=
  if c.pressed then c else { c with pressed := true, low := l.cqlow, pressDom := l.domain }

/-- A die queue refuses the offload of a cluster: it is or becomes PRESSED, and the offload waits (R134). -/
def Die.refuse (x : Die) (k : Nat) (m : Marks) : Die :=
  let y := if x.refused.any fun r => r.1 = k then x else { x with refused := x.refused ++ [(k, m)] }
  if x.pressed then y else { y with pressed := true, low := m.dqlow, pressDom := m.domain }

/-- A cluster queue at or below its low watermark is NORMAL again, and its parked spawners wake (R134). -/
def State.relaxClu (s : State) (k : Nat) : State :=
  let c := s.cluAt k
  if c.pressed && c.cq.length ≤ c.low then
    (s.modClu k fun c => { c with pressed := false, low := 0, pressDom := 0 }).wakePlace (.pressed k)
  else s

/-- Occupancy above CQHIGH moves eight entries to the die queue, unless that one is PRESSED or at DQHIGH (R133, R134). -/
def State.offload (s : State) (k : Nat) (m : Marks) : State :=
  let d := dieOfClu k
  if (s.cluAt k).cq.length ≤ m.cqhigh then s
  else if (s.dieAt d).pressed || m.dqhigh ≤ (s.dieAt d).dq.length then s.modDie d fun x => x.refuse k m
  else
    let es := offloadPick (s.cluAt k).cq
    (es.foldl (fun s e => s.pushDie d e) (s.modClu k fun c => { c with cq := removeAll c.cq es })).relaxClu k

/-- BLOCK_MOVE: the eight oldest entries of a full deque go to the cluster queue; `none` when it is refused, and then
the queue is PRESSED (R133, R134, R392). -/
def State.blockMove (s : State) (t : Nat) (l : Launch) : Option State :=
  let k := cluOf t
  if (s.cluAt k).pressed || l.cqhigh ≤ (s.cluAt k).cq.length then none
  else
    let es := (s.slotAt t).deque.take 8
    let s0 := s.releaseEdge (coreOf t) l.lid 3
    let s1 := s0.modSlot t fun x => { x with deque := x.deque.drop 8 }
    let s2 := es.foldl (fun s e =>
      let (s1, e1) := s.joinInc e
      (s1.modClu k fun c => { c with cq := c.cq ++ [e1] }).noticeFor e1) s1
    some (s2.offload k l.marks)

/-- A die queue at or below its low watermark is NORMAL again, and the refused offloads are tried again (R134). -/
def State.relaxDie (s : State) (d : Nat) : State :=
  let x := s.dieAt d
  if x.pressed && x.dq.length ≤ x.low then
    x.refused.foldl (fun s r => s.offload r.1 r.2)
      (s.modDie d fun y => { y with pressed := false, low := 0, pressDom := 0, refused := [] })
  else s

/-- DIE_QUEUE_PULL: an empty cluster queue takes eight eligible entries of its die queue (R133). -/
def State.pull (s : State) (k : Nat) : State :=
  let d := dieOfClu k
  let es := pullPick ((s.dieAt d).dq.filter (s.eligible k))
  if !(s.cluAt k).cq.isEmpty || es.isEmpty then s
  else
    let s1 := s.modDie d fun x => { x with dq := removeAll x.dq es }
    let s2 := s1.modClu k fun c => { c with cq := c.cq ++ es }
    (es.foldl State.noticeFor s2).relaxDie d

/-! ### Starting and resuming (R106, R127, R142, R432) -/

/-- Release a slot's windows; held storage stays with its frames (R126, R147). -/
def State.releaseWindows (s : State) (t : Nat) : State :=
  let s1 := (s.drainWide t).modSlot t fun x => { x with vcount := 0, vclass := 0, vregs := [] }
  s1.dropTiles t 0

/-- A slot has no task any more. -/
def State.goIdle (s : State) (t : Nat) : State := s.modSlot t fun x => { x with mode := .idle, pend := [], later := [], taken := none }

/-- The tile window that a frame needs: 1 + the largest name, none when it names none (R127). -/
def State.frTiles (s : State) (fa : Nat) : Nat :=
  (List.range (s.frNT fa)).foldl (fun a i => max a (s.frTname fa i + 1)) 0

/-- The frame has a KIND 2 save area (R432). -/
def State.frSave (s : State) (fa : Nat) : Nat := s.frRd fa 40 8
def State.savedKind (s : State) (fa : Nat) : Nat :=
  if s.frSave fa = 0 then 0 else s.homeNat (s.frSave fa) 8

/-- Pool bytes and new tiles that starting an entry on a slot needs (R106, R127, R432). -/
def State.startNeeds (s : State) (t : Nat) (e : QEntry) : Nat × Nat :=
  let fa := e.frame
  if s.frFlags fa / fFRESH % 2 = 1 then
    match s.entryLaunch e with
    | some l => (winBytes l.vcount l.vclass, l.tcount)
    | none => (0, 0)
  else if s.savedKind fa = 2 then
    let a := s.frSave fa
    (winBytes (s.homeNat (a + 640) 8) (s.homeNat (a + 648) 8), s.homeNat (a + 656) 8)
  else
    let here := (s.frInfo fa).tiles.filter fun x => x.1 = coreOf t && x.2 < 64
    (winBytes (s.frVcnt fa) (s.frVclass fa), s.frTiles fa - here.length)

/-- Stream engines that a resumption from a KIND 2 save area binds (R432). -/
def State.startEngines (s : State) (e : QEntry) : Nat :=
  if s.frFlags e.frame / fFRESH % 2 != 1 && s.savedKind e.frame = 2 then
    ((List.range 4).filter fun i => !(s.homeRead (s.frSave e.frame + 704 + 128 * i) 128).all (· = 0)).length
  else 0

/-- The core's pool, TAS and stream engines can hold what the start needs. -/
def State.startFits (s : State) (t : Nat) (e : QEntry) : Bool :=
  let n := s.startNeeds t e
  n.1 ≤ s.poolFree (coreOf t) && n.2 ≤ s.tasFree (coreOf t) &&
    s.startEngines e + (s.coreAt (coreOf t)).streams.length ≤ 16 + (s.slotAt t).binds.length

/-- Published scalars of a frame (R121, R127). -/
def State.savedRegs (s : State) (fa : Nat) : FMap Word :=
  ((List.range 32).filter fun j => bitOf (s.frSmask fa) j && j != 0).map fun j =>
    (j, BitVec.ofNat 64 (s.frRd fa (64 + 8 * popcount (s.frSmask fa) j) 8))

/-- A vector register from its R27 image of 64 + 16n bytes: lane i at bits i × W. -/
def vecOfImage (n : Nat) (bs : List Byte) : FMap Lane :=
  let w := natOfBytes bs
  mkVec fun i => BitVec.ofNat 76 (w / 2 ^ (i * laneW n) % 2 ^ laneW n)

/-- The R27 image of a vector register. -/
def imageOfVec (n : Nat) (v : FMap Lane) : List Byte :=
  leBytes (64 + 16 * n) (packFields (laneW n) ((List.range 32).map fun i => (laneOf v i).toNat))

/-- Published vector registers of a frame (R121). -/
def State.savedVecs (s : State) (fa : Nat) : FMap (FMap Lane) :=
  let n := s.frVclass fa
  (List.range (s.frVcnt fa)).map fun i =>
    (i, vecOfImage n (Memory.readN (s.cluAt (frameClu fa)).sram
      (frameOff fa + savedVec (s.frSmask fa) + i * (64 + 16 * n)) (64 + 16 * n)))

/-- Copy the named tiles of a frame into a slot's window and pass the frame's reference on (R126, R127, R139). -/
def State.bindTiles (s : State) (t fa : Nat) : State :=
  let core := coreOf t
  let names := (List.range (s.frNT fa)).map (s.frTname fa)
  let old := (s.frInfo fa).tiles
  let s0 := s.modFrInfo fa fun f => { f with tiles := [] }
  let s1 := (List.range (s.frTiles fa)).foldl (fun s j =>
    match names.findIdx? (fun n => n = j) with
    | none => s.newTile t j
    | some i =>
      match old[i]? with
      | none => s.newTile t j
      | some (c, st) =>
        if c = core && st < 64 then s.modSlot t fun x => { x with tmap := FMap.put x.tmap j st }
        else
          let x := FMap.getD (s.coreAt c).tas st {}
          (s.newTile t j).setTile t j { x with holds := [] }) s0
  let s2 := s1.modSlot t fun x => { x with tcount := s.frTiles fa }
  old.foldl (fun s x => s.freeTile x.1 x.2) s2

/-- What every start and resumption sets besides its own registers (R106, R127, R464). The pc is even: bit 0 of an odd
entry word is dropped (R58, log 79). -/
def Slot.begin (x : Slot) (l : Option Launch) (fa pc lid asid prc : Nat) : Slot :=
  { x with
    mode := .running, pc := BitVec.ofNat 64 (pc / 2 * 2), frp := fa, lid := lid, asid := asid, prc := BitVec.ofNat 8 prc
    masks := [], dln := 0, tau := 0, rgv := 0, tpc := 0, tcau := 0, tval := 0, udef := {}, slv := 0
    sup := false, uh := false, sh := false, pend := [], later := [], fetchMiss := false, kept := none, drains := none
    taken := none
    tvec := match l with | some l => BitVec.ofNat 64 l.tvec | none => x.tvec
    rage := match l with | some l => l.rage | none => x.rage }

/-- The first start of a root or donated task (R106, R142): the frame is no longer FRESH. -/
def State.startFresh (s : State) (t : Nat) (e : QEntry) : State :=
  let fa := e.frame
  let lid := s.frLid fa
  match s.launch? lid with
  | none => s
  | some l =>
    let top : Word := BitVec.ofNat 64 (scratchBase + l.scratch)
    let args := (s.frInfo fa).args
    let regs : FMap Word :=
      if args.isEmpty then [(2, BitVec.ofNat 64 l.arg), (30, top)]
      else ((List.range 7).map fun i => (2 + i, BitVec.ofNat 64 (args.getD i 0))) ++ [(30, top)]
    let s1 := (s.frWr fa 56 8 (s.frFlags fa - fFRESH)).setFrState fa frRUNNING
    let s2 := s1.modFrInfo fa fun f => { f with holder := coreOf t, args := [] }
    let s3 := s2.modSlot t fun x =>
      { x.begin (some l) fa e.pc lid l.asid l.prec with
        regs := regs, flg := 0, vcount := l.vcount, vclass := if l.vcount = 0 then 0 else l.vclass, vregs := [] }
    s3.setTiles t l.tcount

/-- resume(F, pc) of R127, without its tiles. An unstarted child has started now: UNSTARTED is cleared (R121, R140,
DESIGN CHOICE: log 79). -/
def State.resumeRegs (s : State) (t fa pc : Nat) : State :=
  let lid := s.frLid fa
  let asid := s.frRd fa 52 4 % 2 ^ 14
  let fl := s.frFlags fa
  let s1 := (s.setFrState fa frRUNNING).modFrInfo fa fun f => { f with holder := coreOf t }
  let s2 := if fl / fUNSTARTED % 2 = 1 then s1.frWr fa 56 8 (fl - fUNSTARTED) else s1
  s2.modSlot t fun x =>
    { x.begin (s.launch? lid) fa pc lid asid (bitsOf fl 23 16) with
      regs := s.savedRegs fa, vcount := s.frVcnt fa, vclass := if s.frVcnt fa = 0 then 0 else s.frVclass fa
      vregs := s.savedVecs fa }

/-- resume(F, pc) of R127. -/
def State.resumeFrame (s : State) (t fa pc : Nat) : State := (s.resumeRegs t fa pc).bindTiles t fa

/-- The tiles of a KIND 1 block become the frame's named tiles (R432). -/
def State.restoreTiles (s : State) (t fa : Nat) : State :=
  let a := s.frSave fa
  let s0 := s.frWr fa 40 8 0
  let s1 := (List.range (s.frTiles fa)).foldl (fun s j => s.newTile t j) s0
  let s2 := s1.modSlot t fun x => { x with tcount := s.frTiles fa }
  (List.range (s.frNT fa)).foldl (fun s i =>
    s.setTile t (s.frTname fa i)
      { data := Memory.writeN [] 0 (s.homeRead (a + 64 + 4096 * i) 4096)
        tag := s.homeNat (a + 16 + i) 1
        side := Memory.writeN [] 0 (s.homeRead (a + 16448 + 256 * i) 256) }) s2

/-- A stream record from its 64 bytes (R183). -/
def streamRecOf (b : List Byte) : StreamRec :=
  { base := recField b 0 8
    fmt := recField b 8 1
    dims := recField b 9 1
    dir := recField b 10 1
    desc := bitOf (recField b 11 1) 0
    count := (List.range 4).map fun i => recField b (16 + 4 * i) 4
    stride := (List.range 4).map fun i => signedOf 64 (recField b (32 + 8 * i) 8) }

/-- The 64 bytes of a stream record. -/
def StreamRec.bytes (r : StreamRec) : List Byte :=
  leBytes 8 r.base ++ leBytes 1 r.fmt ++ leBytes 1 r.dims ++ leBytes 1 r.dir ++ leBytes 1 (b2n r.desc) ++
    leBytes 4 0 ++ r.count.flatMap (leBytes 4) ++ r.stride.flatMap fun x => leBytes 8 (x % 2 ^ 64).toNat

/-- What a long-latency access is, by its instruction word (R192, R426). -/
inductive Redo where
  | load (n : Nat) (sgn : Bool)
  | ordered (n scope : Nat)
  | full (take : Bool)
deriving DecidableEq, Repr

/-- The access of a load, lda, lde or ldx. -/
def redoOf : Instr → Option Redo
  | .ldb .. => some (.load 1 true)
  | .ldbu .. => some (.load 1 false)
  | .ldh .. => some (.load 2 true)
  | .ldhu .. => some (.load 2 false)
  | .ldw .. => some (.load 4 true)
  | .ldwu .. => some (.load 4 false)
  | .ldd .. => some (.load 8 false)
  | .ldaD _ _ scope _ => some (.ordered 8 scope.toNat)
  | .ldaW _ _ scope _ => some (.ordered 4 scope.toNat)
  | .lde .. => some (.full false)
  | .ldx .. => some (.full true)
  | _ => none

def redoWord (w : Nat) : Option Redo :=
  match decodeWord (BitVec.ofNat 32 w) with
  | .ok i => redoOf i
  | .error _ => none

/-- Where a save area holds the accesses beyond the first: bytes that the table of R431 leaves free, behind the tiles
(DESIGN CHOICE, log 59). -/
def saveMore : Nat := 94208

/-- A saved access: addresses of its instruction and of its bytes, and its word with DEST above. -/
def savedPend (iaddr va w : Nat) : Pend :=
  { left := 0, dest := bitsOf w 36 32, iaddr := BitVec.ofNat 64 iaddr, iword := w % 2 ^ 32, va := BitVec.ofNat 64 va
    out := match redoWord (w % 2 ^ 32) with
      | some (.full take) => .full take
      | _ => .access
    arrived := true }

/-- The accesses of a save area are pending again (R430, R432). -/
def State.restorePending (s : State) (t a : Nat) : State :=
  let rd (off n : Nat) : Nat := s.homeNat (a + off) n
  let n := min 16 (rd saveMore 4)
  let more := (List.range (n + min 16 (rd (saveMore + 4) 4))).map fun i =>
    let b := saveMore + 16 + 24 * i
    savedPend (rd b 8) (rd (b + 8) 8) (rd (b + 16) 8)
  let first := if bitOf (rd 24 8) 1 then [savedPend (rd (saveMore + 8) 8) (rd 32 8) (rd 40 8)] else []
  s.modSlot t fun x => { x with pend := first ++ more.take n, later := more.drop n }

/-- A code address of a save area: bit 0 of an odd one is dropped, since a pc is always even (R58, R419, log 79). -/
def codeAddr (n : Nat) : Word := BitVec.ofNat 64 (n / 2 * 2)

/-- Every register, window, binding, special register and handler bit of a KIND 2 save area (R431, R432). -/
def State.restoreSave (s : State) (t fa : Nat) : State :=
  let a := s.frSave fa
  let rd (off n : Nat) : Nat := s.homeNat (a + off) n
  let sr (id : Nat) : Nat := rd (320 + 8 * id) 8
  let lid := s.frLid fa
  let asid := s.frRd fa 52 4 % 2 ^ 14
  let vc := rd 640 8
  let vn := rd 648 8
  let tc := rd 656 8
  let s1 := ((s.frWr fa 40 8 0).setFrState fa frRUNNING).modFrInfo fa fun f => { f with holder := coreOf t }
  let s2 := s1.modSlot t fun x =>
    { x.begin (s.launch? lid) fa (rd 8 8) lid asid (sr 0 % 256) with
      regs := ((List.range 32).filter fun j => j != 0).map fun j => (j, BitVec.ofNat 64 (rd (64 + 8 * j) 8))
      flg := BitVec.ofNat 8 (sr 1), dln := BitVec.ofNat 64 (sr 8), tau := BitVec.ofNat 32 (sr 9)
      rgv := BitVec.ofNat 32 (sr 10), slv := BitVec.ofNat 64 (sr 11), tvec := codeAddr (sr 0x10)
      tpc := codeAddr (sr 0x11), tcau := BitVec.ofNat 64 (sr 0x12), tval := BitVec.ofNat 64 (sr 0x13)
      udef := { dfp := BitVec.ofNat 64 (sr 0x14), dfv := BitVec.ofNat 64 (sr 0x15), dfi := BitVec.ofNat 64 (sr 0x16) }
      rage := sr 0x1B, uh := bitOf (rd 24 8) 0
      masks := ((List.range 8).filter fun j => j != 0).map fun j => (j, BitVec.ofNat 32 (rd (576 + 8 * j) 8))
      vcount := vc, vclass := if vc = 0 then 0 else vn
      vregs := (List.range vc).map fun i =>
        (i, vecOfImage vn (s.homeRead (a + 5312 + i * (64 + 16 * vn)) (64 + 16 * vn))) }
  let s3 := s2.setTiles t tc
  let s4 := (List.range tc).foldl (fun s j => s.setTile t j
    { data := Memory.writeN [] 0 (s.homeRead (a + 28672 + 4096 * j) 4096)
      tag := rd (664 + j) 1
      side := Memory.writeN [] 0 (s.homeRead (a + 1216 + 256 * j) 256) }) s3
  let s5 := (List.range 4).foldl (fun s i =>
    let b := s.homeRead (a + 704 + 128 * i) 128
    if b.all (· = 0) then s else s.bindAt t (recField b 72 8) (streamRecOf b) (recField b 64 8)) s4
  s5.restorePending t a

/-- Messages that a resumption holds for a frame go to the slot that resumes it (R432). -/
def State.giveMessages (s : State) (t fa : Nat) : State :=
  match s.slotLaunch t with
  | none => s
  | some l =>
    let ms := l.messages.filter fun m => m.1 = fa
    if ms.isEmpty then s
    else
      let s1 := s.modLaunch l.lid fun x => { x with messages := x.messages.filter fun m => m.1 != fa }
      (s1.modCore (coreOf t) fun c =>
        { c with inbox := c.inbox ++ ms.map fun m => { tid := t, lid := l.lid, bytes := m.2 } }).modSlot t fun x =>
        { x with latch := true }

/-- The catch-up of R393, before a frame held by core h resumes on core d. -/
def State.catchUp (s : State) (h d : Nat) : State :=
  if h = d then s
  else if cluOfCore h = cluOfCore d then s.drainStores h
  else ((List.range 16).foldl (fun s i => s.drainStores (cluOfCore h * 16 + i)) s).writeBackCluster (cluOfCore h)

/-- A continuation that resumes on another core than its frame's holder, after a child of its round has ended there: what
the child released is written back as far as the new core, which acquires it (R392, R393). -/
def State.followRound (s : State) (t fa : Nat) : State :=
  let h := (s.frInfo fa).holder
  if (s.frInfo fa).round = 0 || h = coreOf t then s
  else (s.catchUp h (coreOf t)).acquire t (edgeScope h (coreOf t))

/-- Start or resume the entry a slot has taken, its needs being met (R106, R127, R142, R432). Bindings that the slot
still has are released first (R184). -/
def State.startTask (s0 : State) (t : Nat) (e : QEntry) : State :=
  let s := ((s0.unbindAll t).ungive t).followRound t e.frame
  let fa := e.frame
  if s.frFlags fa / fFRESH % 2 = 1 then s.startFresh t e
  else if s.savedKind fa = 2 then (s.restoreSave t fa).giveMessages t fa
  else if s.savedKind fa = 1 then ((s.resumeRegs t fa e.pc).restoreTiles t fa).giveMessages t fa
  else (s.resumeFrame t fa e.pc).giveMessages t fa

/-- Start an entry, or park under the VWIN and TWIN rule with the task taken (R106, R127, R139, R180). A resumption that
the pool can cover at once does not wait for the pool's order (R248). -/
def State.startOrPark (s : State) (t : Nat) (e : QEntry) (fromDeque : Bool) : State :=
  let n := s.startNeeds t e
  let fresh := s.frFlags e.frame / fFRESH % 2 = 1
  if (!fresh || n = (0, 0) || (s.poolWaits (coreOf t)).isEmpty) && s.startFits t e then
    (s.granted (coreOf t)).startTask t e
  else s.parkAt t (.pool (coreOf t)) (.start e fromDeque)

/-! ### Serving the pools (R180) -/

/-- The oldest request of a core is granted when the pools cover it. A vwin or twin issues again: its registers are read
anew, and one that asks for no more than the slot has, or that would trap, executes from its start (R245, R271). -/
def State.grantHead (s : State) (core : Nat) : Option State :=
  match s.poolWaits core with
  | [] => none
  | w :: _ =>
    let x := s.slotAt w.tid
    let woken := s.wakeSlot w
    match w.op with
    | .vwin src count cls =>
      let (c, n) := x.vwinAsks src count cls
      if !x.vwinGrows c n then some woken
      else if winBytes c n ≤ s.poolFree core + winBytes x.vcount x.vclass then
        let s1 := (woken.granted core).orderVwin w.tid
        if (s1.vwinPxh w.tid c n).isSome then some s1
        else some ((s1.setWindow w.tid c n).modSlot w.tid fun y => { y.passShadow with pc := y.pc + 4 })
      else none
    | .twin src count =>
      let c := x.twinAsks src count
      if !x.twinGrows src c then some woken
      else if c ≤ s.tasFree core + x.tcount then
        some ((((woken.granted core).drainCore core).setTiles w.tid c).modSlot w.tid fun y =>
          { y.passShadow with pc := y.pc + 4 })
      else none
    | .start e _ => if s.startFits w.tid e then some ((woken.granted core).startTask w.tid e) else none
    | _ => some woken

/-- POOL_WAKE: after a release, requests are served strictly in order while they fit (R180, R433). -/
def State.servePool (s : State) (core : Nat) : State :=
  iter (fun s => (s.grantHead core).getD s) (s.poolWaits core).length (s.modCore core fun c => { c with poolAt := s.clk })

/-! ### The steal engine (R136 to R139) -/

/-- Where an entry can be taken. -/
inductive Victim where
  | deque (t : Nat)
  | cq (k : Nat)
  | dq (d : Nat)
  | donq (q : Nat)
deriving DecidableEq, Repr

/-- Place of a cluster and of a die's queue when both are victims of one level: each die's queue stands before its
clusters (log 79). -/
def cluPlace (k : Nat) : Nat := 17 * dieOfClu k + 1 + k % 16

/-- Place of a victim in its level's rotation: a slot of the core, a core of the cluster, a cluster or die, a donation
queue (R137, R401). -/
def Victim.num (level : Nat) : Victim → Nat
  | .deque t => if level = 1 then t % 16 else if level = 3 then coreOf t % 16 else cluPlace (cluOf t)
  | .cq k => cluPlace k
  | .dq d => 17 * d
  | .donq q => q

/-- Places in a level's rotation. -/
def levelSize (level : Nat) : Nat := if level = 1 || level = 3 || level = 7 then 16 else 68

/-- An engine's own place at a level, which counts as its last victim before its first take there (R401). The donation
queues have none, and it starts with queue 0 (log 79). -/
def ownPlace (level t : Nat) : Nat :=
  if level = 1 then t % 16 else if level = 3 then coreOf t % 16 else if level = 7 then 15 else cluPlace (cluOf t)

/-- Order of the deques of one place: by slot number (log 79). -/
def Victim.sub : Victim → Nat
  | .deque t => t
  | _ => 0
def Victim.isQueue : Victim → Bool
  | .deque _ => false
  | _ => true

/-- Quadrant of a cluster, device-wide (R14). -/
def quadOf (k : Nat) : Nat := k / 4

/-- Slots with a nonempty deque. -/
def State.dequeSlots (s : State) : List Nat := (s.slots.filter fun p => !p.2.deque.isEmpty).map fun p => p.1

/-- Victims of a level for a slot (R136). -/
def State.victimsAt (s : State) (t level : Nat) : List Victim :=
  let k := cluOf t
  let d := dieOf t
  let ds := s.dequeSlots.filter fun u => u != t
  let cl (p : Nat → Bool) : List Victim :=
    ((List.range 64).filter p).map .cq ++ (ds.filter fun u => p (cluOf u)).map .deque
  if level = 1 then (ds.filter fun u => coreOf u = coreOf t).map .deque
  else if level = 2 then [.cq k]
  else if level = 3 then (ds.filter fun u => cluOf u = k && coreOf u != coreOf t).map .deque
  else if level = 4 then cl fun j => quadOf j = quadOf k && j != k
  else if level = 5 then .dq d :: cl fun j => dieOfClu j = d && quadOf j != quadOf k
  else if level = 6 then ((List.range 4).filter (· != d)).map .dq ++ cl fun j => dieOfClu j != d
  else (List.range 16).map .donq

/-- A launch ends: its ending has begun, or its root and its donated tasks have ended and no DRAIN came before (R455). That
comes before a command that would stop it; a DRAIN that has stopped its hand-out came before a later end (R116). -/
def Launch.endsFirst (l : Launch) : Bool :=
  l.ending.isSome || (l.rootEnded && l.donated = 0 && l.drain.isNone && (l.state = 2 || l.state = 3))

/-- The entry a victim offers to a cluster, the highest class first (R132, R137). A donation queue whose task would find
no room for its frame in the taker's frame store is passed over (R142, DESIGN CHOICE: log 79), and one of a launch that
ends starts no task (R455). -/
def State.offers (s : State) (k : Nat) : Victim → Option QEntry
  | .deque t => ((s.slotAt t).deque.head?).filter (s.eligible k)
  | .cq j => (pullPick ((s.cluAt j).cq.filter (s.eligible k))).head?
  | .dq d => (pullPick ((s.dieAt d).dq.filter (s.eligible k))).head?
  | .donq q =>
    match (s.donqAt q).lid, (s.donqAt q).descs with
    | some lid, x :: _ =>
      match s.launch? lid with
      | some l =>
        if l.hasClu k && l.drain.isNone && !l.endsFirst && (l.state = 2 || l.state = 3) && (s.frameRoom k l.rootSize).isSome then
          some { pc := recField x 0 8, prio := l.prio, kind := 1, counted := false, frame := 0 }
        else none
      | none => none
    | _, _ => none

/-- Distance of a place from the one past the engine's last victim at the level (R137). -/
def rotation (size last n : Nat) : Nat := (n + size - 1 - last % size) % size

/-- The better of two offers: class, queue before deque, rotation (R137). -/
def better (level last : Nat) (a b : Victim × QEntry) : Victim × QEntry :=
  if a.2.prio != b.2.prio then (if a.2.prio < b.2.prio then b else a)
  else if a.1.isQueue != b.1.isQueue then (if a.1.isQueue then a else b)
  else
    let ra := rotation (levelSize level) last (a.1.num level)
    let rb := rotation (levelSize level) last (b.1.num level)
    if rb < ra || (rb = ra && b.1.sub < a.1.sub) then b else a

/-- The choice among the eligible entries of some victims (R137). -/
def State.chooseAt (s : State) (t level : Nat) (vs : List Victim) : Option (Victim × QEntry) :=
  let os := vs.filterMap fun v => (s.offers (cluOf t) v).map fun e => (v, e)
  let last := FMap.getD (s.coreAt (coreOf t)).victims level (ownPlace level t)
  match os with
  | [] => none
  | o :: rest => some (rest.foldl (better level last) o)

/-- STEAL_TAKE: one atomic take, with the join increment and the victim's release of R392. A donated frame that has not
published holds PREC in FLAGS<23:16>, as a root's does (R121, R142, DESIGN CHOICE: log 79); its SIZE, which neither the
descriptor nor R142 gives, is the root frame size of the launch (DESIGN CHOICE: log 87). -/
def State.take (s : State) (t : Nat) (v : Victim) (e : QEntry) : State :=
  match v with
  | .deque u =>
    let s1 := s.modSlot u fun x => { x with deque := x.deque.drop 1 }
    let s2 := s1.releaseEdge (coreOf u) (s.frLid e.frame) (edgeScope (coreOf u) (coreOf t))
    let (s3, e1) := s2.joinInc e
    s3.modSlot t fun x => { x with mode := .starting e1 true }
  | .cq k =>
    let s1 := s.modClu k fun c => { c with cq := c.cq.erase e }
    (s1.relaxClu k).modSlot t fun x => { x with mode := .starting { e with moved := e.moved || cluOf t != k } false }
  | .dq d =>
    let s1 := s.modDie d fun x => { x with dq := x.dq.erase e }
    (s1.relaxDie d).modSlot t fun x => { x with mode := .starting { e with moved := true } false }
  | .donq q =>
    match (s.donqAt q).lid.bind s.launch?, (s.donqAt q).descs with
    | some l, x :: rest =>
      match s.frameRoom (cluOf t) l.rootSize with
      | none => s
      | some off =>
        let fa := frameAddr (cluOf t) off
        let s1 := s.modDonq q fun y => { y with descs := rest }
        let s2 := s1.newFrame (cluOf t) off l.rootSize (coreOf t) (recField x 0 8) 0 frIDLE l.lid l.asid
          (fDONATED + fFRESH + l.prec * 2 ^ 16)
        let s3 := s2.modFrInfo fa fun f => { f with args := (List.range 7).map fun i => recField x (8 + 8 * i) 8 }
        let s4 := (s3.modLaunch l.lid fun y => { y with donated := y.donated + 1 }).acquire t 4
        s4.modSlot t fun y => { y with mode := .starting { e with frame := fa } false }
    | _, _ => s

/-- The PRESSED queues whose domain holds a slot, probed before level 1 (R135). -/
def State.pressedVictims (s : State) (t : Nat) : List Victim :=
  let mine (dom : Nat) : Bool := bitOf dom (cluOf t)
  let cs : List Victim := ((List.range 64).filter fun k => (s.cluAt k).pressed && mine (s.cluAt k).pressDom).map Victim.cq
  let ds : List Victim := ((List.range 4).filter fun d => (s.dieAt d).pressed && mine (s.dieAt d).pressDom).map Victim.dq
  (cs ++ ds).filter fun v => (s.offers (cluOf t) v).isSome

/-- A probe reaches a victim: an empty cluster queue pulls from its die queue (R133, R134). -/
def State.reach (s : State) : Victim → State
  | .cq k => s.pull k
  | _ => s

/-- Probe the levels from one on (R136): the state after the take, if one yields an entry. -/
def State.probeFrom (s : State) (t : Nat) : Nat → Nat → State × Bool
  | 0, _ => (s, false)
  | fuel + 1, level =>
    let s1 := (s.victimsAt t level).foldl State.reach s
    match s1.chooseAt t level (s1.victimsAt t level) with
    | some (v, e) =>
      ((s1.modCore (coreOf t) fun c => { c with victims := FMap.put c.victims level (v.num level) }).take t v e, true)
    | none => s1.probeFrom t fuel (level + 1)

/-- PROBE_PASS: an idle slot probes; a fruitless pass rests, unless a notice was remembered (R136, R139). Of several PRESSED
queues it takes by class and then by rotation from the engine's own place (R135 orders none, DESIGN CHOICE: log 87). -/
def State.probePass (s : State) (t : Nat) : State :=
  if (s.slotAt t).mode != .idle || !bitOf s.usable (cluOf t) then s
  else
    match s.chooseAt t 8 (s.pressedVictims t) with
    | some (v, e) => s.take t v e
    | none =>
      match s.probeFrom t 7 1 with
      | (s1, true) => s1
      | (s1, false) =>
        s1.modSlot t fun x => { x with mode := if x.notice then .idle else .resting, notice := false, restAt := s.clk }

/-- THIEF_RESUME: the thief acquires (R392) and starts or resumes the entry it has taken (R139). -/
def State.thiefResume (s : State) (t : Nat) : State :=
  match (s.slotAt t).mode with
  | .starting e fromDeque =>
    let scope :=
      if e.kind = 1 then 3
      else if fromDeque then edgeScope (s.frInfo e.frame).holder (coreOf t)
      else if e.moved then 3 else 2
    (s.acquire t scope).startOrPark t e fromDeque
  | _ => s

end Sys2Proof.Machine
end

