-- ==== Sys2Proof/Machine/Launch.lean ====
section
/-!
DEFINITION. The journal (R112 to R116), admission (R103 to R108, R278), and the ends of launches (R115, R422, R455 to
R458).
-/
namespace Sys2Proof.Machine

/-! ### The journal -/

/-- JENTRIES (R97). -/
def jEntries : Nat := 65536
/-- Physical address of the entry of a SEQ (R112). -/
def State.jAddr (s : State) (seq : Nat) : Nat := s.jbase + 64 * (seq % jEntries)
def State.jField (s : State) (seq off n : Nat) : Nat := s.homeNat (s.jAddr seq + off) n

/-- Journal states (R112). -/
def jACCEPTED : Nat := 1
def jPLACED : Nat := 2
def jRUNNING : Nat := 3
def jDRAINED : Nat := 4
def jSAVED : Nat := 5
def jCOMPLETE : Nat := 6
def jFAULTED : Nat := 7
def jFENCED : Nat := 8

/-- JFULL: the next entry is not free (R114). -/
def State.jfull (s : State) : Bool :=
  jEntries < s.jhead && !(jCOMPLETE ≤ s.jField s.jhead 13 1 && s.jhead - jEntries < s.jrel)

/-- Write an entry whole (R113). -/
def State.jWrite (s : State) (seq : Nat) (bs : List Byte) : State := s.homeWrite (s.jAddr seq) bs

/-- Vector 16 signals a change of DSTAT.JFULL from what it was (R94). -/
def State.signalFull (s : State) (was : Bool) : State := if s.jfull = was then s else s.sendMsix 16

/-- A new entry with its TAG, in ACCEPTED (R112). Its update counts start at 1, also in a ring place that held an older
entry: no rule says from what a new entry counts (DESIGN CHOICE, log 80). -/
def State.jNew (s : State) (lid kind source asid tag : Nat) : State × Nat :=
  let seq := s.jhead
  let t := s.time
  let bs := leBytes 8 seq ++ leBytes 4 lid ++ leBytes 1 kind ++ leBytes 1 jACCEPTED ++ leBytes 1 source ++
    leBytes 1 0 ++ leBytes 2 asid ++ leBytes 2 0 ++ leBytes 4 1 ++ leBytes 8 t ++ leBytes 8 t ++ leBytes 8 tag ++
    leBytes 8 0 ++ leBytes 4 1 ++ leBytes 4 0
  let s1 := { (s.jWrite seq bs) with jhead := s.jhead + 1 }
  (s1.signalFull s.jfull, seq)

/-- A change of an entry (R113). -/
def State.jSet (s : State) (seq state reason detail : Nat) : State :=
  let upd := (s.jField seq 20 4 + 1) % 2 ^ 32
  let old := s.homeRead (s.jAddr seq) 64
  let s1 := s.jWrite seq (old.take 13 ++ leBytes 1 state ++ (old.drop 14).take 1 ++ leBytes 1 reason ++ (old.drop 16).take 4 ++
    leBytes 4 upd ++ (old.drop 24).take 8 ++ leBytes 8 s.time ++ (old.drop 40).take 8 ++ leBytes 8 detail ++
    leBytes 4 upd ++ leBytes 4 0)
  s1.signalFull s.jfull

/-- The MSI-X message of NOTIFY: the queue's vector, or 16 for a device LAUNCH (R103). -/
def State.notifyFinal (s : State) (notify : Bool) (source : Nat) : State :=
  if notify then s.sendMsix (if source < 16 then source else 16) else s

/-- A change of a launch's entry that is not final. -/
def State.jLaunch (s : State) (l : Launch) (state : Nat) : State :=
  (s.jSet l.seq state 0 0).modLaunch l.lid fun x => { x with state := state }

/-! ### What a launch holds is taken away (R102, R422, R456) -/

/-- A queue entry belongs to a launch. -/
def State.entryOf (s : State) (lid : Nat) (e : QEntry) : Bool := s.frLid e.frame = lid

/-- Queues that have fallen to their low watermarks are NORMAL again (R134). -/
def State.relaxQueues (s : State) : State :=
  (s.dies.map fun d => d.1).foldl State.relaxDie ((s.clusters.map fun k => k.1).foldl State.relaxClu s)

/-- Discard the queue entries of a launch (R422, R456). -/
def State.dropEntries (s : State) (lid : Nat) : State :=
  let s1 : State := { s with
    clusters := s.clusters.map fun k => (k.1, { k.2 with cq := k.2.cq.filter fun e => !s.entryOf lid e })
    dies := s.dies.map fun d => (d.1, { d.2 with dq := d.2.dq.filter fun e => !s.entryOf lid e })
    slots := s.slots.map fun t => (t.1, { t.2 with deque := t.2.deque.filter fun e => !s.entryOf lid e }) }
  s1.relaxQueues

/-- A slot holds a task of a launch, or one it has taken and not started. -/
def State.slotOf (s : State) (lid t : Nat) : Bool :=
  let x := s.slotAt t
  match x.mode with
  | .idle => false
  | .resting => false
  | .starting e _ => s.entryOf lid e
  | .running => x.lid = lid
  | .held => x.lid = lid
  | .parked =>
    (s.waits.find? fun w => w.tid = t).elim (x.lid = lid) fun w => match w.op with
      | .start e _ => s.entryOf lid e
      | _ => x.lid = lid

/-- Slots that hold a task of a launch. -/
def State.slotsOf (s : State) (lid : Nat) : List Nat := (s.slots.map fun p => p.1).filter (s.slotOf lid)

/-- Stop a slot's task: its windows, bindings, pending results and waits go; nothing it would still write is written. -/
def State.stopSlot (s : State) (t : Nat) : State :=
  let core := coreOf t
  let s1 := { s with waits := s.waits.filter fun w => w.tid != t }
  let s2 := s1.modCore core fun c =>
    { c with wideq := c.wideq.filter fun e => e.tid != t, streams := c.streams.filter fun e => e.2.tid != t }
  let s3 := (s2.modSlot t fun x => { x with binds := [], pend := [], later := [], accFault := none, got := none }).releaseWindows t
  ((s3.goIdle t).wakeAll fun w => match w.place with
    | .stream c e => c = core && (FMap.find (s.coreAt c).streams e).any fun st => st.tid = t
    | _ => false).serveEngines core

/-- Give back the scratch of a launch everywhere; its bytes were last held by its ASID (R278). -/
def Cluster.freeScratch (c : Cluster) (lid : Nat) : Cluster :=
  match c.scratchOf lid with
  | none => c
  | some r =>
    { c with
      scratch := c.scratch.filter fun x => x.lid != lid
      lastHeld := (List.range (r.size / 4096)).foldl
        (fun m i => FMap.put m (r.byteAt (4096 * i) / 4096) r.asid) c.lastHeld }

/-- Close a donation queue: its descriptors are discarded and its generation rises; a queue that is not open is left as
it is (R141; DESIGN CHOICE, log 79). -/
def DonQ.close (q : DonQ) : DonQ :=
  match q.lid with
  | none => q
  | some _ => { lid := none, gen := (q.gen + 1) % 2 ^ 24, descs := [] }

/-- Close a donation queue; takers parked on it execute again and find it closed (R141, R152). -/
def State.closeDonq (s : State) (q : Nat) : State := (s.modDonq q DonQ.close).wakePlace (.donation q)

/-- Donation queues, messages, queue entries, residuals, scratch and the live entry of a launch go (R456, R458). What it has
sent goes on, but no answer reaches it (R340). -/
def State.dropLaunch (s : State) (lid : Nat) : State :=
  let s1 := ((s.donqs.filter fun q => q.2.lid = some lid).map fun q => q.1).foldl State.closeDonq s
  let s2 := s1.dropEntries lid
  { s2 with
    cores := s2.cores.map fun c => (c.1, { c.2 with
      inbox := c.2.inbox.filter fun m => m.lid != lid
      residuals := c.2.residuals.filter fun r => r.req.lid != lid
      copies := c.2.copies.filter fun x => x.lid != lid
      accumulated := c.2.accumulated.filter fun x => x.1 != lid })
    clusters := s2.clusters.map fun k => (k.1, k.2.freeScratch lid)
    donOut := s2.donOut.map fun (d : Nat × Nat × Nat × List Byte) => if d.2.1 = lid then (d.1, 0, d.2.2) else d
    donIn := s2.donIn.filter fun d => d.2.2.1 != lid
    swaps := s2.swaps.map fun (x : Swap) => if x.lid = lid then { x with lid := 0 } else x
    launches := s2.launches.filter fun l => l.lid != lid }

/-- Residual entries of a launch are discarded (R375, R458). -/
def State.dropResiduals (s : State) (lid : Nat) : State :=
  { s with cores := s.cores.map fun c => (c.1, { c.2 with residuals := c.2.residuals.filter fun r => r.req.lid != lid }) }

/-- Frames of a launch. -/
def State.framesOf (s : State) (lid : Nat) : List Nat :=
  s.clusters.flatMap fun k => (k.2.frames.map fun f => frameAddr k.1 f.1).filter fun fa => s.frLid fa = lid

/-- The lowest-numbered cluster of a domain. -/
def Launch.lowClu (l : Launch) : Nat := (setBits l.domain 64).head?.getD 0

/-! ### The completion record (R115, R457) -/

/-- The 32 bytes of the record. -/
def State.recordBytes (s : State) (l : Launch) (state reason detail : Nat) : List Byte :=
  leBytes 8 l.tag ++ leBytes 4 l.lid ++ leBytes 1 state ++ leBytes 1 reason ++ leBytes 2 0 ++ leBytes 8 s.time ++
    leBytes 8 detail

/-- COMPLETION_RECORD_WRITE: a plain store of the launch's, with the copies of a peer's grain it meets on its way (R296,
R457): the record is written, or left out, or (second part `false`) waits for a page. -/
def State.writeRecord (s : State) (l : Launch) (state reason detail : Nat) : State × Bool :=
  if l.done = 0 then (s, true)
  else
    let die := dieOfClu l.lowClu
    match (s.walk die l.asid l.done).1 with
    | .page => (s, true)
    | .badTable => (s, true)
    | .poison => (s, true)
    | .transit _ => (s, false)
    | .swap pte ptePa =>
      match s.walkerSwap die 0 l.lid l.asid l.done pte ptePa with
      | some s1 => (s1, false)
      | none => (s, true)
    | .leaf pte size _ =>
      let pa := ptePA pte + l.done % 2 ^ size
      if permBad pte accWrite false || pteD pte then (s, true)
      else
        let bs := s.recordBytes l state reason detail
        if s.locFenced (locOf pa pte) then (s, true)
        else match locOf pa pte with
        | .peer d a g _ dom =>
          let x : Spot := { key := peerKey d a, ck := 2, g := g, dom := dom }
          let s1 := s.writeRemote (16 * l.lowClu) l.lid x bs
          (s1.pushRemote (s1.spotHome x) fun w => w.dev = d, true)
        | .phys pa ck _ _ dom =>
          (s.slicePut (s.homeOf dom pa) pa bs (List.replicate 32 true) (ck != 0), true)
        | .sram _ _ => (s, true)

/-- A command that acts on a launch reaches its final state (R113). -/
def State.endKept (s : State) (o : Option Command) (state reason : Nat) : State :=
  match o with
  | some c => (s.jSet c.seq state reason 0).notifyFinal c.notify c.source
  | none => s

/-- No queue waits for a launch any more (R116). -/
def State.clearHold (s : State) (lid : Nat) : State :=
  let f (q : Queue) : Queue := if q.hold = some lid then { q with hold := none } else q
  { s with queues := s.queues.map fun (p : Nat × Queue) => (p.1, f p.2) }

/-- The last steps of an end: record, journal entry, NOTIFY, and what the launch held (R115, R456). A record that waits
keeps the launch until LAUNCH_RETIRE writes it (R457). -/
def State.finishEnd (s : State) (l : Launch) (state reason detail : Nat) : State :=
  match s.writeRecord l state reason detail with
  | (s1, false) => s1.modLaunch l.lid fun x => { x with ending := some (state, reason, detail) }
  | (s1, true) =>
    let s2 := (s1.jSet l.seq state reason detail).notifyFinal l.notify l.source
    (((s2.endKept l.drain jFAULTED 0x09).endKept l.resume jFAULTED 0x09).clearHold l.lid).dropLaunch l.lid

/-- A launch ends by fault, ABORT or a fence: every task stops, queues and residuals are discarded (R102, R422). Its
frames are freed with it. -/
def State.killLaunch (s : State) (lid state reason detail : Nat) : State :=
  let s1 := (s.slotsOf lid).foldl State.stopSlot s
  let s2 := ((s1.dropEntries lid).dropResiduals lid)
  let s3 := (s2.framesOf lid).foldl State.freeFrame s2
  let s4 := { s3 with
    cores := s3.cores.map fun c => (c.1, { c.2 with copies := c.2.copies.filter fun x => x.lid != lid }) }
  let cs := ((s.slotsOf lid).map coreOf).eraseDups
  let s5 := cs.foldl State.servePool s4
  match s5.launch? lid with
  | none => s5
  | some l => s5.finishEnd l state reason detail

/-- A launch ended by fault, DETAIL the cause code and the TID (R112, R422). -/
def State.endByFault (s : State) (t cause : Nat) : State :=
  let s1 := s.killLaunch (s.slotAt t).lid jFAULTED 0x0A (cause + t * 2 ^ 16)
  -- a slot outside every launch stops as well
  if (s1.slotAt t).mode = .running then s1.stopSlot t else s1

/-- The entry of a launch that completes comes from RUNNING: one whose root ended while it drained, and which was resumed
with nothing left to issue, passes through RUNNING on its way (R113, R140; DESIGN CHOICE, log 60). -/
def State.jRunFirst (s : State) (lid : Nat) : State :=
  match s.launch? lid with
  | some l => if l.state = jPLACED then s.jLaunch l jRUNNING else s
  | none => s

/-- LAUNCH_RETIRE: a completed launch whose copies and swaps are done retires (R455 to R457); an end that waits for its
record tries again. -/
def State.retire (s : State) (lid : Nat) : State :=
  match s.launch? lid with
  | none => s
  | some l =>
    match l.ending with
    | some (st, r, d) => s.finishEnd l st r d
    | none =>
      if !(l.rootEnded && l.donated = 0 && l.drain.isNone && (l.state = jPLACED || l.state = jRUNNING)) then s
      else if s.cores.any (fun c => c.2.copies.any fun x => x.lid = lid && !x.finished) ||
          s.swaps.any (fun x => x.lid = lid && x.id != 0) then s
      else
        let s1 := (setBits l.domain 64).foldl (fun s k =>
          let s0 := (List.range 16).foldl (fun s i => (s.drainAmo (k * 16 + i)).drainStores (k * 16 + i)) s
          let s1 := s0.writeBackCluster k
          (List.range 16).foldl (fun s i => s.drainRemote (k * 16 + i)) s1) s
        (s1.jRunFirst lid).finishEnd l jCOMPLETE 0 0

/-! ### Admission (R104, R105) -/

/-- A range of a command's bytes is zero. -/
def zeroBytes (c : List Byte) (off n : Nat) : Bool := ((c.drop off).take n).all fun b => b = 0

/-- Check 2 of R104: reserved bits and bytes are zero (R102, R103). FLAGS<15:2>, PRIO<7:2> and ABORT's IMAGE, which the
tables call zero, fall under it; bits above an address of ENTRY, TVEC and DONE fall under check 6 (DESIGN CHOICE: log 87). -/
def reservedZero (c : List Byte) : Bool :=
  recField c 2 2 < 4 &&
    if recField c 0 1 = 1 then recField c 6 1 < 4 && zeroBytes c 35 1 && zeroBytes c 88 136
    else zeroBytes c 6 2 && zeroBytes c 12 4 && (recField c 0 1 != 4 || zeroBytes c 16 8) && zeroBytes c 24 48 &&
      zeroBytes c 88 136

/-- Check 6 of R104: every other field of a launch record lies in its range (R103). -/
def rangesOk (c : List Byte) : Bool :=
  let f := recField c
  recField c 0 1 != 1 ||
    (bitsOf (f 7 1) 6 4 ≤ 5 && f 16 8 < 2 ^ 56 && f 32 1 ≤ 64 && f 33 1 ≤ 15 && f 34 1 ≤ 16 &&
      4096 ≤ f 36 4 && f 36 4 ≤ 4194304 && f 36 4 % 4096 = 0 && f 42 2 + 8 ≤ f 40 2 && f 40 2 ≤ 504 &&
      f 46 2 + 8 ≤ f 44 2 && f 44 2 ≤ 8184 && 256 ≤ f 48 4 && f 48 4 ≤ 16384 && 1 ≤ f 52 4 && f 52 4 ≤ 10000 &&
      f 56 8 % 2 = 0 && f 56 8 < 2 ^ 56 && f 64 8 % 32 = 0 && f 64 8 < 2 ^ 56)

/-- The SERIAL bytes (R97). -/
def serialBytes : List Byte := leBytes 16 Config.serialNumber

/-- K of R108. -/
def launchKey (secret : List Byte) (asid : Nat) : List Byte :=
  hkdf256 secret serialBytes (ascii "launch" ++ leBytes 2 asid)

/-- The seal check of R108; a LAUNCH by a slot of the sealed ASID itself is not checked. -/
def State.sealOk (s : State) (c : List Byte) (asid : Nat) (own : Bool) : Bool :=
  match (s.asidAt asid).secret with
  | none => recField c 2 2 % 2 = 0
  | some secret =>
    own || (recField c 2 2 % 2 = 1 && (s.asidAt asid).nonce < recField c 80 8 &&
      hmac256 (launchKey secret asid) (c.take 224) = (c.drop 224).take 32)

/-- The ASID a command resolves to (R103). -/
def resolvedAsid (c : List Byte) (submitter : Nat) : Nat := if recField c 4 2 = 0 then submitter else recField c 4 2

/-- Check 8 of R104. -/
def State.targetOk (s : State) (c : List Byte) (asid : Nat) : Bool :=
  let kind := recField c 0 1
  kind = 1 || match s.launch? (recField c 8 4) with
    | none => false
    | some l => l.asid = asid &&
        (if kind = 2 then l.state = jPLACED || l.state = jRUNNING
         else kind != 3 || l.state = jDRAINED || l.state = jSAVED)

/-- The admission checks in their order; the number of the first that fails (R104). `sup`: a LAUNCH executed at
supervisor level; `own`: a LAUNCH by a slot of that ASID. -/
def State.failedCheck (s : State) (c : List Byte) (submitter : Nat) (sup slot : Bool) : Option Nat :=
  let kind := recField c 0 1
  let asid := resolvedAsid c submitter
  if !(1 ≤ kind && kind ≤ 4 && recField c 1 1 = 1) then some 1
  else if !reservedZero c then some 2
  else if !((asid = submitter || sup) && asid < 2 ^ 14 && (s.asidAt asid).live) then some 3
  else if kind = 1 && recField c 8 8 &&& s.usable = 0 then some 4
  else if kind = 1 && (recField c 16 8 = 0 || recField c 16 8 % 2 = 1) then some 5
  else if !rangesOk c then some 6
  else if !s.sealOk c asid (slot && asid = submitter) then some 7
  else if !s.targetOk c asid then some 8
  else none

/-- When the seal check passes, whatever comes after it, NONCE becomes the last accepted nonce (R108). -/
def State.acceptNonce (s : State) (c : List Byte) (asid : Nat) (own : Bool) (fail : Option Nat) : State :=
  if (fail.isNone || fail = some 8) && (s.asidAt asid).secret.isSome && !own then s.modAsid asid fun a => { a with nonce := recField c 80 8 } else s

/-- The next launch id that is free (R105). -/
def State.freeLid (s : State) : Nat → Nat → Nat
  | 0, n => n
  | k + 1, n => if n = 0 || s.launches.any (fun l => l.lid = n) then s.freeLid k ((n + 1) % 2 ^ 32) else n

/-- Give a launch its id (R105). -/
def State.takeLid (s : State) : State × Nat :=
  let n := s.freeLid (s.launches.length + 2) s.nextLid
  ({ s with nextLid := if n + 1 = 2 ^ 32 then 1 else n + 1 }, n)

/-- The region of S bytes at an offset of the concatenation of a cluster's scratch banks, for a launch (R278). -/
def Cluster.regionAt (c : Cluster) (lid asid S b : Nat) : Scratch :=
  { lid := lid, asid := asid, banks := ((c.banks 1).drop (b / 2 ^ 18)).take ((S + 2 ^ 18 - 1) / 2 ^ 18), base := b % 2 ^ 18
    size := S }

/-- Two regions share a byte; a region of more than a bank covers its banks whole. -/
def Scratch.meets (x y : Scratch) : Bool :=
  (x.banks.any fun j => y.banks.contains j) && x.base < y.base + y.size && y.base < x.base + x.size

/-- The aligned regions of S bytes in a cluster's scratch banks that no launch holds, by rising address (R278). -/
def Cluster.scratchFree (c : Cluster) (lid asid S : Nat) : List Scratch :=
  ((List.range ((c.banks 1).length * 2 ^ 18 / S)).map fun i => c.regionAt lid asid S (i * S)).filter fun x =>
    c.scratch.all fun r => !x.meets r

/-- The 4 KiB pieces of a region, by SRAM byte divided by 4096. -/
def Scratch.pages (x : Scratch) : List Nat := (List.range (x.size / 4096)).map fun i => x.byteAt (4096 * i) / 4096

/-- Every byte of a region was last held by its ASID (R278). -/
def Cluster.lastHeldBy (c : Cluster) (x : Scratch) : Bool := x.pages.all fun p => FMap.getD c.lastHeld p 0 = x.asid

/-- The region that admission chooses (R278). -/
def Cluster.scratchPick (c : Cluster) (lid asid S : Nat) : Option Scratch :=
  let free := c.scratchFree lid asid S
  match free.find? c.lastHeldBy with
  | some x => some x
  | none => free.head?

/-- Zero a region of scratch, with every word full (R278). -/
def Cluster.clearScratch (c : Cluster) (x : Scratch) : Cluster :=
  let ps := x.pages
  { c with
    sram := c.sram.filter fun e => !ps.contains (e.1 / 4096)
    empty := c.empty.filter fun e => !ps.contains (e.1 / 4096) }

/-- Place a launch's scratch in one cluster; a region of the same ASID keeps its contents (R278). -/
def Cluster.placeScratch (c : Cluster) (lid asid S : Nat) : Option Cluster :=
  (c.scratchPick lid asid S).map fun x =>
    let c1 := if c.lastHeldBy x then c else c.clearScratch x
    { c1 with scratch := c1.scratch ++ [x] }

/-- Place a launch's scratch in every cluster of its domain, or nowhere. -/
def State.placeScratch (s : State) (l : Launch) : Option State :=
  (setBits l.domain 64).foldl (fun o k => o.bind fun s =>
    ((s.cluAt k).placeScratch l.lid l.asid l.scratch).map fun c => s.setClu k c) (some s)

/-- Launches that hold a live-launch entry (R105). -/
def State.liveCount (s : State) : Nat := (s.launches.filter fun l => jPLACED ≤ l.state).length

/-- The scratch of some cluster cannot be supplied. -/
def State.scratchShort (s : State) (l : Launch) : Bool := (s.placeScratch l).isNone

/-- Give a launch its resources: scratch, live entry, root frame in the die queue; the entry goes to PLACED (R105). A
launch that has waited in ACCEPTED keeps the domain of its checks, also when a cluster of it has been fenced since (DESIGN
CHOICE, log 90). -/
def State.grant (s : State) (l : Launch) : Option State :=
  if 4096 ≤ s.liveCount then none
  else
    match s.placeScratch l, s.frameRoom l.lowClu l.rootSize with
    | some s1, some off =>
      let k := l.lowClu
      let s2 := s1.newFrame k off l.rootSize (k * 16) l.entry 0 frIDLE l.lid l.asid (fROOT + fFRESH + l.prec * 2 ^ 16)
      let fa := frameAddr k off
      let s3 := (s2.modLaunch l.lid fun x => { x with rootFrame := fa }).jLaunch l jPLACED
      some (s3.pushDie (dieOfClu k) { pc := l.entry, prio := l.prio, kind := 1, counted := false, frame := fa })
    | _, _ => none

/-- A launch as it is when its record has passed the checks. -/
def State.makeLaunch (s : State) (c : List Byte) (lid asid seq source : Nat) : Launch :=
  { lid := lid, asid := asid, record := c, domain := recField c 8 8 &&& s.usable, seq := seq, state := jACCEPTED,
    source := source, busy := s.clk }

/-- Stop hand-out for a DRAIN whose IMAGE fits (R428, R429). -/
def State.imageOk (s : State) (image n : Nat) : Bool := image % 4096 = 0 && image + n ≤ s.memBytes

/-- The starts of the sections of an image: messages, save areas, tile blocks, scratch, end. -/
structure ImagePlan where
  msgs : Nat
  saves : Nat
  tiles : Nat
  scratch : Nat
  size : Nat

/-- The plan of an image with these counts of entries, messages, saves and tile blocks (R431). -/
def imagePlan (ne nm ns nt clusters S : Nat) : ImagePlan :=
  let m := roundUp64 (512 + 16 * ne)
  let a := roundUp64 (m + 96 * nm)
  let t := roundUp64 (a + 98304 * ns)
  let c := roundUp64 (t + 17472 * nt)
  { msgs := m, saves := a, tiles := t, scratch := c, size := c + clusters * roundUp64 (S + S / 64) }

/-- Queue entries of a launch, from the deques up to the die queues, each from head to tail (R431). -/
def State.entriesOf (s : State) (lid : Nat) : List QEntry :=
  let mine (q : List QEntry) : List QEntry := q.filter (s.entryOf lid)
  s.slots.flatMap (fun t => mine t.2.deque) ++ s.clusters.flatMap (fun k => mine k.2.cq) ++
    s.dies.flatMap fun d => mine d.2.dq

/-- Frames of a launch whose named tiles lie in a TAS. -/
def State.tileFrames (s : State) (lid : Nat) : List Nat := (s.framesOf lid).filter fun fa => !(s.frInfo fa).tiles.isEmpty

/-- Messages of a launch in inboxes and held for resumed frames, and those of its running copies and swaps. -/
def State.messagesOf (s : State) (l : Launch) : Nat :=
  l.messages.length + (s.swaps.filter fun x => x.lid = l.lid).length +
    s.cores.foldl (fun a c => a + (c.2.inbox.filter fun m => m.lid = l.lid).length +
      (c.2.copies.filter fun x => x.lid = l.lid && !x.finished).length) 0

/-- The size of the largest image that a drain which starts now can write: every slot of the launch may be saved, or push
two entries at its boundary and leave a frame with named tiles (R140, R429, R431; DESIGN CHOICE, log 87). -/
def State.imageBytes (s : State) (l : Launch) : Nat :=
  let n := (s.slotsOf l.lid).length
  (imagePlan ((s.entriesOf l.lid).length + 2 * n) (s.messagesOf l) n ((s.tileFrames l.lid).length + n)
    (setBits l.domain 64).length l.scratch).size

/-- A command entry reaches its final state (R113). -/
def State.endCommand (s : State) (c : List Byte) (seq source state reason : Nat) : State :=
  (s.jSet seq state reason 0).notifyFinal (bitOf (recField c 2 2) 1) source

/-- The command as it is kept while it acts. -/
def makeCommand (c : List Byte) (seq source limit : Nat) : Command :=
  { image := recField c 16 8, seq := seq, notify := bitOf (recField c 2 2) 1, source := source, limit := limit }

/-- DRAIN stops task hand-out, and its engines' event latches are set (R429). One that meets a launch which another DRAIN
has stopped comes too late (DESIGN CHOICE, log 50). -/
def State.beginDrain (s : State) (c : List Byte) (seq source : Nat) : State :=
  match s.launch? (recField c 8 4) with
  | none => s.endCommand c seq source jFAULTED 0x09
  | some l =>
    if !s.imageOk (recField c 16 8) (s.imageBytes l) then s.endCommand c seq source jFAULTED 0x06
    else if l.endsFirst || l.drain.isSome then s.endCommand c seq source jFAULTED 0x09
    else
      let s1 := s.modLaunch l.lid fun x => { x with
        drain := some (makeCommand c seq source (s.clk + 700 * min l.drainLimit s.drnl)), saved := [], savedEntries := [] }
      (s1.slotsOf l.lid).foldl (fun s t => s.modSlot t fun x => { x with latch := true }) s1

/-- RESUME: the header must match; the resume then waits for scratch, which RESUME_RELOAD takes (R432). One that meets a
launch which another RESUME waits for comes too late (DESIGN CHOICE, log 50). -/
def State.beginResume (s : State) (c : List Byte) (seq source : Nat) : State :=
  let image := recField c 16 8
  match s.launch? (recField c 8 4) with
  | none => s.endCommand c seq source jFAULTED 0x09
  | some l =>
    if image != l.image || s.homeNat image 4 != 0x474D494C || s.homeNat (image + 8) 4 != l.lid ||
        s.homeNat (image + 12) 2 != l.asid then
      s.endCommand c seq source jFAULTED 0x06
    else if l.resume.isSome then s.endCommand c seq source jFAULTED 0x09
    else
      let s1 := s.modLaunch l.lid fun x => { x with resume := some (makeCommand c seq source 0) }
      if source < 16 then s1.modQueue source fun q => { q with hold := some l.lid } else s1

/-- ABORT ends its target as FENCED (R102, R116). -/
def State.doAbort (s : State) (c : List Byte) (seq source : Nat) : State :=
  match s.launch? (recField c 8 4) with
  | none => s.endCommand c seq source jFAULTED 0x09
  | some l =>
    if l.endsFirst then s.endCommand c seq source jFAULTED 0x09
    else
      let s1 := s.clearHold l.lid
      (s1.killLaunch l.lid jFENCED 0x0C 0).endCommand c seq source jCOMPLETE 0

/-- A DRAIN, RESUME or ABORT command that has passed its checks and has its entry. -/
def State.runCommand (s : State) (c : List Byte) (seq source : Nat) : State :=
  let kind := recField c 0 1
  if kind = 2 then s.beginDrain c seq source
  else if kind = 3 then s.beginResume c seq source
  else s.doAbort c seq source

/-- A command consumed from a host queue: checks, journal entry, and its effect (R100, R104, R112). The LID of an entry
whose KIND is none of R102 is written as 0: no rule gives one (DESIGN CHOICE, log 80). -/
def State.consume (s : State) (q : Nat) (c : List Byte) : State :=
  let x := s.queueAt q
  let kind := recField c 0 1
  let asid := resolvedAsid c x.asid
  let tag := recField c 72 8
  let fail := s.failedCheck c x.asid false false
  let target := if 2 ≤ kind && kind ≤ 4 then recField c 8 4 else 0
  let s0 := { s with lastQueue := q }.acceptNonce c asid false fail
  let step (s : State) : State := s.modQueue q fun y => { y with ci := (y.ci + 1) % 2 ^ 32 }
  match fail with
  | some n =>
    let (s1, seq) := s0.jNew target kind q asid tag
    (step s1).endCommand c seq q jFAULTED n
  | none =>
    if kind = 1 then
      let (s2, lid) := s0.takeLid
      let (s3, seq) := s2.jNew lid kind q asid tag
      let l := s3.makeLaunch c lid asid seq q
      let s4 := step { s3 with launches := s3.launches ++ [l] }
      match s4.grant l with
      | some s5 => s5
      | none => s4.modQueue q fun y => { y with hold := some lid }
    else
      let (s2, seq) := s0.jNew target kind q asid tag
      (step s2).runCommand c seq q

/-- Physical address of a queue's head command (R100). -/
def Queue.headAddr (q : Queue) : Nat := q.base.toNat + 256 * (q.ci % 2 ^ q.log2)

/-- The ring of a queue can be read. -/
def State.ringOk (s : State) (q : Queue) : Bool :=
  q.headAddr + 256 ≤ s.memBytes && !s.homePoisoned q.headAddr 256 0

/-- A queue has a command that the device may take now (R100, R101, R114). -/
def State.queueReady (s : State) (q : Nat) : Bool :=
  let x := s.queueAt q
  s.dstate = 2 && x.en && x.asid != 0 && x.hold.isNone && !x.addrErr && x.ci != x.pi && !s.jfull

/-- Consume the head command of a queue when its kind is one that a step serves. -/
def State.consumeIf (s : State) (q : Nat) (p : Nat → Bool) : State :=
  let x := s.queueAt q
  if !s.queueReady q || !s.ringOk x then s
  else
    let c := s.homeRead x.headAddr 256
    if p (recField c 0 1) then s.consume q c else s

end Sys2Proof.Machine
end

