-- ==== Sys2Proof/Machine/Sprs.lean ====
section
/-!
DEFINITION. The special registers: what a read gives and what a write stores or refuses (R185 to R187, R212 to R215,
and the field maps of the chapters they point to).
-/
namespace Sys2Proof.Machine

/-! ### Queue status (R153) -/

/-- Bits c of the classes present in a queue. -/
def classBits (q : List QEntry) : Nat :=
  b2n (q.any fun e => e.prio = 0) + 2 * b2n (q.any fun e => e.prio = 1) + 4 * b2n (q.any fun e => e.prio = 2) +
    8 * b2n (q.any fun e => e.prio = 3)

/-- The fields of a queue status side by side. -/
def packStatus (count : Nat) (pressed draining parked : Bool) (classes high low : Nat) : Word :=
  BitVec.ofNat 64 (min count 65535 + b2n pressed * 2 ^ 16 + b2n draining * 2 ^ 17 + b2n parked * 2 ^ 18 +
    classes * 2 ^ 24 + high % 65536 * 2 ^ 32 + low % 65536 * 2 ^ 48)

/-- Status of the queue that a selector names, for a slot (R153). -/
def State.queueStatus (s : State) (t : Nat) (sel : Nat) : Word :=
  let x := s.slotAt t
  let dr := s.draining x.lid
  let l := s.launch? x.lid
  if sel % 16 = 0 then packStatus x.deque.length false dr false (classBits x.deque) 64 0
  else if sel % 16 = 1 then
    let k := s.cluAt (cluOf t)
    packStatus k.cq.length k.pressed dr (s.waits.any fun w => w.place = .pressed (cluOf t)) (classBits k.cq)
      (l.elim 0 Launch.cqhigh) (l.elim 0 Launch.cqlow)
  else if sel % 16 = 2 then
    let d := s.dieAt (dieOf t)
    packStatus d.dq.length d.pressed dr (!d.refused.isEmpty) (classBits d.dq) (l.elim 0 Launch.dqhigh) (l.elim 0 Launch.dqlow)
  else if sel % 16 = 3 then
    let n := bitsOf sel 11 8
    let q := s.donqAt n
    let cls := if q.descs.isEmpty then 0 else 2 ^ (((q.lid.bind s.launch?).elim 0 Launch.prio) % 4)
    packStatus q.descs.length false dr (s.waits.any fun w => w.place = .donation n) cls 4096 0
  else 0xFFFFFFFFFFFFFFFF

/-! ### Snapshots -/

/-- Messages of a core's inbox for a slot and its launch (R340). -/
def State.myMsgs (s : State) (t : Nat) : List Msg :=
  (s.coreAt (coreOf t)).inbox.filter fun m => m.tid = t && m.lid = (s.slotAt t).lid

/-- IBXS (R341). -/
def State.ibxs (s : State) (t : Nat) : Word :=
  let c := s.coreAt (coreOf t)
  BitVec.ofNat 64 ((s.myMsgs t).length + c.inbox.length * 2 ^ 16 +
    (c.copies.filter fun x => x.tid = t && !x.finished).length * 2 ^ 32)

/-- RDS (R374). -/
def State.rds (s : State) (t : Nat) : Word :=
  let c := s.coreAt (coreOf t)
  let lid := (s.slotAt t).lid
  let mine := c.residuals.filter fun x => x.req.lid = lid
  let age := mine.foldl (fun a x => max a (s.clk - x.born)) 0
  BitVec.ofNat 64 (mine.length + min age 0xFFFF * 2 ^ 8 + b2n (s.slotAt t).accFault.isSome * 2 ^ 24 +
    min (FMap.getD c.refused lid 0) 0xFFFF * 2 ^ 32)

/-- HSEL as it reads (R289). -/
def State.hsel (s : State) : Word := BitVec.ofNat 64 (s.hselVar + s.mdieMask * 2 ^ 16)

/-- PTBR as it reads (R157). -/
def State.ptbr (s : State) (t : Nat) : Word := (s.asidAt (s.slotAt t).asid).ptbr

/-! ### Reads -/

/-- The deferred-fault record that an access at a level reaches (R421). -/
def Slot.defAt (x : Slot) (sup : Bool) : Deferred := if sup then x.sdef else x.udef

/-- read(id) of R213 for the registers of slot t, by an access at a level. -/
def State.readSpr (s : State) (t : Nat) (sup : Bool) (id : Nat) : Word :=
  let x := s.slotAt t
  if id = 0x000 then BitVec.ofNat 64 (x.prc.toNat + 256 * x.vclass)
  else if id = 0x001 then x.flg.setWidth 64
  else if id = 0x002 then BitVec.ofNat 64 x.frp
  else if id = 0x003 then BitVec.ofNat 64 t
  else if id = 0x004 then BitVec.ofNat 64 x.lid
  else if id = 0x005 then BitVec.ofNat 64 x.asid
  else if id = 0x006 then BitVec.ofNat 64 s.time
  else if id = 0x007 then BitVec.ofNat 64 s.clk
  else if id = 0x008 then x.dln
  else if id = 0x009 then x.tau.setWidth 64
  else if id = 0x00A then x.rgv.setWidth 64
  else if id = 0x00B then x.slv
  else if id = 0x010 then x.tvec
  else if id = 0x011 then x.tpc
  else if id = 0x012 then x.tcau
  else if id = 0x013 then x.tval
  else if id = 0x014 then (x.defAt sup).dfp
  else if id = 0x015 then (x.defAt sup).dfv
  else if id = 0x016 then (x.defAt sup).dfi
  else if id = 0x018 then s.ibxs t
  else if id = 0x019 then s.queueStatus t 0
  else if id = 0x01A then s.rds t
  else if id = 0x01B then BitVec.ofNat 64 x.rage
  else if id = 0x100 then s.stvec
  else if id = 0x101 then x.sepc
  else if id = 0x102 then x.scau
  else if id = 0x103 then x.sval
  else if id = 0x104 then s.ptbr t
  else if id = 0x105 then s.hsel
  else if id < 0x10A then BitVec.ofNat 64 (s.domAt (id - 0x106))
  else if id = 0x10A then BitVec.ofNat 64 s.hqota
  else if id = 0x10B then BitVec.ofNat 64 s.drnl
  else if id = 0x10C then BitVec.ofNat 64 (s.coreAt (coreOf t)).cslp
  else if id = 0x10D then BitVec.ofNat 64 s.lease
  else (s.cluAt (cluOf t)).bankcfg

/-! ### BANKCFG (R275, R276) -/

/-- Mode of bank j under a value of BANKCFG. -/
def cfgMode (v : Word) (j : Nat) : Nat := bitsOf v.toNat (2 * j + 1) (2 * j)

/-- Banks that the scratch of a live launch touches. -/
def Cluster.scratchBanks (c : Cluster) : List Nat := c.scratch.flatMap fun r => r.banks

/-- Banks that hold a live frame or a queue entry (R277, log 10). -/
def State.frameBanks (s : State) (k : Nat) : List Nat :=
  let c := s.cluAt k
  let qs := !c.cq.isEmpty || (k % 16 = 0 && !(s.dieAt (dieOfClu k)).dq.isEmpty)
  (c.frames.map fun f => f.1 / 2 ^ 18) ++ if qs then (c.banks 2).getLast?.toList else []

/-- The write is refused (R276). -/
def State.bankcfgBad (s : State) (k : Nat) (v : Word) : Bool :=
  (List.range 32).any (fun j => cfgMode v j = 3) || (List.range 32).all (fun j => cfgMode v j != 2) ||
    (s.cluAt k).scratchBanks.any (fun j => cfgMode v j != 1) || (s.frameBanks k).any fun j => cfgMode v j != 2

/-- Write BANKCFG and convert the banks whose mode changes: the lines of a cache bank that leaves are written back and
dropped from the cluster cache, the L1s keep theirs (R276). -/
def State.setBankcfg (s : State) (k : Nat) (v : Word) : State :=
  let c0 := s.cluAt k
  let lost (j : Nat) : Bool := c0.bankMode j = 0 && cfgMode v j != 0
  let s1 := (keysWhere c0.grains fun _ x => lost x.bank).foldl (fun s b => s.cluOut (k * 16) k b) s
  let zeroed := (List.range 32).filter fun j => cfgMode v j != 0 && c0.bankMode j != cfgMode v j
  s1.modClu k fun c => { c with
    bankcfg := v
    sram := c.sram.filter fun e => !zeroed.contains (e.1 / 2 ^ 18)
    empty := c.empty.filter fun e => !zeroed.contains (e.1 / 2 ^ 18)
    lastHeld := c.lastHeld.filter fun e => cfgMode v (e.1 / 64) = 1 && !zeroed.contains (e.1 / 64) }

/-! ### Writes (R214) -/

/-- Masks of the bits that a write stores. -/
def slvMask : Word := 0x13F3F
def dfiMask : Word := 0xFFFFFFFF00007FFF

/-- Active M-dies that a value of HSEL.VAR stands for (R289). -/
def hselCount (v : Nat) : Nat := [16, 15, 14, 12, 8].getD v 0

/-- A value of DOMn is refused (R290). -/
def State.domBad (s : State) (v : Nat) : Bool :=
  bitOf v 16 && (v % 65536 = 0 || (v % 65536) &&& s.mdieMask != v % 65536)

/-- Where a write lease is registered when DOMn has a value: the home then of the grain that its cluster holds, if DOMn is
its domain. -/
def State.leaseHome (s : State) (n dom : Nat) (l : Lease) : Option Nat :=
  let held := FMap.find (s.cluAt l.cl).grains l.pa :: (List.range 16).map fun i => FMap.find (s.coreAt (l.cl * 16 + i)).l1 l.pa
  if !l.read && held.any (fun g => g.any fun x => x.dom = n) then some (s.homeUnder dom l.pa) else none

/-- Slice h lets go of what moves to another home: merged accumulates are applied, dirty lines are written to HBM, and
its lines and its cached lines of peers are dropped, writes to peers first (R292). -/
def State.sliceMoves (s : State) (h n : Nat) (moves : Nat → Bool) : State :=
  let s1 := (s.applyWhere h fun r => r.dom = n && moves r.pa).pushRemote h fun w => moves w.pa
  let gone := ((s1.homeAt h).cache.filter fun l => moves l.1).map fun l => l.1
  (gone.foldl (fun s b => s.lineDrop h b) s1).modHome h fun x =>
    { x with
      remote := x.remote.filter fun l => !moves (keyPa l.1)
      leases := x.leases.filter fun l => !(l.read && moves (keyPa l.pa)) }

/-- A write of DOMn: the old homes let go of the granules that move, and the new homes keep their leases (R292). -/
def State.setDom (s : State) (n v : Nat) : State :=
  let old := s.domAt n
  let s1 := (List.range 16).foldl (fun s h =>
    s.sliceMoves h n fun pa => s.homeUnder old pa = h && s.homeUnder v pa != h) s
  let out := s1.homes.flatMap fun h => h.2.leases.filterMap fun l =>
    (s1.leaseHome n v l).bind fun k => if k = h.1 then none else some (k, l)
  let stays (k : Nat) (l : Lease) : Bool := !(out.any fun m => m.2 = l && m.1 != k)
  let s2 := { s1 with homes := s1.homes.map fun (h : Nat × Home) =>
    (h.1, { h.2 with leases := h.2.leases.filter (stays h.1) }) }
  let s3 := out.foldl (fun s m => s.modHome m.1 fun x => { x with leases := x.leases ++ [m.2] }) s2
  { s3 with doms := FMap.put s3.doms n v }

/-- What a write of PTBR stores (R157). -/
def ptbrStored (v : Nat) : Nat :=
  let n := bitsOf v 4 0
  n + v % 2 ^ 52 / 2 ^ 12 * 2 ^ 12

def Slot.setDef (x : Slot) (sup : Bool) (f : Deferred → Deferred) : Slot :=
  if sup then { x with sdef := f x.sdef } else { x with udef := f x.udef }

/-- check(id, v) and write(id, v) of R213 for the registers of slot t; `none` when the check fails (R214, R419). -/
def State.writeSpr (s : State) (t : Nat) (sup : Bool) (id : Nat) (v : Word) : Option State :=
  let n := v.toNat
  let put (f : Slot → Slot) : Option State := some (s.modSlot t f)
  if id = 0x000 then
    if 6 ≤ bitsOf n 6 4 then none else put fun x => { x with prc := v.setWidth 8 }
  else if id = 0x001 then put fun x => { x with flg := v.setWidth 8 }
  else if id < 0x008 then some s
  else if id = 0x008 then put fun x => { x with dln := v }
  else if id = 0x009 then put fun x => { x with tau := v.setWidth 32 }
  else if id = 0x00A then put fun x => { x with rgv := v.setWidth 32 }
  else if id = 0x00B then put fun x => { x with slv := v &&& slvMask }
  else if id = 0x010 then if n % 2 = 1 then none else put fun x => { x with tvec := v }
  else if id = 0x011 then if n % 2 = 1 then none else put fun x => { x with tpc := v }
  else if id = 0x012 then put fun x => { x with tcau := v &&& 0xFFF }
  else if id = 0x013 then put fun x => { x with tval := v }
  else if id = 0x014 then put fun x => x.setDef sup fun d => { d with dfp := v }
  else if id = 0x015 then put fun x => x.setDef sup fun d => { d with dfv := v }
  else if id = 0x016 then put fun x => x.setDef sup fun d => { d with dfi := v &&& dfiMask }
  else if id < 0x01B then some s
  else if id = 0x01B then
    if n % 2 ^ 15 < 256 || 16384 < n % 2 ^ 15 then none else put fun x => { x with rage := n % 2 ^ 15 }
  else if id = 0x100 then if n % 2 = 1 then none else some { s with stvec := v }
  else if id = 0x101 then if n % 2 = 1 then none else put fun x => { x with sepc := v }
  else if id = 0x102 then put fun x => { x with scau := v &&& 0xFFFF }
  else if id = 0x103 then put fun x => { x with sval := v }
  else if id = 0x104 then
    if bitsOf n 4 0 < 9 || 20 < bitsOf n 4 0 then none
    else some (s.modAsid (s.slotAt t).asid fun a => { a with ptbr := BitVec.ofNat 64 (ptbrStored n) })
  else if id = 0x105 then
    if hselCount (bitsOf n 2 0) != popcount s.mdieMask 16 then none else some { s with hselVar := bitsOf n 2 0 }
  else if id < 0x10A then
    if s.domBad n then none else some (s.setDom (id - 0x106) (n % 2 ^ 17))
  else if id = 0x10A then
    if n % 128 < 1 || 64 < n % 128 then none else some { s with hqota := n % 128 }
  else if id = 0x10B then
    if n % 2 ^ 14 < 1 || 10000 < n % 2 ^ 14 then none else some { s with drnl := n % 2 ^ 14 }
  else if id = 0x10C then some (s.modCore (coreOf t) fun c => { c with cslp := n % 4 })
  else if id = 0x10D then
    if n % 2048 < 8 || 1024 < n % 2048 then none else some { s with lease := n % 2048 }
  else if s.bankcfgBad (cluOf t) v then none else some (s.setBankcfg (cluOf t) v)

end Sys2Proof.Machine
end

