-- ==== Sys2Proof/Machine/Bank.lean ====
section
/-!
DEFINITION. Full/empty words (R280, R281, R310, R311) and barrier objects (R395, R396): every operation is one step at
the bank of the cluster SRAM.
-/
namespace Sys2Proof.Machine

/-! ### Full/empty words -/

/-- SRAM byte of a scratch address of a slot (R278). -/
def State.scratchOff (s : State) (t va : Nat) : Nat := (s.cluAt (cluOf t)).scratchAt (s.slotAt t).lid (va % 2 ^ 48)

/-- The word at an SRAM offset is full (R280). -/
def Cluster.full (c : Cluster) (off : Nat) : Bool := (FMap.find c.empty (off / 8 * 8)).isNone

/-- Set the F/E bit of a word. -/
def State.setFull (s : State) (k off : Nat) (full : Bool) : State :=
  s.modClu k fun c => { c with empty := if full then FMap.del c.empty (off / 8 * 8) else FMap.put c.empty (off / 8 * 8) true }

def State.wordAt (s : State) (k off : Nat) : Nat := Memory.readNat (s.cluAt k).sram off 8
def State.putWord (s : State) (k off : Nat) (v : Nat) : State :=
  s.modClu k fun c => { c with sram := Memory.writeNat c.sram off 8 v }

/-- PEND and VALID of the record that a pending access of a slot's own level came from are cleared (R426). -/
def Slot.clearPend (x : Slot) : Slot :=
  if bitOf (x.defAt x.sup).dfi.toNat 14 then
    x.setDef x.sup fun d => { d with dfi := d.dfi &&& 0xFFFFFFFFFFFF9FFF }
  else x

/-- Take the first full/empty load whose shadow has ended out of a slot. -/
def dropFull : List Pend → List Pend
  | [] => []
  | p :: ps =>
    match p.out with
    | .full _ => if p.left = 0 then ps else p :: dropFull ps
    | _ => p :: dropFull ps

/-- The first full/empty load that is still to read gets its data. -/
def fillFull (v : Word) : List Pend → List Pend
  | [] => []
  | p :: ps =>
    match p.out with
    | .full _ => { p with out := .value v } :: ps
    | _ => p :: fillFull v ps

/-- A slot waits for a full/empty load at the end of its shadow, and not for its read alone (R193, R391). -/
def Slot.fullEnded (x : Slot) : Bool :=
  x.pend.any fun p => p.left = 0 && match p.out with | .full _ => true | _ => false

/-- A parked slot goes on after its instruction. -/
def State.wakeDone (s : State) (w : Wait) : State := (s.wakeSlot w).modSlot w.tid fun x => { x.passShadow with pc := x.pc + 4 }

/-- A served lde or ldx: the data reaches its register, and the slot runs again (R281, R310, R311). In the middle of its
shadow it has been read for a fence or a release, and its result stays pending (R389, R391). -/
def State.serveLoad (s : State) (w : Wait) (d v : Nat) : State :=
  ((s.acquireAs (coreOf w.tid) 2).wakeSlot w).modSlot w.tid fun x =>
    if x.fullEnded then ({ x with pend := dropFull x.pend }.clearPend).setReg d (BitVec.ofNat 64 v)
    else { x with pend := fillFull (BitVec.ofNat 64 v) x.pend }

/-- A waiter that writes its word releases first; one that an accumulate fault awaits then runs again, to take it, and
leaves the word as it is (R311, R357). -/
def State.serveRelease (s : State) (w : Wait) (f : State → State) : State × Bool :=
  let s1 := s.release w.tid 2
  (if (s1.slotAt w.tid).accFault.isSome then s1.wakeSlot w else f s1, true)

/-- Serve one waiter of a word if its condition holds (R281). -/
def State.serveWaiter (s : State) (k off : Nat) (w : Wait) : State × Bool :=
  match w.op with
  | .lde d => if (s.cluAt k).full off then (s.serveLoad w d (s.wordAt k off), true) else (s, false)
  | .ldx d =>
    if (s.cluAt k).full off then
      s.serveRelease w fun s1 => (s1.serveLoad w d (s1.wordAt k off)).setFull k off false
    else (s, false)
  | .stf v =>
    if (s.cluAt k).full off then (s, false)
    else s.serveRelease w fun s1 => ((s1.putWord k off v.toNat).setFull k off true).wakeDone w
  | _ => (s, false)

/-- One pass over the waiters of a word, in order of arrival. -/
def State.servePass (s : State) (k off : Nat) : List Wait → State × Bool
  | [] => (s, false)
  | w :: ws =>
    let (s1, b1) := s.serveWaiter k off w
    let (s2, b2) := s1.servePass k off ws
    (s2, b1 || b2)

/-- Passes over the waiter list of a word until none makes progress (R281); every pass but the last serves a waiter. -/
def State.serveWord (s : State) (k off : Nat) : Nat → State
  | 0 => s
  | n + 1 =>
    match s.servePass k off (s.waits.filter fun w => w.place = .word k off) with
    | (s1, true) => s1.serveWord k off n
    | (s1, false) => s1

/-- After a step on a word: the list is served. -/
def State.servedWord (s : State) (k off : Nat) : State := s.serveWord k off (s.waits.length + 1)

/-- lde (`take` false) or ldx (`take` true): the data if the word is full (R309), an acquire, and for ldx a release, of
cluster scope (R311). -/
def State.feLoad (s : State) (t off : Nat) (take : Bool) : Option (Nat × State) :=
  let k := cluOf t
  let s1 := (s.servePlace (coreOf t) (.sram k off)).drainOver (coreOf t) (.sram k off) 8
  if (s1.cluAt k).full off then
    let s2 := (if take then s1.release t 2 else s1).acquireAs (coreOf t) 2
    some (s2.wordAt k off, if take then (s2.setFull k off false).servedWord k off else s2)
  else none

/-- stf and sto: the word is written and becomes full (R309), a release of cluster scope (R311). -/
def State.feStore (s : State) (t off : Nat) (v : Nat) : State :=
  let s1 := s.release t 2
  (((s1.putWord (cluOf t) off v).setFull (cluOf t) off true)).servedWord (cluOf t) off

/-! ### Barrier objects (R395, R396) -/

/-- Fields of word 0. -/
def barPhase (w : Nat) : Nat := bitsOf w 11 0
def barPending (w : Nat) : Nat := bitsOf w 31 12
def barExpected (w : Nat) : Nat := bitsOf w 51 32
def barWord (phase pending expected : Nat) : Nat :=
  phase % 2 ^ 12 + pending % 2 ^ 20 * 2 ^ 12 + expected % 2 ^ 20 * 2 ^ 32

/-- A step of a barrier instruction writes the reserved bits of word 0 zero (R395). -/
def State.barClean (s : State) (k off : Nat) : State :=
  let w := s.wordAt k off
  if w < 2 ^ 52 then s else s.putWord k off (barWord (barPhase w) (barPending w) (barExpected w))

/-- The test of R396: an object whose arrivals and bytes are complete opens its next phase and wakes its waiters, which acquire at cluster scope (R397). -/
def State.barTest (s : State) (k off : Nat) : State :=
  let w := s.wordAt k off
  if barPending w = 0 && s.wordAt k (off + 8) = 0 then
    let s1 := s.putWord k off (barWord (barPhase w + 1) (barExpected w) (barExpected w))
    (s1.waits.filter fun v => v.place = .barrier k off).foldl (fun s w => (s.acquireAs (coreOf w.tid) 2).wakeDone w) s1
  else s

/-- Subtract arrived bytes from word 1 of an object (R335), or add announced ones (R397 bar.exp). -/
def State.barBytes (s : State) (k off : Nat) (delta : Int) : State :=
  let b := s.wordAt k (off + 8)
  let n := (((b : Int) + delta) % 2 ^ 64).toNat
  let w := s.wordAt k off
  let s1 := s.putWord k off (barWord (barPhase w) (barPending w) (barExpected w))
  if n = b then s1 else (s1.putWord k (off + 8) n).barTest k off

end Sys2Proof.Machine
end

