-- ==== Sys2Proof/Machine/Ops.lean ====
section
/-!
DEFINITION. The operations that instructions share: the register aperture (R189 to R191), scalar accesses, pending
results and the end of shadows (R192 to R194, R73), taking a trap and returning from one (R416 to R426).
-/
namespace Sys2Proof.Machine

/-- The bits of an instruction, its first halfword lowest (R69). -/
def halvesNum : List (BitVec 16) → Nat
  | [] => 0
  | h :: hs => h.toNat + 65536 * halvesNum hs

def instrBits (i : Instr) : Nat := halvesNum (encode i)

/-! ### The register aperture (R189 to R191) -/

/-- Where an aperture offset lies. -/
inductive ApPart where
  | scalar (i : Nat)
  | spr (id : Nat)
  | mask (i : Nat)
  | tag (t : Nat)
  | side (t : Nat)
  | vec (i : Nat)
  | tile (t : Nat)
  | none
deriving DecidableEq, Repr

/-- Special registers with a user id that R185 defines. -/
def userSpr (id : Nat) : Bool := srDefined id && id < 0x100

/-- The register at an offset (R189). -/
def apPart (off : Nat) : ApPart :=
  if off < 0x100 then .scalar (off / 8)
  else if 0x1000 ≤ off && off < 0x10E0 then
    (if userSpr ((off - 0x1000) / 8) then .spr ((off - 0x1000) / 8) else .none)
  else if 0x2000 ≤ off && off < 0x2040 then .mask ((off - 0x2000) / 8)
  else if 0x2800 ≤ off && off < 0x2880 then .tag ((off - 0x2800) / 8)
  else if 0x3000 ≤ off && off < 0x4000 then .side ((off - 0x3000) / 256)
  else if 0x4000 ≤ off && off < 0xC000 then .vec ((off - 0x4000) / 512)
  else if 0x10000 ≤ off && off < 0x20000 then .tile ((off - 0x10000) / 4096)
  else .none

/-- The lanes that an aperture load of a vector register sees: a bound read stream shows its head vector (R190). -/
def State.apVec (s : State) (u i : Nat) : FMap Lane :=
  match s.boundStream u i with
  | some (_, st) =>
    if st.rcd.dir = 0 then (st.buf.head?.map ((s.slotAt u).popVec st.rcd.fmt)).getD [] else (s.slotAt u).vreg i
  | none => (s.slotAt u).vreg i

/-- The byte of slot u's register at an aperture offset, for an access at a level. -/
def State.apByte (s : State) (u : Nat) (sup : Bool) (off : Nat) : Byte :=
  let x := s.slotAt u
  let byteOf (w : Word) : Byte := BitVec.ofNat 8 (w.toNat / 256 ^ (off % 8))
  match apPart off with
  | .scalar i => byteOf (x.reg i)
  | .spr id => byteOf (s.readSpr u sup id)
  | .mask i => byteOf ((x.mask i).setWidth 64)
  | .tag t => if t < x.tcount then byteOf (BitVec.ofNat 64 (s.tile u t).tag) else 0
  | .side t => if t < x.tcount then Memory.read (s.tile u t).side (off % 256) else 0
  | .vec i =>
    if i < x.vcount then (imageOfVec x.vclass (s.apVec u i)).getD (off % 512) 0 else 0
  | .tile t => if t < x.tcount then Memory.read (s.tile u t).data (off % 4096) else 0
  | .none => 0

/-- Whether a slot may reach a sibling's registers now (R191): 0 it may, 1 the sibling is idle, 2 PROT. A halted sibling
without a task counts as halted (DESIGN CHOICE, log 87). -/
def State.apState (s : State) (t u : Nat) : Nat :=
  let x := s.slotAt u
  if u = t || x.halted then 0
  else match x.mode with
    | .idle => 1
    | .resting => 1
    | .starting _ _ => 1
    | .parked => 0
    | .running => 2
    | .held => 2

/-- The access of the aperture is refused: its size, its alignment, or a running sibling (R189, R191). -/
def State.apBad (s : State) (t va n : Nat) : Bool :=
  va % n != 0 || s.apState t (coreOf t * 16 + bitsOf va 20 17) = 2

/-- n bytes of slot u's registers, after the wide instructions that write them (R190, R191). -/
def State.apRead (s : State) (u : Nat) (sup : Bool) (off n : Nat) : List Byte × State :=
  let s1 := match apPart off with
    | .scalar _ => s
    | .none => s
    | .spr id => if id < 2 then s.drainWide u else s
    | _ => s.drainWide u
  ((List.range n).map fun i => s1.apByte u sup (off + i), s1)

/-- An aperture load of n bytes (R190, R191). -/
def State.apLoad (s : State) (t va n : Nat) : Run (List Byte) :=
  let u := coreOf t * 16 + bitsOf va 20 17
  if s.apBad t va n then trapAt cPROT accRead va s
  else if s.apState t u = 1 then .ok (List.replicate n 0) s
  else
    let r := s.apRead u (s.slotAt t).sup (va % 2 ^ 17) n
    .ok r.1 r.2

/-- The 8-byte unit of slot u's registers that holds an offset, with n bytes of it replaced. -/
def State.apUnit (s : State) (u : Nat) (sup : Bool) (off : Nat) (bs : List Byte) : Nat :=
  let b0 := off / 8 * 8
  natOfBytes (setBytes ((List.range 8).map fun i => s.apByte u sup (b0 + i)) (off % 8) bs)

/-- Replace bytes of a vector register's image (R27, R190). -/
def patchVec (n : Nat) (v : FMap Lane) (at_ : Nat) (bs : List Byte) : FMap Lane :=
  let img := imageOfVec n v
  vecOfImage n ((setBytes img at_ bs).take img.length)

/-- Lane i of an image of class n, and some bytes of the image from `at_` on: whether they reach into the lane, and whether
they leave part of it. -/
def laneHit (n at_ len i : Nat) : Bool := i * laneW n < 8 * (at_ + len) && 8 * at_ < (i + 1) * laneW n
def lanePart (n at_ len i : Nat) : Bool := laneHit n at_ len i && !(8 * at_ ≤ i * laneW n && (i + 1) * laneW n ≤ 8 * (at_ + len))

/-- The head vector of a read stream with bytes of its image stored over: the lanes that they reach become lanes of the
slot's class, the others stay as they were fetched (R190). -/
def Slot.patchHead (x : Slot) (fmt : Nat) (v : SVec) (at_ : Nat) (bs : List Byte) : SVec :=
  let w := patchVec x.vclass (x.popVec fmt v) at_ bs
  { v with raw := (List.range 32).foldl (fun m i =>
      if laneHit x.vclass at_ bs.length i then FMap.put m i (.lane (laneOf w i)) else m) v.raw }

/-- A store of slot t into the head vector of a read stream of slot u, or an append to a write stream, which stalls and
traps as a write does (R190). A lane of the head that the store leaves in part is converted by it, with its flags, or PXH
in exact mode (R34); lanes that the store does not give are appended as +0; where no vector is ready the store is ignored
(DESIGN CHOICE: log 87). -/
def State.apStoreStream (s : State) (t u i : Nat) (at_ : Nat) (bs : List Byte) : Run Unit :=
  (s.writeRoom t u i).bind fun _ s1 =>
    let x := s1.slotAt u
    match s1.boundStream u i with
    | none => .ok () s1
    | some (e, st) =>
      if st.rcd.dir = 0 then
        match st.buf with
        | [] => .ok () s1
        | v :: rest =>
          let cs := ((List.range 32).filter (lanePart x.vclass at_ bs.length)).map fun j => (x.popLane st.rcd.fmt v j).2
          let inexact := cs.filter fun c => c.1 &&& flNX != 0
          if x.exact && !inexact.isEmpty then
            .stop (.trap cPXH 0 (BitVec.ofNat 64 (inexact.foldl (fun a c => max a c.2) 0))) s1
          else
            .ok () ((s1.putStream (coreOf u) e { st with buf := x.patchHead st.rcd.fmt v at_ bs :: rest }).orFlags u
              (cs.foldl (fun a c => a ||| c.1) 0))
      else .ok () (s1.append (coreOf u) e st (patchVec x.vclass [] at_ bs))

/-- Bytes that slot t writes to slot u's registers at an aperture offset (R190, R191). `word` is the storing instruction,
for ILL. -/
def State.apWrite (s : State) (t u : Nat) (sup : Bool) (off word : Nat) (bs : List Byte) : Run Unit :=
  let held (j : Nat) (s : State) (f : Tile → Tile) : Run Unit :=
    if (s.slotAt u).tcount ≤ j then .ok () s
    else if s.tileHeld u j then .stop (.trap cWIN 0 (BitVec.ofNat 64 (10 * 256 + j))) s
    else .ok () (s.setTile u j (f (s.tile u j)))
  match apPart off with
  | .none => .ok () s
  | .scalar i => .ok () (s.setRegN u i (BitVec.ofNat 64 (s.apUnit u sup off bs)))
  | .spr id =>
    let s1 := if id < 2 then s.drainWide u else s
    match s1.writeSpr u sup id (BitVec.ofNat 64 (s1.apUnit u sup off bs)) with
    | some s2 => .ok () s2
    | none => .stop (.trap cILL 0 (BitVec.ofNat 64 word)) s1
  | .mask i =>
    let s1 := s.drainWide u
    .ok () (s1.modSlot u fun x => x.setMask i (BitVec.ofNat 32 (s1.apUnit u sup off bs)))
  | .tag j =>
    let s1 := s.drainWide u
    let g := s1.apUnit u sup off bs % 8
    held j s1 fun x => if 6 ≤ g then x else { x with tag := g }
  | .side j => held j (s.drainWide u) fun x => { x with side := Memory.writeN x.side (off % 256) bs }
  | .tile j => held j (s.drainWide u) fun x => { x with data := Memory.writeN x.data (off % 4096) bs }
  | .vec i =>
    let s1 := s.drainWide u
    let x := s1.slotAt u
    if x.vcount ≤ i || 64 + 16 * x.vclass ≤ off % 512 then .ok () s1
    else
      match s1.boundStream u i with
      | some _ => s1.apStoreStream t u i (off % 512) bs
      | none => .ok () (s1.modSlot u fun y => y.setVreg i (patchVec x.vclass (x.vreg i) (off % 512) bs))

/-- An aperture store (R190, R191). -/
def State.apStore (s : State) (t va word : Nat) (bs : List Byte) : Run Unit :=
  let u := coreOf t * 16 + bitsOf va 20 17
  if s.apBad t va bs.length then trapAt cPROT accWrite va s
  else if s.apState t u = 1 then .ok () s
  else s.apWrite t u (s.slotAt t).sup (va % 2 ^ 17) word bs

/-! ### Scalar accesses (R303 to R308) -/

/-- A scalar load of n bytes (R303, R304). -/
def State.scalarLoad (s : State) (t va n : Nat) : Run (List Byte) :=
  if regionOf va = .aperture then s.apLoad t va n else s.plainLoad t va n

/-- A scalar store (R303, R305). -/
def State.scalarStore (s : State) (t va word : Nat) (bs : List Byte) : Run Unit :=
  if regionOf va = .aperture then s.apStore t va word bs else s.plainStore t va bs

/-- Loaded bytes as a register value. -/
def loadedWord (sgn : Bool) (bs : List Byte) : Word :=
  let w := natOfBytes bs
  if sgn then BitVec.ofInt 64 (signedOf (8 * bs.length) w) else BitVec.ofNat 64 w

/-- An ordered load's read (R308, R387, R389): at cluster or wider scope every buffered store to its bytes has left, at
device or wider the cluster has self-invalidated; at core or wider the slot then sees its siblings' buffered stores. -/
def State.orderedLoad (s : State) (t va n scope : Nat) : Run (List Byte) :=
  ((s.acquireAs (coreOf t) scope).resolve t accRead true true va n).bind fun cs s1 =>
    let s2 := s1.syncAmo t cs
    let s3 := if scope < 2 then s2 else cs.foldl (fun s c => s.drainOver (coreOf t) c.loc c.len) s2
    (s3.readChunks t accRead cs).bind fun bs s4 => .ok bs (if scope = 0 then s4 else s4.seeAll t)

/-- How an access went. -/
def outcomeOf (sgn : Bool) : Run (List Byte) → PendOut × State
  | .ok bs s => (.value (loadedWord sgn bs), s)
  | .stop (.trap c a v) s => (.fault c a v, s)
  | .stop (.park _ _) s => (.access, s)

/-! ### Pending results (R192 to R194) -/

/-- A long-latency instruction leaves its result pending (R192). -/
def State.pushPend (s : State) (i : Instr) (la d : Nat) (va : Word) (out : PendOut) : State :=
  s.modMe fun x =>
    { x with pend := x.pend ++ [{ left := la, dest := d, iaddr := x.pc, iword := instrBits i, va := va, out := out,
                                  arrived := false, fresh := true }] }

/-- A long-latency result that is a plain value. -/
def State.pushValue (s : State) (i : Instr) (la d : Nat) (v : Word) : State := s.pushPend i la d 0 (.value v)

def State.setPend (s : State) (t : Nat) (ps : List Pend) : State := s.modSlot t fun x => { x with pend := ps }

/-- The access of a pending entry, performed at the end of its shadow or again (R193, R426). -/
def State.redo (s : State) (t : Nat) (word : Nat) (va : Word) : Run Word :=
  match redoWord word with
  | some (.load n sgn) => (s.scalarLoad t va.toNat n).bind fun bs s1 => .ok (loadedWord sgn bs) s1
  | some (.ordered n scope) =>
    if va.toNat % n != 0 then .stop (.trap cALIGN accRead va) s
    else (s.orderedLoad t va.toNat n scope).bind fun bs s1 => .ok (loadedWord false bs) s1
  | some (.full take) =>
    let acc := if take then accRW else accRead
    if va.toNat % 8 != 0 then .stop (.trap cALIGN acc va) s
    else if regionOf va.toNat != .scratch then .stop (.trap cPROT acc va) s
    else
      let s0 := s.syncAmo t (s.scratchChunks t va.toNat 8)
      match s0.feLoad t (s0.scratchOff t va.toNat) take with
      | some (v, s1) => .ok (BitVec.ofNat 64 v) s1
      | none => .stop (.park (.word (cluOf t) (s0.scratchOff t va.toNat)) .reissue) s0
  | none => .stop (.trap cILL 0 (BitVec.ofNat 64 word)) s

/-- The accumulate fault that an ldx about to be performed takes first, with the state after its residual flush (R311,
R357). -/
def State.takeFault (s : State) (t : Nat) (take : Bool) : State × Bool :=
  if take then
    let s1 := s.flushResiduals (coreOf t) (s.slotAt t).lid
    (s1, (s1.slotAt t).accFault.isSome)
  else (s, false)

/-- How a park of a pending full/empty load is served. -/
def fullOp (take : Bool) (dest : Nat) : WaitOp := if take then .ldx dest else .lde dest

/-- Number of bytes that a pending access reads. -/
def Pend.size (p : Pend) : Nat :=
  match redoWord p.iword with
  | some (.load n _) => n
  | some (.ordered n _) => n
  | some (.full _) => 8
  | none => 0

/-- A pending access has still to be performed. -/
def Pend.unread (p : Pend) : Bool :=
  match p.out with
  | .value _ => false
  | .fault _ _ _ => false
  | _ => true

/-- The places of n bytes at an address, as a slot translates it now; none where it cannot be. -/
def State.placesOf (s : State) (t va n : Nat) : List Chunk :=
  match s.resolve t accRead true true va n with
  | .ok cs _ => cs
  | .stop _ _ => []

/-- Two lists of parts share a byte. -/
def chunksMeet (cs ds : List Chunk) : Bool :=
  cs.any fun c => ds.any fun d => c.loc.space = d.loc.space && overlaps c.loc.addr c.len d.loc.addr d.len

/-- A pending access of slot t has still to read some of these bytes, given as addresses and lengths: at the same
addresses, or at others that translate to the same place. A page in transit has no place yet (log 89). -/
def State.awaits (s : State) (t : Nat) (p : Pend) (rs : List (Nat × Nat)) : Bool :=
  p.unread && rs.any fun r =>
    overlaps p.va.toNat p.size r.1 r.2 || chunksMeet (s.placesOf t p.va.toNat p.size) (s.placesOf t r.1 r.2)

/-- One of the current slot's pending accesses has still to read some of these bytes. -/
def State.olderReads (s : State) (rs : List (Nat × Nat)) : Bool := s.me.pend.any fun p => s.awaits s.cur p rs

/-- How the reads of some pending accesses end. -/
inductive ReadStop where
  | done
  /-- one of them parks the slot (R193) -/
  | park (p : Place) (op : WaitOp)
  /-- an accumulate fault awaits one that is an ldx: cause and address (R357) -/
  | accFault (cause va : Nat)
deriving DecidableEq, Repr

/-- A pending entry with what its access has given. -/
def Pend.with (p : Pend) (o : PendOut) : Pend := { p with out := o }

/-- The accesses among some pending entries are performed in issue order, their results still landing at the ends of their
shadows. The list holds every entry as it is then. -/
def State.readEach (s : State) (t : Nat) (done : List Pend) : List Pend → State × List Pend × ReadStop
  | [] => (s, done, .done)
  | p :: ps =>
    match p.out with
    | .value _ => s.readEach t (done ++ [p]) ps
    | .fault _ _ _ => s.readEach t (done ++ [p]) ps
    | .access =>
      match s.redo t p.iword p.va with
      | .ok v s1 => s1.readEach t (done ++ [p.with (.value v)]) ps
      | .stop (.trap c a v) s1 => s1.readEach t (done ++ [p.with (.fault c a v)]) ps
      | .stop (.park pl op) s1 => (s1, done ++ p :: ps, .park pl op)
    | .full take =>
      let s0 := s.takeFault t take
      match if s0.2 then (s0.1.slotAt t).accFault else none with
      | some (c, va) => (s0.1, done ++ p :: ps, .accFault c va)
      | none =>
        match s0.1.redo t p.iword p.va with
        | .ok v s1 => s1.readEach t (done ++ [p.with (.value v)]) ps
        | .stop (.trap c a v) s1 => s1.readEach t (done ++ [p.with (.fault c a v)]) ps
        | .stop (.park pl _) s1 => (s1, done ++ p :: ps, .park pl (fullOp take p.dest))

/-- Deliver the pending results whose shadows have ended, in issue order (R192): values are written, accesses performed.
It stops at one that has not arrived and at an access that parks (R193); faults stay, and so does an ldx that an accumulate
fault awaits (R194, R357). The loads of the slot to one place read in the order of issue (R385), and an ldx is a release: the
loads before it have read (R389). `kept` are the entries before `ps`
that stay. -/
def State.settleFrom (s : State) (t : Nat) (kept : List Pend) : List Pend → State
  | [] => s.setPend t kept
  | p :: ps =>
    if p.left != 0 then s.settleFrom t (kept ++ [p]) ps
    else if !p.arrived then s.setPend t (kept ++ p :: ps)
    else match p.out with
      | .value v => (s.setRegN t p.dest v).settleFrom t kept ps
      | .fault _ _ _ => s.settleFrom t (kept ++ [p]) ps
      | .access =>
        let r := if kept.any fun q => s.awaits t q [(p.va.toNat, p.size)] then s.readEach t [] kept else (s, kept, .done)
        match r.2.2 with
        | .park pl op => (r.1.setPend t (r.2.1 ++ p :: ps)).parkAt t pl op
        | .accFault _ _ => r.1.settleFrom t (r.2.1 ++ [p]) ps
        | .done =>
          match r.1.redo t p.iword p.va with
          | .ok v s1 => (s1.setRegN t p.dest v).settleFrom t r.2.1 ps
          | .stop (.trap c a v) s1 => s1.settleFrom t (r.2.1 ++ [p.with (.fault c a v)]) ps
          | .stop (.park pl op) s1 => (s1.setPend t (r.2.1 ++ p :: ps)).parkAt t pl op
      | .full take =>
        let s0 := s.takeFault t take
        if s0.2 then s0.1.settleFrom t (kept ++ [p]) ps
        else
          let r := if take then s0.1.readEach t [] kept else (s0.1, kept, .done)
          match r.2.2 with
          | .park pl op => (r.1.setPend t (r.2.1 ++ p :: ps)).parkAt t pl op
          | .accFault _ _ => r.1.settleFrom t (r.2.1 ++ [p]) ps
          | .done =>
            match r.1.redo t p.iword p.va with
            | .ok v s1 => ((s1.setRegN t p.dest v).modSlot t Slot.clearPend).settleFrom t r.2.1 ps
            | .stop (.trap c a v) s1 => s1.settleFrom t (r.2.1 ++ [p.with (.fault c a v)]) ps
            | .stop (.park pl _) s1 => (s1.setPend t (r.2.1 ++ p :: ps)).parkAt t pl (fullOp take p.dest)

def State.settle (s : State) (t : Nat) : State := s.settleFrom t [] (s.slotAt t).pend

/-! ### Taking a trap (R416 to R422) -/

/-- The cause goes to the supervisor whatever the level (R417). -/
def supCause (c : Nat) : Bool := c = cPAGE || c = cPROT || c = cWINDEADLOCK

/-- The destination of a cause for a slot is the user level (R417). -/
def Slot.userDest (x : Slot) (c : Nat) : Bool := !supCause c && !x.sup

/-- Trap entry of R420 for slot t: `bits` are the cause register's bits <11:0>. -/
def State.enterTrap (s : State) (t bits : Nat) (tval pc : Word) : State :=
  let x := s.slotAt t
  let user := x.userDest (bits % 256)
  if user && !x.uh && !x.sh then
    if x.tvec = 0 then s.endByFault t (bits % 256)
    else s.modSlot t fun x =>
      { x with
        tpc := pc, tcau := BitVec.ofNat 64 bits, tval := tval, uh := true, pc := x.tvec, kept := none, drains := none }
  else if x.sh then s.endByFault t (bits % 256)
  else
    let scau := bits + b2n x.sup * 2 ^ 12 + b2n x.uh * 2 ^ 13 + b2n user * 2 ^ 14
    let s1 := s.modSlot t fun x =>
      { x with
        sepc := pc, sval := tval, scau := BitVec.ofNat 64 scau, sup := true, sh := true, uh := false, pc := s.stvec,
        kept := none, drains := none }
    if s.stvec = 0 then s1.endByFault t (bits % 256) else s1

/-- Cause bits of a plain trap: CODE and ACC (R418). -/
def trapBits (cause acc : Nat) : Nat := cause + acc * 2 ^ 10

/-- DFI of a faulted access (R421). -/
def dfiOf (cause dest word : Nat) : Word := BitVec.ofNat 64 (cause + dest * 2 ^ 8 + 2 ^ 13 + word % 2 ^ 32 * 2 ^ 32)

/-- Pending results are set aside, their shadows ended, until the handler of the trap that is taken in their place has
returned (R73). -/
def State.setAside (s : State) (t : Nat) (ps : List Pend) : State :=
  s.modSlot t fun x => { x with pend := [], later := x.later ++ ps.map fun p => { p with left := 0, arrived := true } }

/-- The first pending result whose shadow has ended, with its place (R192). -/
def Slot.ended (x : Slot) : Option (Nat × Pend) :=
  match x.pend.findIdx? fun p => p.left = 0 with
  | some i => x.pend[i]?.map fun p => (i, p)
  | none => none

/-- Every earlier instruction of the slot completes, its shadows ending early (R73, R420). -/
def State.endShadows (s : State) (t : Nat) : State :=
  ((s.modSlot t fun x => { x with pend := x.pend.map fun p => { p with left := 0, arrived := true } }).drainWide t).settle t

/-- A deferred fault of a slot: cause and ACC bits of its cause register, TVAL, and the access for the deferred-fault
record, if it has one. -/
structure Due where
  bits : Nat
  tval : Word
  rcd : Option (Nat × Pend)

/-- The trap that a pending result brings at the end of its shadow: a deferred fault (R194, R421), or the accumulate fault
that awaits an ldx, which is performed after the handler has returned (R357, log 82). -/
def Slot.dueOf (x : Slot) (p : Pend) : Option Due :=
  match p.out with
  | .fault c a v => some { bits := trapBits c a + 2 ^ 8, tval := v, rcd := some (c, p) }
  | .full true => x.accFault.map fun f =>
      { bits := trapBits f.1 accRW + 2 ^ 9, tval := BitVec.ofNat 64 f.2, rcd := none }
  | _ => none

/-- The first of a slot's pending results that brings a trap, with its place. -/
def Slot.firstDue (x : Slot) : Option (Nat × Due) :=
  (x.pend.zipIdx.findSome? fun p => (x.dueOf p.1).map fun d => (p.2, d))

/-- Take the first deferred fault of a slot whose other pending results `ps` are to wait for the handler's return. -/
def State.enterDue (s : State) (t : Nat) (d : Due) (ps : List Pend) : State :=
  let s1 := s.setAside t ps
  let user := (s1.slotAt t).userDest (d.bits % 256)
  let s2 := s1.modSlot t fun x => match d.rcd with
    | some (c, p) => x.setDef (!user) fun _ => { dfp := p.iaddr, dfv := p.va, dfi := dfiOf c p.dest p.iword }
    | none => { x with accFault := none }
  s2.enterTrap t d.bits d.tval (s2.slotAt t).pc

/-- The pending results that a deferred fault at a place leaves; an ldx that has not been performed is among them. -/
def Slot.without (x : Slot) (i : Nat) (d : Due) : List Pend := if d.rcd.isSome then dropIdx x.pend i else x.pend

/-- The deferred fault of a slot that runs is taken before the instruction at pc issues: every earlier instruction has
completed first, and of several faults the oldest is taken, the others after its handler's return (R73, R194, R420, R421,
log 36). A park of an earlier access comes before it. -/
def State.deferTrap (s : State) (t : Nat) : State :=
  let s1 := s.endShadows t
  let x := s1.slotAt t
  match if x.mode = .running then x.firstDue else none with
  | some (i, d) => s1.enterDue t d (x.without i d)
  | none => s1

/-- A slot that runs takes a trap, its cause register's bits <11:0> given, and with it something `f` that the trap brings. A
deferred fault of an earlier instruction is taken in its place, and a park of one lets the instruction execute again later:
then the answer is false, and `f` is not done (R73). -/
def State.trapSlotWith (s : State) (t bits : Nat) (tval : Word) (f : State → State) : State × Bool :=
  let s1 := s.endShadows t
  let x := s1.slotAt t
  if x.mode != .running then (s1, false)
  else if x.pend.isEmpty then ((f s1).enterTrap t bits tval x.pc, true)
  else (s1.deferTrap t, false)

/-- The same of a trap that brings nothing else. -/
def State.trapSlot (s : State) (t bits : Nat) (tval : Word) : State × Bool := s.trapSlotWith t bits tval fun s1 => s1

/-- An operation of the current slot before which every earlier instruction completes, its shadows ending; a deferred fault
or a park of one of them comes first, and then the instruction executes again later (R73, R140, R438). -/
def State.afterEarlier (s : State) (f : State → State) : State :=
  let s1 := s.endShadows s.cur
  if s1.me.pend.isEmpty then f s1
  else if s1.me.mode = .running then s1.deferTrap s.cur
  else s1

/-! ### Slots that are read whole (R202, R430, R438) -/

/-- The access that a slot waits for: the first pending result whose shadow has ended, when it is one (R430, R434), with
its place. -/
def Slot.waitsFor (x : Slot) : Option (Nat × Pend) :=
  match x.ended with
  | some (i, p) => (match p.out with | .access => some (i, p) | .full _ => some (i, p) | _ => none)
  | none => none

/-- The pending results among some entries come in, though their slot is parked: values are written, and an access that can
be performed is. What stays is kept, its shadow ended: faults, accesses that would park, an ldx that an accumulate fault
awaits, and the entry `wait`, for which the slot waits (R202, R430, R438). -/
def State.settleRest (s : State) (t : Nat) (wait : Option Pend) (kept : List Pend) : List Pend → State
  | [] => s.setPend t kept
  | p :: ps =>
    let keep (s : State) (o : PendOut) : State :=
      s.settleRest t wait (kept ++ [{ p with out := o, left := 0, arrived := true }]) ps
    if wait = some p then s.settleRest t wait (kept ++ [p]) ps
    else match p.out with
      | .value v => (s.setRegN t p.dest v).settleRest t wait kept ps
      | .fault c a v => keep s (.fault c a v)
      | o =>
      -- a load before it that has still to read goes first, for an ldx and for a load of the same bytes (R385, R389)
      if kept.any fun q => (o = .full true && q.unread) || s.awaits t q [(p.va.toNat, p.size)] then keep s o
      else
        let s0 := s.takeFault t (o = .full true)
        if s0.2 then keep s0.1 o
        else match s0.1.redo t p.iword p.va with
          | .ok v s1 => (s1.setRegN t p.dest v).settleRest t wait kept ps
          | .stop (.trap c a v) s1 => keep s1 (.fault c a v)
          | .stop (.park _ _) s1 => keep s1 o

/-- The pending results and wide instructions of a slot that does not run come in, before it is read or halted; a parked
one keeps the access that it waits for. -/
def State.settleParked (s : State) (t : Nat) : State :=
  let s0 := s.drainWide t
  s0.settleRest t ((s0.slotAt t).waitsFor.map fun p => p.2) [] (s0.slotAt t).pend

/-- A slot's pipe drains: results are written, wide instructions complete, shadows end, and a deferred fault of a running
slot is taken; a parked slot stays parked, and so does one that parks on an earlier access: what comes after that access is
written too (R202, R438). -/
def State.drainPipe (s : State) (t : Nat) : State :=
  let s1 := if (s.slotAt t).mode = .running then s.deferTrap t else s
  if (s1.slotAt t).mode = .running then s1 else s1.settleParked t

/-- A debugger's halt of a slot, its pipe drained (R438). -/
def State.haltSlot (s : State) (t : Nat) : State := (s.drainPipe t).modSlot t fun x => { x with halted := true }

/-- The current slot takes a trap, or what comes before it (R73). -/
def State.takeTrapBits (s : State) (bits : Nat) (tval : Word) : State := (s.trapSlot s.cur bits tval).1

/-- The current slot takes a trap that changes something of the slot besides. -/
def State.trapWith (s : State) (bits : Nat) (tval : Word) (f : Slot → Slot) : State :=
  (s.trapSlotWith s.cur bits tval fun s1 => s1.modSlot s.cur f).1

/-- The current slot takes a trap (R420). -/
def State.takeTrap (s : State) (cause acc : Nat) (tval : Word) : State := s.takeTrapBits (trapBits cause acc) tval

/-- ILL of an instruction, TVAL its bits (R69). -/
def State.ill (s : State) (i : Instr) : State := s.takeTrap cILL 0 (BitVec.ofNat 64 (instrBits i))

/-- ILL inside the operations of `Run`. -/
def illRun {α : Type} (i : Instr) (s : State) : Run α := .stop (.trap cILL 0 (BitVec.ofNat 64 (instrBits i))) s

/-- WIN with a code and a value (R218). -/
def winRun {α : Type} (code v : Nat) (s : State) : Run α := .stop (.trap cWIN 0 (BitVec.ofNat 64 (code * 256 + v))) s

/-- What an instruction comes to: its effect, its trap, or its park at a place of R398. -/
def finish : Run Unit → State
  | .ok _ s => s
  | .stop (.trap c a v) s => s.takeTrap c a v
  | .stop (.park p op) s => s.parkAt s.cur p op

/-- An instruction's whole answer. -/
abbrev Out := Host.Outcome State Fault Refusal

/-- The next state an operation comes to. -/
def done (m : Run Unit) : Out := .next (finish m)

/-! ### Return from a trap (R425) -/

/-- Results set aside come back once no handler runs any more. -/
def Slot.bringBack (x : Slot) : Slot :=
  if x.uh || x.sh then x else { x with pend := x.pend ++ x.later, later := [] }

/-- The pending access of the record of the level returned to (R425, R426). -/
def Slot.resumePend (x : Slot) : Slot :=
  let d := x.defAt x.sup
  if bitOf d.dfi.toNat 14 then
    let w := bitsOf d.dfi.toNat 63 32
    { x with pend := { left := 0, dest := bitsOf d.dfi.toNat 12 8, iaddr := d.dfp, iword := w, va := d.dfv,
                       out := .full (redoWord w = some (.full true)), arrived := true } :: x.pend }
  else x

/-- A slot that took WIN_DEADLOCK or QWAIT with a task taken and not started goes back to starting it (R182, R433, R434,
log 60). -/
def Slot.backToStart (x : Slot) : Slot :=
  match x.taken with
  | some (e, fromDeque) => { x with mode := .starting e fromDeque, taken := none }
  | none => x

/-- rett in a handler (R425). -/
def State.returnTrap (s : State) (t : Nat) : State :=
  let x := s.slotAt t
  if x.sh then
    if bitOf x.scau.toNat 15 then s.endByFault t (x.scau.toNat % 256)
    else
      let y : Slot := { x with sh := false, uh := bitOf x.scau.toNat 13, sup := bitOf x.scau.toNat 12, pc := x.sepc }
      (s.setSlot t y.bringBack.resumePend.backToStart).settle t
  else
    let y : Slot := { x with uh := false, pc := x.tpc }
    (s.setSlot t y.bringBack.resumePend.backToStart).settle t

/-! ### Accumulate faults (R357) -/

/-- The trap of an accumulate fault: ACCF is set, and the fault is taken. A deferred fault that comes before it leaves it
awaiting the slot (R73, R357). -/
def State.accTrap (s : State) (cause va : Nat) : State :=
  s.trapWith (trapBits cause accRW + 2 ^ 9) (BitVec.ofNat 64 va) fun x => { x with accFault := none }

/-- Perform an operation after the residual flush of R370, unless an accumulate fault awaits the slot. -/
def State.afterFlush (s : State) (f : State → State) : State :=
  let s1 := s.flushResiduals s.myCore s.me.lid
  match s1.me.accFault with
  | some (c, va) => s1.accTrap c va
  | none => f s1

/-! ### Earlier loads have read (R389, R391) -/

/-- The pending accesses of the current slot are performed now, their results still landing at the ends of their shadows;
false says that the slot has parked on one, or has taken an accumulate fault (R193, R357). -/
def State.readNow (s : State) : State × Bool :=
  let t := s.cur
  let r := s.readEach t [] s.me.pend
  let s1 := r.1.setPend t r.2.1
  match r.2.2 with
  | .done => (s1, true)
  | .park pl op => (s1.parkAt t pl op, false)
  | .accFault c va => (s1.accTrap c va, false)

/-- An operation of the current slot that follows the reads of all its earlier loads (R389, R391). -/
def State.afterReads (s : State) (f : State → State) : State :=
  let r := s.readNow
  if r.2 then f r.1 else r.1

/-- An instruction of the current slot that writes or reads some bytes: a pending load that has still to read one of them
reads first, since the accesses of a slot to one location are performed in issue order (R306, R385, log 89). -/
def State.behind (s : State) (rs : List (Nat × Nat)) (f : State → Out) : Out :=
  if s.olderReads rs then
    let r := s.readNow
    if r.2 then f r.1 else .next r.1
  else f s

end Sys2Proof.Machine
end

