-- ==== Sys2Proof/Machine/Operands.lean ====
section
/-!
DEFINITION. Operands: immediates and addresses (R62, R303), vector operands with their window checks (R218), masks
(R219), stream-bound registers (R183, R326), and how a wide instruction delivers its results (R188, R222, R223).
-/
namespace Sys2Proof.Machine

/-! ### Immediates and addresses -/

/-- A sign-extended immediate. -/
def sx {n : Nat} (imm : BitVec n) : Word := imm.signExtend 64
/-- A zero-extended immediate. -/
def zx {n : Nat} (imm : BitVec n) : Word := imm.setWidth 64

/-- Address of a scalar load or store (R303). -/
def State.mAddr (s : State) (a : BitVec 5) (imm : BitVec 11) (size : Nat) : Word :=
  s.reg a + sx imm * BitVec.ofNat 64 size

/-- The target of a branch or jal (R209, R210). -/
def relTarget {n : Nat} (pc : Word) (off : BitVec n) : Word := pc + sx off * 2

/-! ### Window checks (R218) -/

/-- Of several candidates for one reported value, which one the manual does not say (log 6). -/
def State.pick (s : State) (l : List Nat) : Nat := l.getD (Config.choose s.tick % l.length) 0

/-- Registers at or above the window count. -/
def Slot.outside (x : Slot) (rs : List Nat) : List Nat := rs.filter fun r => x.vcount ≤ r

/-- Bound registers that are read as write streams or written as read streams. -/
def State.wrongWay (s : State) (t : Nat) (reads writes : List Nat) : List Nat :=
  (reads.filter fun r => match s.boundStream t r with | some (_, st) => st.rcd.dir = 1 | none => false) ++
    writes.filter fun r => match s.boundStream t r with | some (_, st) => st.rcd.dir = 0 | none => false

/-- The WIN checks of a vector instruction, the lowest code first: `needInt` when it needs integer lanes. -/
def State.winCheck (s : State) (needInt : Bool) (reads writes : List Nat) : Run Unit :=
  let x := s.me
  let out := x.outside (writes ++ reads)
  let bad := s.wrongWay s.cur reads writes
  if x.vcount = 0 then winRun 1 0 s
  else if !out.isEmpty then winRun 2 (s.pick out) s
  else if needInt && x.vclass < 4 then winRun 3 x.vclass s
  else if !bad.isEmpty then winRun 4 (s.pick bad) s
  else .ok () s

/-! ### Stream-bound registers (R183, R325, R326) -/

/-- The head vector of a bound read stream is at hand. An empty stream stalls the slot, but past its last element it gives
+0 for ever (R175, R183, R325). A stalled slot is not parked, for its siblings' apertures and the core's sleep as elsewhere;
only quiescence counts it as parked (R191, R325, DESIGN CHOICE: log 90). -/
def State.readyRead (s : State) (r : Nat) : Run Unit :=
  match s.boundStream s.cur r with
  | none => .ok () s
  | some (e, st) =>
    if !st.buf.isEmpty then .ok () s
    else if st.fault.isSome && !st.told then s.tellFault s.myCore e st accRead (st.fault.getD (0, 0))
    else if st.fault.isNone && st.rcd.total ≤ st.pos then .ok () (s.streamFetch s.myCore e)
    else stallRun s.myCore e s

/-- Make room in a bound write stream, and deliver a fault that awaits (R325, R326). -/
def State.readyWrite (s : State) (r : Nat) : Run Unit := s.writeRoom s.cur s.cur r

/-- Bring a bound write stream to where its binding can be released: its fault is delivered, or every appended vector is
written, the last block with it (R184, R324, R326, R327). -/
def State.readyClose (s : State) (r : Nat) : Run Unit :=
  match s.boundStream s.cur r with
  | none => .ok () s
  | some (e, st) =>
    if st.rcd.dir = 0 then .ok () s
    else if st.fault.isSome && !st.told then s.tellFault s.myCore e st accWrite (st.fault.getD (0, 0))
    else
      let s1 := s.finishWrites s.myCore e
      match FMap.find (s1.coreAt s.myCore).streams e with
      | none => .ok () s1
      | some st1 =>
        match st1.fault with
        | some f => s1.tellFault s.myCore e st1 accWrite f
        | none =>
          if !st1.buf.isEmpty then stallRun s.myCore e s1
          else if st1.part.isEmpty then .ok () s1
          else
            let j := (st1.pos - st1.part.length) / fmtK st1.rcd.fmt
            match s1.writeStreamBlock st1 j s1.me.rnd st1.part with
            | .ok fl s2 => .ok () ((s2.putStream s.myCore e { st1 with part := [] }).orFlags s.cur fl)
            | .stop (.trap c a v) s2 =>
              .stop (.trap c a v) (s2.putStream s.myCore e { st1 with fault := some (c, v.toNat), told := true })
            | .stop r s2 => .stop r s2

/-- The same for every binding of the slot. -/
def State.readyCloseAll (s : State) : Run Unit :=
  (Run.mapList (fun r s => s.readyClose r) (s.me.binds.map fun b => b.1) s).bind fun _ s1 => .ok () s1

/-- Every read stream among some registers has its head vector, every write stream has room. -/
def State.readyAll (s : State) (reads writes : List Nat) : Run Unit :=
  (Run.mapList (fun r s => s.readyRead r) reads.eraseDups s).bind fun _ s1 =>
    (Run.mapList (fun r s => s.readyWrite r) writes.eraseDups s1).bind fun _ s2 => .ok () s2

/-- The flags, and the class needed, of the conversions of a vector that the pops of read streams deliver, in the lanes of
each register that are examined (R34, R183, R219). -/
def State.heads (s : State) (reads : List Nat) (lanes : Nat → BitVec 32) : Flags × Nat :=
  reads.eraseDups.foldl (fun a r =>
    match s.boundStream s.cur r with
    | some (_, st) =>
      match (if st.rcd.dir = 0 then st.buf.head? else none) with
      | some v => (List.range 32).foldl (fun a i =>
          if (lanes r).getLsbD i then
            let o := s.me.popLane st.rcd.fmt v i
            (a.1 ||| o.2.1, if o.2.1 &&& flNX != 0 then max a.2 o.2.2 else a.2)
          else a) a
      | none => a
    | none => a) (0, 0)

/-- The value of a vector operand: the head of its stream, converted, or the register. -/
def State.vin (s : State) (r : Nat) : FMap Lane :=
  match s.boundStream s.cur r with
  | some (_, st) => if st.rcd.dir = 0 then (st.buf.head?.map (s.me.popVec st.rcd.fmt)).getD [] else s.me.vreg r
  | none => s.me.vreg r

/-- Pop one vector of each read stream among some registers (R183). -/
def State.popAll (s : State) (reads : List Nat) : State :=
  reads.eraseDups.foldl (fun s r =>
    match s.boundStream s.cur r with
    | some (e, st) =>
      if st.rcd.dir = 0 then s.putStream s.myCore e { st with buf := st.buf.drop 1, vecs := st.vecs + 1 } else s
    | none => s) s

/-- Write the active lanes of a vector register, or append a vector to its write stream, +0 in the other lanes (R183, R219;
for the lanes that vins does not name, DESIGN CHOICE: log 87). -/
def State.writeVec (s : State) (r : Nat) (act : BitVec 32) (f : Nat → Lane) : State :=
  match s.boundStream s.cur r with
  | some (e, st) => s.append s.myCore e st (mkVec fun i => if act.getLsbD i then f i else 0)
  | none =>
    let old := s.me.vreg r
    s.modMe fun y => y.setVreg r (mkVec fun i => if act.getLsbD i then f i else laneOf old i)

/-! ### What a wide instruction delivers -/

/-- The result of a vector instruction. -/
structure VOut where
  /-- vector destination: register, active lanes, lanes -/
  vd : Option (Nat × BitVec 32 × (Nat → Lane)) := none
  /-- mask destination -/
  kd : Option (Nat × BitVec 32) := none
  /-- scalar destination -/
  sd : Option (Nat × Word) := none
  fl : Flags := 0
  /-- active lanes of its vector operands (R219) -/
  act : BitVec 32 := 0xFFFFFFFF
  /-- operands of which it examines other lanes (R219) -/
  only : List (Nat × BitVec 32) := []
  /-- exact mode applies (R223), and the class that the result needs -/
  exact : Bool := false
  need : Nat := 0
  /-- it ignores exact mode (R34, R56) -/
  lossy : Bool := false
  /-- the vector result is data that arrives later (R36, R195) -/
  late : Bool := false

/-- The lanes of an operand that an instruction examines (R219). -/
def VOut.lanesOf (o : VOut) (r : Nat) : BitVec 32 :=
  match o.only.filter fun p => p.1 = r with
  | [] => o.act
  | ps => ps.foldl (fun a p => a ||| p.2) 0

/-- A vector load of the current slot whose data is on its way enters the core's wide queue (R195, R246). -/
def State.queueVec (s : State) (r : Nat) (act : BitVec 32) (f : Nat → Lane) (fl : Flags) : State :=
  s.queueWide { tid := s.cur, vd := r, cls := s.me.vclass, lanes := mkVec f, act := act, flags := fl }

/-- Write a result and pop what was read. -/
def State.deliver (s : State) (reads : List Nat) (o : VOut) : State :=
  let s0 := s.popAll reads
  let s1 := match o.vd with
    | some (r, act, f) => if o.late then s0.queueVec r act f o.fl else s0.writeVec r act f
    | none => s0
  let s2 := match o.kd with | some (k, v) => s1.modMe fun x => x.setMask k v | none => s1
  let s3 := match o.sd with | some (r, v) => s2.setRegN s2.cur r v | none => s2
  if o.late then s3 else s3.orFlags s3.cur o.fl

/-- PXH with the class needed (R34). -/
def pxhRun {α : Type} (c : Nat) (s : State) : Run α := .stop (.trap cPXH 0 (BitVec.ofNat 64 c)) s

/-- The class that an instruction needs whose stream operands convert exactly at class c and not at the slot's precision:
the greater of c and what its result needs when they are exact (R34, R223). -/
def State.neededAt (s : State) (c : Nat) (f : State → Run VOut) : Nat :=
  if 15 < c then 16
  else
    let s1 := (s.setWindow s.cur s.me.vcount (max c s.me.vclass)).modMe fun x =>
      { x with prc := BitVec.ofNat 8 (x.prc.toNat / 16 * 16 + c) }
    match f s1 with
    | .ok o _ => if o.exact && o.fl &&& flNX != 0 then max c o.need else c
    | .stop _ _ => c

/-- The vectors of a wide instruction are at hand: exact mode, and its result. A stop of `f` leaves the operands where they
are. -/
def State.wideBody (s : State) (size : Nat) (reads : List Nat) (f : State → Run VOut) : Run Unit :=
  match f s with
  | .stop r s1 => .stop r s1
  | .ok o s1 =>
    let h := s.heads reads o.lanesOf
    let hbad := s.me.exact && !o.lossy && h.1 &&& flNX != 0
    let obad := s.me.exact && o.exact && o.fl &&& flNX != 0
    if hbad then pxhRun (s.neededAt h.2 f) s
    else if obad then pxhRun o.need s
    else .ok () ((s1.deliver reads { o with fl := o.fl ||| h.1 }).advance size)

/-- A vector instruction of `size` bytes: checks, operands, exact mode, result (R218 to R223). The entries of its core's
wide queue have completed before it (R195). -/
def State.wideRun (s : State) (size : Nat) (needInt : Bool) (reads writes : List Nat) (f : State → Run VOut) : Run Unit :=
  (s.winCheck needInt reads writes).bind fun _ s1 =>
    ((s1.drainCore s1.myCore).readyAll reads writes).bind fun _ s2 => s2.wideBody size reads f

/-- A vector load, whose data may arrive later: of the entries of the wide queue only those complete that write what it
reads, and those before them; a load into a write stream appends in order (R183, R195, R246). -/
def State.lateRun (s : State) (size : Nat) (needInt : Bool) (reads : List Nat) (vd : Nat) (f : State → Run VOut) : Run Unit :=
  (s.winCheck needInt reads [vd]).bind fun _ s1 =>
    let bound := (s1.boundStream s1.cur vd).isSome
    let s2 := if bound then s1.drainCore s1.myCore
      else s1.stepWides s1.myCore fun e => e.tid = s1.cur && reads.contains e.vd
    (s2.readyAll reads [vd]).bind fun _ s3 =>
      s3.wideBody size reads fun s => (f s).bind fun o s4 => .ok { o with late := !bound } s4

/-- The same for an instruction that touches no memory. -/
def State.wide (s : State) (size : Nat) (needInt : Bool) (reads writes : List Nat) (f : State → VOut) : Run Unit :=
  s.wideRun size needInt reads writes fun s1 => .ok (f s1) s1

/-! ### Masks (R219) -/

/-- The mask that a 3-bit k field names. -/
def State.maskK (s : State) (k : BitVec 3) : BitVec 32 := s.me.mask k.toNat
/-- The mask of a form with k1en or m: k1, or all lanes. -/
def State.maskBit (s : State) (m : BitVec 1) : BitVec 32 := if m = 1 then s.me.mask 1 else 0xFFFFFFFF

/-- The lanes of a mask, in rising order. -/
def activeLanes (m : BitVec 32) : List Nat := (List.range 32).filter fun i => m.getLsbD i

/-- A mask from a test of the active lanes; every other lane gets 0. -/
def maskOf (m : BitVec 32) (p : Nat → Bool) : BitVec 32 :=
  BitVec.ofNat 32 ((activeLanes m).foldl (fun a i => if p i then a + 2 ^ i else a) 0)

/-- The result of a lane operation: element, flags, class needed. -/
abbrev LaneOut := Lane × Flags × Nat

/-- Results of the active lanes gathered: flags and class needed over all of them. -/
def gather (m : BitVec 32) (f : Nat → LaneOut) (vd : Nat) (exact : Bool) : VOut :=
  let rs := (List.range 32).map fun i => if m.getLsbD i then f i else (0, 0, 0)
  { vd := some (vd, m, fun i => (rs.getD i (0, 0, 0)).1)
    act := m
    fl := rs.foldl (fun a r => a ||| r.2.1) 0
    exact := exact
    need := rs.foldl (fun a r => max a r.2.2) 0 }

/-- The low 32 bits of a lane (R29). -/
def lane32 (x : Lane) : BitVec 32 := x.setWidth 32
/-- An integer in a lane, the bits above cleared (R29). -/
def intLane (x : BitVec 32) : Lane := x.setWidth 76
/-- The W_reg bits of a lane of class n. -/
def cutLane (n : Nat) (x : Word) : Lane := BitVec.ofNat 76 (x.toNat % 2 ^ laneW n)

end Sys2Proof.Machine
end

