-- ==== Sys2Proof/Machine/Flags.lean ====
section
/-!
DEFINITION. Results with their flags: rounding into a register element (R30 to R33, R221), the class an exact result
needs (R34, R223), binary32 arithmetic of the matrix unit (R254), and the flags that each sets (R187, R222).
-/
namespace Sys2Proof.Machine

/-- Round an exact result into an element of the window's class at the slot's precision and mode (R221). -/
def Slot.roundLane (x : Slot) (r : Res) : LaneOut :=
  let (v, fl) := r.deliver (fmtReg x.L) x.rnd
  (encodeLane x.vclass v, fl, r.classNeeded)

/-- The exact values of a lane of some operands. -/
def Slot.lv (x : Slot) (v : FMap Lane) (i : Nat) : Val := laneVal x.vclass v i

/-- NV when an operand is a signalling NaN (R33). -/
def snanFlag (xs : List Val) : Flags := if xs.any Val.snan then flNV else 0

/-- Smaller and larger of two values, −0 below +0; a NaN loses against a number (R234). -/
def fminVal (x y : Val) : Val :=
  if x.isNan then (if y.isNan then .nan false else y)
  else if y.isNan then x
  else if Val.lt x y then x
  else if Val.lt y x then y
  else if x.sign then x else y

def fmaxVal (x y : Val) : Val :=
  if x.isNan then (if y.isNan then .nan false else y)
  else if y.isNan then x
  else if Val.lt x y then y
  else if Val.lt y x then x
  else if x.sign then y else x

/-- The class code of R236. -/
def classBit (v : Val) : Nat :=
  match v with
  | .inf true => 1
  | .fin true _ _ => 2
  | .zero true => 4
  | .zero false => 8
  | .fin false _ _ => 16
  | .inf false => 32
  | .nan true => 64
  | .nan false => 128

/-- rne32 of R254 with its flags. -/
def rne32 (r : Res) : Val × Flags := r.deliver fmtB32 0

/-- The bits of a binary32 value. -/
def b32Bits (v : Val) : Nat := plainEncode 32 23 v
/-- The value of binary32 bits. -/
def b32Val (w : Nat) : Val := plainDecode 32 23 w

/-- The least class for which a test holds, 16 when none does. -/
def leastClass (p : Nat → Bool) : Nat := ((List.range 16).find? p).getD 16

end Sys2Proof.Machine
end

