-- ==== Sys2Proof/Machine/Fetch.lean ====
section
/-!
DEFINITION. Instruction fetch (R58, R59, R155, R161, R169, R170), which slots are ready (R175), and in which order they
issue (R174).
-/
namespace Sys2Proof.Machine

/-! ### Lines -/

/-- A cached line of a slot's address: the slot's fetch buffer, then its core's instruction cache (R169). A line whose U
bit does not permit the slot's level is fetched afresh: a right may have been added to its page (R161, R166). -/
def State.lineOf (s : State) (t va : Nat) : Option ILine :=
  let x := s.slotAt t
  let hit (l : ILine) : Bool := l.line = va / 64 && (l.glob || l.asid = x.asid) && l.user != x.sup
  match x.fetchBuf with
  | some l => if hit l then some l else (s.coreAt (coreOf t)).icache.find? hit
  | none => (s.coreAt (coreOf t)).icache.find? hit

/-- What a fetch gives. -/
inductive Fetched where
  | half (h : BitVec 16)
  /-- the line is not cached -/
  | miss
  | trap (cause : Nat)
deriving DecidableEq, Repr

/-- Fetch the halfword at an even address (R154, R155). An address of no region raises PAGE, as R154 has it (DESIGN
CHOICE, log 83). -/
def State.fetchHalf (s : State) (t va : Nat) : Fetched :=
  match regionOf va with
  | .none => .trap cPAGE
  | .user =>
    match s.lineOf t va with
    | none => .miss
    | some l => .half (BitVec.ofNat 16 (natOfBytes ((l.bytes.drop (va % 64)).take 2)))
  | _ => .trap cPROT

/-- What fetching an instruction gives. -/
inductive FetchedInstr where
  | halves (hs : List (BitVec 16))
  | miss
  | trap (cause va : Nat)
deriving DecidableEq, Repr

/-- Fetch the instruction at the slot's pc; bit 0 of its first halfword gives its length (R58, R59). -/
def State.fetchInstr (s : State) (t : Nat) : FetchedInstr :=
  let pc := (s.slotAt t).pc.toNat
  match s.fetchHalf t pc with
  | .miss => .miss
  | .trap c => .trap c pc
  | .half h =>
    if h.getLsbD 0 then
      match s.fetchHalf t ((pc + 2) % 2 ^ 64) with
      | .miss => .miss
      | .trap c => .trap c ((pc + 2) % 2 ^ 64)
      | .half h2 => .halves [h, h2]
    else .halves [h]

/-- The first address of the instruction at pc whose line is not cached, if one is not: the second halfword counts only
where the first says that there is one (R58). -/
def State.missAddr (s : State) (t : Nat) : Option Nat :=
  let pc := (s.slotAt t).pc.toNat
  match s.fetchHalf t pc with
  | .miss => some pc
  | .trap _ => none
  | .half h =>
    if h.getLsbD 0 && s.fetchHalf t ((pc + 2) % 2 ^ 64) = .miss then some ((pc + 2) % 2 ^ 64) else none

/-- Bring the grain of an instruction line to the cluster cache, the dirty bytes of the cluster's L1s with it (R169,
R170). No L1 takes it. -/
def State.codeGrain (s : State) (core : Nat) (x : Spot) : State :=
  let k := cluOfCore core
  let s1 := (List.range 16).foldl (fun s i => s.l1Push (k * 16 + i) x.key) (s.clearClash k x)
  s1.fetchClu core x

/-- The 64 bytes of an instruction line, and the state once the cluster cache has them (R169). -/
def State.codeLine (s : State) (core : Nat) (loc : Loc) : List Byte × State :=
  match loc.spot? with
  | none => (List.replicate 64 0, s)
  | some x =>
    let s1 := (grainBases x.g x.key 64).foldl (fun s b => s.codeGrain core (x.at b)) s
    let k := s1.cluAt (cluOfCore core)
    ((List.range 64).map fun i => (grainByte k.grains x.g (x.key + i)).getD 0, s1)

/-- The line of an address as the core's cluster has it, filled through translation (R169). The store buffer is not
consulted. A POISON met at a second halfword has the address of that halfword (R59). -/
def State.fillLine (s : State) (t va : Nat) : Run Unit :=
  let core := coreOf t
  let asid := (s.slotAt t).asid
  match s.xlate t asid accFetch va with
  | (s1, .page) => trapAt cPAGE accFetch va s1
  | (s1, .wait) => .stop (.park (.page asid (va / 2 ^ 16)) .reissue) s1
  | (s1, .held has) => .stop (.park (.walker (dieOf t) has) .reissue) s1
  | (s1, .poison) => trapAt cPOISON accFetch va s1
  | (s1, .ok pa pte size) =>
    if permBad pte accFetch (s.slotAt t).sup then trapAt cPROT accFetch va s1
    else
      let loc := locOf (pa / 64 * 64) pte
      let r := s1.codeLine core loc
      match r.2.poisonAt t { loc := loc, len := 64, va := va / 64 * 64 } with
      | some a => trapAt cPOISON accFetch (if va = (s.slotAt t).pc.toNat then a else va) r.2
      | none =>
        let l : ILine := { asid := asid, glob := pteG pte, user := pteU pte, line := va / 64, size := size, bytes := r.1 }
        let other (m : ILine) : Bool := !(m.line = l.line && (m.glob || m.asid = asid))
        .ok () (r.2.modCore core fun c => { c with icache := (l :: c.icache.filter other).take 512 })

/-- The fetch buffer takes the line it was served from. -/
def State.bufferLine (s : State) (t : Nat) : State :=
  match s.lineOf t (s.slotAt t).pc.toNat with
  | some l => s.modSlot t fun x => { x with fetchBuf := some l }
  | none => s

/-! ### Readiness and order of issue (R174, R175) -/

/-- A pending result does not hold the next instruction back: its shadow goes on, or it is a value that has arrived
(R175, R192). -/
def Pend.passes (p : Pend) : Bool :=
  p.left != 0 || (p.arrived && match p.out with | .value _ => true | _ => false)

/-- The slot is ready (R175). -/
def Slot.ready (x : Slot) : Bool :=
  x.mode = .running && (!x.halted || x.stepOne) && !x.fetchMiss && x.pend.all Pend.passes

/-- The slot's previous issue was at least 4 clk earlier (R174). -/
def Slot.spaced (x : Slot) (clk : Nat) : Bool := match x.issuedAt with | some c => c + 4 ≤ clk | none => true

/-- The slots that may issue now (R174, R175). -/
def State.readySlots (s : State) : List Nat := (s.slots.filter fun p => p.2.ready && p.2.spaced s.clk).map fun p => p.1

/-- Place of a slot in its core's search, which starts one past the slot that issued last (R174). -/
def barrelPlace (last t : Nat) : Nat := (t % 16 + 15 - last) % 16

/-- The slot of a core that the search finds first. -/
def firstInBarrel (last : Nat) : List Nat → Option Nat
  | [] => none
  | t :: ts =>
    match firstInBarrel last ts with
    | none => some t
    | some u => if barrelPlace last u < barrelPlace last t then some u else some t

/-- One of a list; the manual orders no two of them. -/
def State.oneOf (s : State) : List Nat → Option Nat
  | [] => none
  | [x] => some x
  | x :: y :: l => some ((x :: y :: l).getD (Config.choose s.tick % (l.length + 2)) x)

/-- The slot that issues next: cores issue side by side, so which one comes first is open; inside a core the barrel
decides (R174). -/
def State.nextSlot (s : State) : Option Nat :=
  let rs := s.readySlots
  match s.oneOf (rs.map coreOf).eraseDups with
  | none => none
  | some c => firstInBarrel (s.coreAt c).lastIssue (rs.filter fun t => coreOf t = c)

/-! ### Before and after an instruction -/

/-- What issuing on a slot does before the instruction executes: the slot becomes the current one, the results whose
shadows the instruction ends are written (R192), its core is awake (R197), and a launch that issues for the first time is RUNNING (R112) and no longer quiet (R434). -/
def State.beginIssue (s : State) (t : Nat) : State :=
  let s0 := ({ s with cur := t }.modCore (coreOf t) fun c => { c with lastIssue := t % 16, depth := 0 }).bufferLine t
  let s1 := (s0.settle t).modSlot t fun x => { x with issuedAt := some s.clk }
  match s1.launch? (s1.slotAt t).lid with
  | none => s1
  | some l =>
    let s2 := if l.state = jPLACED then s1.jLaunch l jRUNNING else s1
    if l.quiet then s2.modLaunch l.lid fun x => { x with quiet := false } else s2

/-- What issuing does afterwards: shadows count the instruction unless it waits (R73), and a stepped slot halts,
its pipe drained (R438). -/
def State.endIssue (s : State) (t : Nat) : State :=
  let s1 := s.modSlot t fun x => { (if x.mode = .parked || x.mode = .held then x else x.passShadow) with stepOne := false }
  if (s.slotAt t).stepOne then s1.drainPipe t else s1

/-- The state after an instruction that slot t has issued: one that would read an empty stream or write a full one has not
issued, since its slot was not ready, and the slot stalls until the stream has moved (R175, R183). -/
def State.afterIssue (s : State) (t : Nat) (s1 : State) : State :=
  match s1.stalledAt t with
  | some (c, e) => s.stallAt t c e
  | none => s1.endIssue t

/-- A slot that waits in wfi goes on if its latch is set, and clears it (R427). -/
def State.wakeEvent (s : State) (w : Wait) : State :=
  if (s.slotAt w.tid).latch && s.waits.contains w then
    (s.wakeDone w).modSlot w.tid fun x => { x with latch := false }
  else s

/-- Every slot that waits in wfi and whose latch is set goes on; one that does may set the latch of another. -/
def State.wakeEvents (s : State) : State :=
  let ws := s.waits.filter fun w => w.place = .event
  iter (fun s => ws.foldl State.wakeEvent s) ws.length s

/-- A stream engine that can fetch now (R325). -/
def Stream.fetching (st : Stream) : Bool :=
  st.rcd.dir = 0 && st.waiting.isNone && st.fault.isNone && st.buf.length < 8 && st.pos < st.rcd.total

/-- A slot of a launch waits on the page of a swap (R168). -/
def State.awaitsSwap (s : State) (lid : Nat) (x : Swap) : Bool :=
  s.waits.any fun w => (s.slotAt w.tid).lid = lid && match w.place with
    | .page a v => a = x.asid && v = x.vpn
    | _ => false

/-- Copies, stream fetches, swap requests or home requests of a launch are outstanding (R168, R434). -/
def State.outstanding (s : State) (lid : Nat) : Bool :=
  s.swaps.any (fun x => x.lid = lid || s.awaitsSwap lid x) || s.homes.any (fun h => h.2.remoteOut.any fun w => w.lid = lid) ||
    s.cores.any fun c =>
      c.2.copies.any (fun x => x.lid = lid && !x.finished) || c.2.out.any (fun r => r.lid = lid) ||
        c.2.accAns.any (fun a => a.req.lid = lid) || c.2.remapped.any (fun r => r.lid = lid) ||
        c.2.streams.any fun e => e.2.fetching && (s.slotAt e.2.tid).lid = lid

/-- Launches with something outstanding are marked with the time (R434). -/
def State.markBusy (s : State) : State :=
  { s with launches := s.launches.map fun l => if s.outstanding l.lid then { l with busy := s.clk } else l }

/-- The pool requests of a core are served when the oldest fits (R180). -/
def State.serveCore (s : State) (core : Nat) : State := if (s.grantHead core).isSome then s.servePool core else s

/-- Pool or TAS space that was freed anywhere serves the requests of its core (R180, R181). -/
def State.servePools (s : State) : State :=
  (s.waits.filterMap fun w => match w.place with | .pool c => some c | _ => none).eraseDups.foldl State.serveCore s

/-- Held accesses go on when an entry of their die's wait table, or a walker that they wait for, is free again (R165). -/
def State.wakeHeld (s : State) : State :=
  s.wakeAll fun w => match w.place with
    | .walker d has => (s.waitTable d).length < 256 || (!has && s.heldWalks d < 16)
    | _ => false

/-- A step ends: latches are served, freed space and walkers too, and time passes (log 2). -/
def State.tickOn (s : State) : State :=
  let s1 := s.servePools.wakeHeld.wakeEvents.markBusy
  { s1 with tick := s1.tick + 1, clk := s1.clk + Config.elapsed s1.tick }

end Sys2Proof.Machine
end

