-- ==== Sys2Proof/Machine/LoadStore.lean ====
section
/-!
DEFINITION. Scalar loads and stores (R303 to R306), ordered loads and stores (R307, R308) and full/empty words (R309 to
R311).
-/
namespace Sys2Proof.Machine

/-! ### Plain loads and stores -/

/-- A plain load is performed at the end of its shadow, and not at its issue: an earlier load of the slot has still to read
some of its bytes (R306, R385), or the core lets later accesses to other places go before it (R386, log 84). An access of
the aperture is no memory access. -/
def State.late (s : State) (va n : Nat) : Bool :=
  regionOf va != .aperture && (s.olderReads [(va, n)] || Config.lateLoad s.tick)

/-- A scalar load: its result is pending through its shadow (R192, R303). -/
def State.load (s : State) (i : Instr) (d a : BitVec 5) (la : BitVec 4) (imm : BitVec 11) (n : Nat) (sgn : Bool) : State :=
  let va := s.mAddr a imm n
  let (out, s1) := if s.late va.toNat n then (.access, s) else outcomeOf sgn (s.scalarLoad s.cur va.toNat n)
  (s1.pushPend i la.toNat d.toNat va out).advance 4

/-- ldb (R303). -/
def execLdb (d a : BitVec 5) (la : BitVec 4) (imm : BitVec 11) (s : State) : Out :=
  .next (s.load (.ldb d a la imm) d a la imm 1 true)
/-- ldbu (R303). -/
def execLdbu (d a : BitVec 5) (la : BitVec 4) (imm : BitVec 11) (s : State) : Out :=
  .next (s.load (.ldbu d a la imm) d a la imm 1 false)
/-- ldh (R303). -/
def execLdh (d a : BitVec 5) (la : BitVec 4) (imm : BitVec 11) (s : State) : Out :=
  .next (s.load (.ldh d a la imm) d a la imm 2 true)
/-- ldhu (R303). -/
def execLdhu (d a : BitVec 5) (la : BitVec 4) (imm : BitVec 11) (s : State) : Out :=
  .next (s.load (.ldhu d a la imm) d a la imm 2 false)
/-- ldw (R303). -/
def execLdw (d a : BitVec 5) (la : BitVec 4) (imm : BitVec 11) (s : State) : Out :=
  .next (s.load (.ldw d a la imm) d a la imm 4 true)
/-- ldwu (R303). -/
def execLdwu (d a : BitVec 5) (la : BitVec 4) (imm : BitVec 11) (s : State) : Out :=
  .next (s.load (.ldwu d a la imm) d a la imm 4 false)
/-- ldd (R303). -/
def execLdd (d a : BitVec 5) (la : BitVec 4) (imm : BitVec 11) (s : State) : Out :=
  .next (s.load (.ldd d a la imm) d a la imm 8 false)

/-- A scalar store of the low n bytes of s[d] (R303, R305). -/
def State.store (s : State) (i : Instr) (d a : BitVec 5) (imm : BitVec 11) (n : Nat) : Out :=
  let va := (s.mAddr a imm n).toNat
  s.behind [(va, n)] fun s0 =>
    done ((s0.scalarStore s0.cur va (instrBits i) (leBytes n (s0.reg d).toNat)).bind fun _ s1 => .ok () (s1.advance 4))

/-- stb (R303). -/
def execStb (d a : BitVec 5) (imm : BitVec 11) (s : State) : Out := s.store (.stb d a imm) d a imm 1
/-- sth (R303). -/
def execSth (d a : BitVec 5) (imm : BitVec 11) (s : State) : Out := s.store (.sth d a imm) d a imm 2
/-- stw (R303). -/
def execStw (d a : BitVec 5) (imm : BitVec 11) (s : State) : Out := s.store (.stw d a imm) d a imm 4
/-- std (R303). -/
def execStd (d a : BitVec 5) (imm : BitVec 11) (s : State) : Out := s.store (.std d a imm) d a imm 8

/-! ### Ordered loads and stores (R307, R308, R389) -/

/-- What comes before a release at a scope: every earlier load of the slot has read, and at cluster or wider scope the
residual flush is made, at which an accumulate fault that awaits the slot is taken (R357, R370, R389). -/
def State.beforeRelease (s : State) (scope : Nat) (f : State → State) : State :=
  s.afterReads fun s1 => if scope < 2 then f s1 else s1.afterFlush f

/-- An operation that is a release (R389). -/
def State.releaseThen (s : State) (scope : Nat) (f : State → State) : State :=
  s.beforeRelease scope fun s1 => f (s1.release s1.cur scope)

/-- lda of n bytes (R308); an earlier load of the slot that has still to read some of them reads first (R306, R385). -/
def State.lda (s : State) (i : Instr) (d a : BitVec 5) (scope : BitVec 3) (la : BitVec 4) (n : Nat) : State :=
  let va := s.reg a
  if va.toNat % n != 0 then s.takeTrap cALIGN accRead va
  else
    let (out, s1) :=
      if s.olderReads [(va.toNat, n)] then (.access, s) else outcomeOf false (s.orderedLoad s.cur va.toNat n scope.toNat)
    (s1.pushPend i la.toNat d.toNat va out).advance 4

/-- lda.d (R307). -/
def execLdaD (d a : BitVec 5) (scope : BitVec 3) (la : BitVec 4) (s : State) : Out :=
  .next (s.lda (.ldaD d a scope la) d a scope la 8)
/-- lda.w (R307). -/
def execLdaW (d a : BitVec 5) (scope : BitVec 3) (la : BitVec 4) (s : State) : Out :=
  .next (s.lda (.ldaW d a scope la) d a scope la 4)

/-- Write the grains of a place through to their homes (R308); a write to a peer is at its reading-side home once it has
left the store buffer. -/
def State.writeThrough (s : State) (core : Nat) (c : Chunk) : State :=
  match c.loc with
  | .phys pa ck g _ _ =>
    if ck = 0 then s
    else (grainBases g pa c.len).foldl (fun s b => (s.l1Push core b).writeBack core (cluOfCore core) b) s
  | _ => s

/-- The write of a release at a scope (R308, R389). -/
def State.releaseWrite (s : State) (scope : Nat) (cs : List Chunk) (bs : List Byte) : State :=
  let core := s.myCore
  let s1 := s.postChunks s.cur cs bs
  if scope < 3 then s1
  else
    let s2 := cs.foldl (fun s c => s.writeThrough core c) (s1.drainStores core)
    if scope = 3 then s2 else s2.drainRemote core

/-- stl of n bytes (R308). -/
def State.stl (s : State) (a b : BitVec 5) (scope : BitVec 3) (n : Nat) : Out :=
  let va := s.reg a
  let bs := leBytes n (s.reg b).toNat
  if va.toNat % n != 0 then .next (s.takeTrap cALIGN accWrite va)
  else
    done ((s.resolve s.cur accWrite true true va.toNat n).bind fun cs s1 =>
      (formatCheck accWrite cs s1).bind fun _ s2 =>
        .ok () ((s2.syncAmo s2.cur cs).releaseThen scope.toNat fun s3 => (s3.releaseWrite scope.toNat cs bs).advance 4))

/-- stl.d (R307). -/
def execStlD (a b : BitVec 5) (scope : BitVec 3) (s : State) : Out := s.stl a b scope 8
/-- stl.w (R307). -/
def execStlW (a b : BitVec 5) (scope : BitVec 3) (s : State) : Out := s.stl a b scope 4

/-! ### Full/empty words (R309 to R311) -/

/-- The checks of a full/empty instruction: ALIGN, then PROT outside scratch (R280, R309), also at an address of no region
(DESIGN CHOICE: log 90). -/
def State.feCheck (s : State) (va : Word) (acc : Nat) : Run Nat :=
  if va.toNat % 8 != 0 then .stop (.trap cALIGN acc va) s
  else if regionOf va.toNat != .scratch then .stop (.trap cPROT acc va) s
  else .ok (s.scratchOff s.cur va.toNat) (s.syncAmo s.cur (s.scratchChunks s.cur va.toNat 8))

/-- lde and ldx on a slot that may issue them (R309, R310): on a word that is not full they wait at the end of their
shadow. -/
def State.feRead (s : State) (i : Instr) (d a : BitVec 5) (la : BitVec 4) (take : Bool) : State :=
  let va := s.reg a
  match s.feCheck va (if take then accRW else accRead) with
  | .stop (.trap c acc v) s1 => s1.takeTrap c acc v
  | .stop (.park p op) s1 => s1.parkAt s1.cur p op
  | .ok off s1 =>
    if !(s1.cluAt s1.myClu).full off then (s1.pushPend i la.toNat d.toNat va (.full take)).advance 4
    else
      let go (s2 : State) : State :=
        match s2.feLoad s2.cur off take with
        | some (v, s3) => (s3.pushPend i la.toNat d.toNat va (.value (BitVec.ofNat 64 v))).advance 4
        | none => (s2.pushPend i la.toNat d.toNat va (.full take)).advance 4
      if take then s1.beforeRelease 2 go else go s1

/-- A full/empty instruction that reads its word, which an earlier load of it reads first (R306, R385). -/
def State.feBehind (s : State) (a : BitVec 5) (f : State → Out) : Out := s.behind [((s.reg a).toNat, 8)] f

/-- lde (R309). -/
def execLde (d a : BitVec 5) (la : BitVec 4) (s : State) : Out :=
  if s.me.inHandler then .next (s.ill (.lde d a la))
  else s.feBehind a fun s1 => .next (s1.feRead (.lde d a la) d a la false)
/-- ldx (R309). -/
def execLdx (d a : BitVec 5) (la : BitVec 4) (s : State) : Out :=
  if s.me.inHandler then .next (s.ill (.ldx d a la)) else .next (s.feRead (.ldx d a la) d a la true)

/-- stf (R309, R310): parks at issue while the word is full. As a release it follows the reads of every earlier load, in the
park too (R311, R389). -/
def execStf (a b : BitVec 5) (s : State) : Out :=
  if s.me.inHandler then .next (s.ill (.stf a b))
  else
    done ((s.feCheck (s.reg a) accWrite).bind fun off s1 =>
      .ok () (s1.afterReads fun s2 =>
        if (s2.cluAt s2.myClu).full off then s2.parkAt s2.cur (.word s2.myClu off) (.stf (s2.reg b))
        else s2.afterFlush fun s3 => (s3.feStore s3.cur off (s3.reg b).toNat).advance 4))

/-- sto (R309). -/
def execSto (a b : BitVec 5) (s : State) : Out :=
  done ((s.feCheck (s.reg a) accWrite).bind fun off s1 =>
    .ok () (s1.beforeRelease 2 fun s2 => (s2.feStore s2.cur off (s2.reg b).toNat).advance 4))

/-- lde.try and ldx.try (R309, R310). -/
def State.feTry (s : State) (d a b : BitVec 5) (take : Bool) : Out :=
  done ((s.feCheck (s.reg a) (if take then accRW else accRead)).bind fun off s1 =>
    if !(s1.cluAt s1.myClu).full off then .ok () ((s1.setReg d 1).advance 4)
    else
      let go (s2 : State) : State :=
        match s2.feLoad s2.cur off take with
        | some (v, s3) => ((s3.setReg b (BitVec.ofNat 64 v)).setReg d 0).advance 4
        | none => (s2.setReg d 1).advance 4
      .ok () (if take then s1.beforeRelease 2 go else go s1))

/-- lde.try (R309). -/
def execLdeTry (d a b : BitVec 5) (s : State) : Out := s.feBehind a fun s1 => s1.feTry d a b false
/-- ldx.try (R309). -/
def execLdxTry (d a b : BitVec 5) (s : State) : Out := s.feTry d a b true
/-- stf.try (R309). -/
def execStfTry (d a b : BitVec 5) (s : State) : Out :=
  done ((s.feCheck (s.reg a) accWrite).bind fun off s1 =>
    if (s1.cluAt s1.myClu).full off then .ok () ((s1.setReg d 1).advance 4)
    else .ok () (s1.beforeRelease 2 fun s2 => ((s2.feStore s2.cur off (s2.reg b).toNat).setReg d 0).advance 4))

end Sys2Proof.Machine
end

