-- ==== Sys2Proof/Machine/Sync.lean ====
section
/-!
DEFINITION. Fences (R391), range maintenance (R328), instruction-fetch and translation maintenance (R171 to R173), and
barriers (R395 to R397).
-/
namespace Sys2Proof.Machine

/-! ### fence (R391) -/

/-- Every earlier store of the slot is visible at a scope (R391). -/
def State.visible (s : State) (scope : Nat) : State :=
  if scope < 2 then s
  else
    let s1 := s.drainStores s.myCore
    if scope < 4 then s1 else s1.drainRemote s1.myCore

/-- The release actions of a fence (R389, R391). At cluster scope the earlier stores may stay in the store buffer, before
every later one: such a fence orders no store before a later load (log 84). -/
def State.fenceRelease (s : State) (scope : Nat) : State :=
  let core := s.myCore
  if scope = 2 && Config.lazyFence s.tick then ((s.drainAmo core).flushResiduals core s.me.lid).setBefore core
  else s.release s.cur scope

/-- fence (R391): kind 1 acquire, 2 release, 3 both. -/
def execFence (scope : BitVec 3) (kind : BitVec 2) (s : State) : Out :=
  let sc := scope.toNat
  let tail (s : State) : State := (if kind.getLsbD 0 then s.acquire s.cur sc else s).advance 4
  .next (if kind.getLsbD 1 then
      s.beforeRelease sc fun s1 =>
        let s2 := s1.fenceRelease sc
        tail (if kind = 3 then s2.visible sc else s2)
    else s.afterReads tail)

/-! ### Ranges (R328) -/

/-- Valid leaves of a table of a level that meet a range of addresses: virtual address, log2 of the size, entry. Pages
with V = 0 are skipped. -/
def leavesFrom (rd : Nat → Nat) (memBytes lo hi : Nat) : Nat → Nat → Nat → Nat → List (Nat × Nat × Nat)
  | lvl, bits, base, va =>
    let sh := levelShift lvl
    let i0 := if lo ≤ va then 0 else (lo - va) / 2 ^ sh
    let i1 := min (2 ^ bits) ((hi - va + 2 ^ sh - 1) / 2 ^ sh)
    ((List.range (i1 - i0)).map (i0 + ·)).flatMap fun i =>
      let e := rd (base + 8 * i)
      if !pteV e then []
      else if bitsOf e 3 1 = 0 then
        match lvl with
        | 0 => []
        | l + 1 => leavesFrom rd memBytes lo hi l (levelBits l) (bitsOf e 51 12 * 2 ^ 12) (va + i * 2 ^ sh)
      else if leafBad memBytes sh (e - b2n (pteT e) * 2 ^ 15) then []
      else [(va + i * 2 ^ sh, sh, e)]

/-- The leaves of an ASID that meet the user-space part of a range of n bytes from a. -/
def State.leavesIn (s : State) (asid a n : Nat) : List (Nat × Nat × Nat) :=
  let hi := min (a + n) (2 ^ 56)
  if hi ≤ a then []
  else
    let ptbr := (s.asidAt asid).ptbr.toNat
    leavesFrom s.tableNat s.memBytes a hi 3 (bitsOf ptbr 4 0) (ptbrRoot ptbr) 0

/-- The keys of the pages that a range of addresses covers, local and remote: start and length. -/
def State.keyRanges (s : State) (asid a n : Nat) : List (Nat × Nat) :=
  (s.leavesIn asid a n).map fun l =>
    let lo := max a l.1
    let hi := min (a + n) (l.1 + 2 ^ l.2.1)
    let pa := ptePA l.2.2 + (lo - l.1)
    (if pteK l.2.2 = 1 then peerKey (bitsOf pa 51 40) (pa % 2 ^ 40) else pa, hi - lo)

/-- A grain lies in one of some ranges of keys. -/
def inRanges (rs : List (Nat × Nat)) (key : Nat) (x : Grain) : Bool := rs.any fun r => overlaps key (2 ^ x.size) r.1 r.2

/-- Something is done with each grain of a core's L1 that a test selects. -/
def State.eachL1 (s : State) (core : Nat) (p : Nat → Grain → Bool) (f : State → Nat → State) : State :=
  (keysWhere (s.coreAt core).l1 p).foldl f s

/-- Something is done with each grain of a cluster cache that a test selects. -/
def State.eachClu (s : State) (k : Nat) (p : Nat → Grain → Bool) (f : State → Nat → State) : State :=
  (keysWhere (s.cluAt k).grains p).foldl f s

/-- wbr (R328). -/
def State.wbr (s : State) (scope : Nat) (rs : List (Nat × Nat)) : State :=
  let core := s.myCore
  if scope < 2 then s
  else
    let s1 := (s.drainStores core).eachL1 core (inRanges rs) fun s b => s.l1Push core b
    if scope = 2 then s1
    else s1.eachClu s1.myClu (fun b x => inRanges rs b x && x.ck != 0 && x.isDirty) fun s b => s.writeBack core s.myClu b

/-- Remote grains of some ranges leave every home slice, with their read leases (R296, R328). -/
def State.dropRemoteIn (s : State) (rs : List (Nat × Nat)) : State :=
  let hit (key : Nat) : Bool := rs.any fun r => overlaps key 64 r.1 r.2
  { s with homes := s.homes.map fun h =>
      (h.1, { h.2 with
        remote := h.2.remote.filter fun g => !hit g.1
        leases := h.2.leases.filter fun l => !(l.read && hit l.pa) }) }

/-- invr (R328). -/
def State.invr (s : State) (scope : Nat) (rs : List (Nat × Nat)) : State :=
  let core := s.myCore
  let clean (b : Nat) (x : Grain) : Bool := inRanges rs b x && !x.isDirty
  let s1 := s.eachL1 core clean fun s b => s.l1Notice core b
  if scope < 3 then s1
  else
    let s2 := s1.eachClu s1.myClu clean fun s b => s.cluOut core s.myClu b
    if scope = 3 then s2 else s2.dropRemoteIn rs

/-- flr (R328). -/
def State.flr (s : State) (scope : Nat) (rs : List (Nat × Nat)) : State :=
  let core := s.myCore
  if scope < 2 then s
  else
    let s1 := (s.drainStores core).eachL1 core (inRanges rs) fun s b => s.l1Notice core b
    if scope = 2 then s1 else s1.eachClu s1.myClu (inRanges rs) fun s b => s.cluOut core s.myClu b

/-- wbr (R328). -/
def execWbr (d a : BitVec 5) (scope : BitVec 3) (s : State) : Out :=
  .next ((s.wbr scope.toNat (s.keyRanges s.me.asid (s.reg a).toNat (s.reg d).toNat)).advance 4)
/-- invr (R328). -/
def execInvr (d a : BitVec 5) (scope : BitVec 3) (s : State) : Out :=
  .next ((s.invr scope.toNat (s.keyRanges s.me.asid (s.reg a).toNat (s.reg d).toNat)).advance 4)
/-- flr (R328). -/
def execFlr (d a : BitVec 5) (scope : BitVec 3) (s : State) : Out :=
  .next ((s.flr scope.toNat (s.keyRanges s.me.asid (s.reg a).toNat (s.reg d).toNat)).advance 4)

/-! ### Fetch and translation (R171 to R173) -/

/-- ifence (R173): earlier stores are in the cluster cache; the core's instruction cache and the slot's fetch buffer are
empty. -/
def execIfence (s : State) : Out :=
  let core := s.myCore
  let s1 := (s.drainStores core).eachL1 core (fun _ x => x.isDirty) fun s b => s.l1Push core b
  let s2 := s1.modCore core fun c => { c with icache := [] }
  .next ((s2.modMe fun x => { x with fetchBuf := none }).advance 4)

/-- What an invalidation removes: translations, table entries of walk caches, and lines. -/
structure Removal where
  tlb : TlbEntry → Bool
  table : WalkEntry → Bool
  line : ILine → Bool

/-- Remove translations and lines from every TLB, walk cache, instruction cache and fetch buffer (R170, R172). -/
def State.dropTranslations (s : State) (r : Removal) : State :=
  { s with
    cores := s.cores.map fun c => (c.1, { c.2 with
      tlb := c.2.tlb.filter fun e => !r.tlb e
      icache := c.2.icache.filter fun l => !r.line l })
    clusters := s.clusters.map fun k => (k.1, { k.2 with tlb2 := k.2.tlb2.filter fun e => !r.tlb e })
    dies := s.dies.map fun d => (d.1, { d.2 with walkCache := d.2.walkCache.filter fun w => !r.table w })
    slots := s.slots.map fun t => (t.1, { t.2 with fetchBuf := t.2.fetchBuf.filter fun l => !r.line l }) }

/-- The launches that a core has refused addends or unanswered accumulates of. -/
def Core.accLids (c : Core) : List Nat :=
  (c.residuals.map (fun x => x.req.lid) ++ c.accAns.map fun a => a.req.lid).eraseDups

/-- Every access of a core that has been translated and is not complete completes: buffered stores, requests on their way
to their points of serialisation, refused addends, writes to peers (R172, R299). -/
def State.completeCore (s : State) (core : Nat) : State :=
  let s1 := (s.drainStores core).complete core fun _ => true
  let s2 := (List.range 16).foldl (fun s h => s.applyWhere h fun r => r.core = core) s1
  ((s2.coreAt core).accLids.foldl (fun s l => s.flushResiduals core l) s2).drainRemote core

/-- The same of every core of the device. -/
def State.completeAll (s : State) : State := (s.cores.map fun c => c.1).foldl State.completeCore s

/-- What tlbi removes for a page of an ASID: `own` says which ASIDs match (R172). Entries of walk caches on the path of the
page go for every ASID, also where the one named is not live (DESIGN CHOICE: log 90). -/
def removePage (va : Nat) (own : Nat → Bool → Bool) : Removal :=
  { tlb := fun e => own e.asid e.glob && e.vpn = va / 2 ^ e.size
    table := fun w => w.lead = va / 2 ^ levelShift w.level
    line := fun l => own l.asid l.glob && l.line * 64 / 2 ^ l.size = va / 2 ^ l.size }

/-- What tlbia removes: `gone` says which ASIDs match (R172). -/
def removeAsid (gone : Nat → Bool → Bool) : Removal :=
  { tlb := fun e => gone e.asid e.glob, table := fun w => gone w.asid false, line := fun l => gone l.asid l.glob }

/-- tlbi (R172). -/
def execTlbi (a : BitVec 5) (s : State) : Out :=
  if !s.me.sup then .next (s.ill (.tlbi a))
  else
    let w := (s.reg a).toNat
    let own (asid : Nat) (glob : Bool) : Bool := glob || bitOf w 14 || ((s.asidAt asid).live && asid = w % 2 ^ 14)
    .next (s.releaseThen 3 fun s1 =>
      (s1.completeAll.dropTranslations (removePage (bitsOf w 55 16 * 2 ^ 16) own)).advance 4)

/-- tlbia (R172). -/
def execTlbia (a : BitVec 5) (s : State) : Out :=
  if !s.me.sup then .next (s.ill (.tlbia a))
  else
    let w := (s.reg a).toNat
    let gone (asid : Nat) (glob : Bool) : Bool := bitOf w 14 || (!glob && (s.asidAt asid).live && asid = w % 2 ^ 14)
    .next (s.releaseThen 3 fun s1 => (s1.completeAll.dropTranslations (removeAsid gone)).advance 4)

/-! ### Barriers (R397) -/

/-- ALIGN, then PROT outside scratch (R397), also at an address of no region (DESIGN CHOICE: log 90). The step at the bank
follows the core's atomics on their way there, the buffered stores to the object, and those that a release has set before
what comes (R15, R385, R391). -/
def State.barCheck (s : State) (va : Word) (acc : Nat) : Run Nat :=
  if va.toNat % 16 != 0 then .stop (.trap cALIGN acc va) s
  else if regionOf va.toNat != .scratch then .stop (.trap cPROT acc va) s
  else
    let off := s.scratchOff s.cur va.toNat
    .ok off (((s.servePlace s.myCore (.sram s.myClu off)).drainBefore s.myCore).drainOver s.myCore (.sram s.myClu off) 16)

/-- BAR_OVER with the object's address (R397). -/
def barOver (va : Word) (s : State) : Run Unit := .stop (.trap cBAROVER 0 va) s

/-- bar.init (R397). -/
def execBarInit (a b : BitVec 5) (s : State) : Out :=
  s.behind [((s.reg a).toNat, 16)] fun s => done ((s.barCheck (s.reg a) accWrite).bind fun off s1 =>
    let n := (s.reg b).toNat % 2 ^ 20
    if n = 0 then barOver (s.reg a) s1
    else .ok () (((s1.putWord s1.myClu off (barWord 0 n n)).putWord s1.myClu (off + 8) 0).advance 4))

/-- The step of an arrival at the bank (R395, R397 bar.arv, bar.drop): BAR_OVER where no arrival is awaited, else the old
phase goes to s[d], the counts go down, and the test of R396 is made. -/
def State.arriveStep (s : State) (d : BitVec 5) (va : Word) (off : Nat) (drop : Bool) : State :=
  let k := s.myClu
  let w := s.wordAt k off
  if barPending w = 0 || (drop && barExpected w = 0) then s.takeTrap cBAROVER 0 va
  else
    let exp := if drop then barExpected w - 1 else barExpected w
    (((s.putWord k off (barWord (barPhase w) (barPending w - 1) exp)).barTest k off).setReg d
      (BitVec.ofNat 64 (barPhase w))).advance 4

/-- An arrival (R397): a release at cluster scope, then its step. -/
def State.arrive (s : State) (d a : BitVec 5) (drop : Bool) : Out :=
  done ((s.barCheck (s.reg a) accRW).bind fun off s1 =>
    .ok () (s1.releaseThen 2 fun s2 => s2.arriveStep d (s.reg a) off drop))

/-- bar.arv (R397). -/
def execBarArv (d a : BitVec 5) (s : State) : Out := s.arrive d a false

/-- bar.drop (R397). -/
def execBarDrop (d a : BitVec 5) (s : State) : Out := s.arrive d a true

/-- bar.exp (R397). -/
def execBarExp (a b : BitVec 5) (s : State) : Out :=
  s.behind [((s.reg a).toNat, 16)] fun s => done ((s.barCheck (s.reg a) accRW).bind fun off s1 =>
    .ok () ((s1.barBytes s1.myClu off (s.reg b).toInt).advance 4))

/-- bar.wait (R397): an acquire at cluster scope when it completes. -/
def execBarWait (a b : BitVec 5) (s : State) : Out :=
  if s.me.inHandler then .next (s.ill (.barWait a b))
  else
    s.behind [((s.reg a).toNat, 16)] fun s => done ((s.barCheck (s.reg a) accRead).bind fun off s0 =>
      let s1 := s0.barClean s0.myClu off
      if barPhase (s1.wordAt s1.myClu off) = (s.reg b).toNat % 2 ^ 12 then
        .stop (.park (.barrier s1.myClu off) .complete) s1
      else .ok () ((s1.acquire s1.cur 2).advance 4))

/-- bar.wait.try (R397). -/
def execBarWaitTry (d a b : BitVec 5) (s : State) : Out :=
  s.behind [((s.reg a).toNat, 16)] fun s => done ((s.barCheck (s.reg a) accRead).bind fun off s0 =>
    let s1 := s0.barClean s0.myClu off
    if barPhase (s1.wordAt s1.myClu off) = (s.reg b).toNat % 2 ^ 12 then .ok () ((s1.setReg d 1).advance 4)
    else .ok () (((s1.acquire s1.cur 2).setReg d 0).advance 4))

end Sys2Proof.Machine
end

