-- ==== Sys2Proof/Machine/Atomic.lean ====
section
/-!
DEFINITION. Atomics (R346 to R351), scalar accumulates (R352) and flushr (R371).
-/
namespace Sys2Proof.Machine

/-- The target of an atomic: aligned, in user space or scratch, on a page that is not described, and not poisoned (R346,
R350). Its n bytes lie in one place. -/
def State.amoTarget (s : State) (va : Word) (n : Nat) : Run Chunk :=
  if va.toNat % n != 0 then .stop (.trap cALIGN accRW va) s
  else
    (s.resolve s.cur accRW true false va.toNat n).bind fun cs s1 =>
      (formatCheck accRW cs s1).bind fun _ s2 =>
        match cs with
        | [] => .stop (.trap cPROT accRW va) s2
        | c :: _ =>
          let whole : Chunk := { c with len := n }
          match whole.loc with
          | .phys pa ck g d dom =>
            if ck != 0 && s2.homePoisoned pa n dom then trapAt cPOISON accRW (alignDown g va.toNat) s2
            else
              let s3 := if ck = 0 then s2.touch s2.myCore (.phys pa ck g d dom) n else s2
              match if ck = 0 then s3.poisonAt s3.cur whole else none with
              | some x => trapAt cPOISON accRW x s3
              | none => .ok whole s3
          | _ => .ok whole s2

/-- The operands of an atomic: address, operand and expected value. One that has parked on a page in transit keeps those
of its issue (R350). -/
def State.amoOps (s : State) (d a b : BitVec 5) : Word × Word × Word :=
  match s.me.kept with
  | some (pc, x) => if pc = s.me.pc then x else (s.reg a, s.reg b, s.reg d)
  | none => (s.reg a, s.reg b, s.reg d)

/-- An atomic whose target is translated goes on; one that parks keeps its operands (R350). -/
def State.amoFound (s : State) (x : Word × Word × Word) (n : Nat) (f : Chunk → State → State) : Run Unit :=
  match s.amoTarget x.1 n with
  | .ok c s1 => .ok () (f c (s1.modMe fun y => { y with kept := none }))
  | .stop (.park p op) s1 => .stop (.park p op) (s1.modMe fun y => { y with kept := some (y.pc, x) })
  | .stop r s1 => .stop r s1

/-- The target's point of serialisation is a home slice of this device (R346). -/
def Chunk.atHome (c : Chunk) : Bool := match c.loc with | .phys _ ck _ _ _ => ck != 0 | _ => false

/-- Requests of a core to every home arrive, and the homes confirm its markers (R369). -/
def State.confirmAll (s : State) (core : Nat) : State :=
  let s1 := s.complete core fun r => r.place < 16
  { s1 with homes := s1.homes.map fun h => (h.1, h.2.confirm core) }

/-- The release of a release atomic: with a marker where it runs at a home, else as of any other release (R349, R369).
The atomic gets the counts that it carries. -/
def State.releaseAmo (s : State) (c : Chunk) (scope : Nat) (f : Option (FMap Nat) → State → State) : State :=
  s.beforeRelease scope fun s1 =>
    if c.atHome then
      let r := s1.releaseByMarker s1.cur scope
      f (some r.1) r.2
    else f none (s1.release s1.cur scope)

/-- An atomic that its slot waits for, behind what its core has sent to the same place, its old value behind the answers
that the home has sent the core (R15): an acquire drops copies before the read, and the old value goes to s[d] (R349). A
release at a home is held there until its counts are met (R369). -/
def State.amoNow (s : State) (d : BitVec 5) (c : Chunk) (scope : Nat) (acq : Bool) (rel : Option (FMap Nat))
    (new : Nat → Nat) : State :=
  let s1 := if acq then s.acquire s.cur scope else s
  let s2 := s1.syncAmo s1.cur [c]
  let s3 := if rel.isSome then s2.confirmAll s2.myCore else s2.servePlace s2.myCore c.loc
  let r := s3.rmw s3.myCore s3.me.lid c.loc c.len new
  ((r.2.answersBefore s3.myCore c.loc).setReg d (BitVec.ofNat 64 r.1)).advance 4

/-- An atomic (R348, R349): `new` gives the value written, from the operand, the expected value and the old one. `postFn`
is the function when it may be posted. -/
def State.atomic (s : State) (d a b : BitVec 5) (scope : BitVec 3) (ord : BitVec 2) (sz : BitVec 1)
    (postFn : Option Nat) (new : Nat → Nat → Nat → Nat → Nat) : Out :=
  let n := if sz = 1 then 8 else 4
  let x := s.amoOps d a b
  let y := x.2.1.toNat % 2 ^ (8 * n)
  s.behind [(x.1.toNat, n)] fun s0 => done (s0.amoFound x n fun c s1 =>
    let act (rel : Option (FMap Nat)) (s2 : State) : State :=
      match if d = 0 && ord.getLsbD 0 = false then postFn else none with
      | some fn =>
        (s2.postAmo { tid := s2.cur, lid := s2.me.lid, fn := fn, size := n, loc := c.loc, y := y, rel := rel }).advance 4
      | none => s2.amoNow d c scope.toNat (ord.getLsbD 0) rel (new n y (x.2.2.toNat % 2 ^ (8 * n)))
    if ord.getLsbD 1 then s1.releaseAmo c scope.toNat act else act none s1)

/-- The atomics other than cas: function fn of R347. -/
def State.amo (s : State) (fn : Nat) (d a b : BitVec 5) (scope : BitVec 3) (ord : BitVec 2) (sz : BitVec 1) : Out :=
  s.atomic d a b scope ord sz (some fn) fun n y _ x => amoNew fn n x y

/-- amo.add (R347). -/
def execAmoAdd (d a b : BitVec 5) (scope : BitVec 3) (ord : BitVec 2) (sz : BitVec 1) (s : State) : Out :=
  s.amo 0 d a b scope ord sz
/-- amo.and (R347). -/
def execAmoAnd (d a b : BitVec 5) (scope : BitVec 3) (ord : BitVec 2) (sz : BitVec 1) (s : State) : Out :=
  s.amo 1 d a b scope ord sz
/-- amo.or (R347). -/
def execAmoOr (d a b : BitVec 5) (scope : BitVec 3) (ord : BitVec 2) (sz : BitVec 1) (s : State) : Out :=
  s.amo 2 d a b scope ord sz
/-- amo.xor (R347). -/
def execAmoXor (d a b : BitVec 5) (scope : BitVec 3) (ord : BitVec 2) (sz : BitVec 1) (s : State) : Out :=
  s.amo 3 d a b scope ord sz
/-- amo.min (R347). -/
def execAmoMin (d a b : BitVec 5) (scope : BitVec 3) (ord : BitVec 2) (sz : BitVec 1) (s : State) : Out :=
  s.amo 4 d a b scope ord sz
/-- amo.max (R347). -/
def execAmoMax (d a b : BitVec 5) (scope : BitVec 3) (ord : BitVec 2) (sz : BitVec 1) (s : State) : Out :=
  s.amo 5 d a b scope ord sz
/-- amo.minu (R347). -/
def execAmoMinu (d a b : BitVec 5) (scope : BitVec 3) (ord : BitVec 2) (sz : BitVec 1) (s : State) : Out :=
  s.amo 6 d a b scope ord sz
/-- amo.maxu (R347). -/
def execAmoMaxu (d a b : BitVec 5) (scope : BitVec 3) (ord : BitVec 2) (sz : BitVec 1) (s : State) : Out :=
  s.amo 7 d a b scope ord sz
/-- amo.swp (R347). -/
def execAmoSwp (d a b : BitVec 5) (scope : BitVec 3) (ord : BitVec 2) (sz : BitVec 1) (s : State) : Out :=
  s.amo 8 d a b scope ord sz
/-- cas (R347, R348): never posted; the expected value is s[d] at issue. -/
def execCas (d a b : BitVec 5) (scope : BitVec 3) (ord : BitVec 2) (sz : BitVec 1) (s : State) : Out :=
  s.atomic d a b scope ord sz none fun _ y e x => if x = e then y else x

/-! ### Scalar accumulates (R352) -/

/-- The translated target of an accumulate of n bytes, on a plain or a described page (R346, R350, R354). -/
def State.accTarget (s : State) (va n : Nat) (described : Bool) : Run (Nat × Nat × Nat × Nat) :=
  (s.resolve s.cur accRW false false va n).bind fun cs s1 =>
    match cs with
    | [{ loc := .phys pa ck g d dom, .. }] =>
      if d != described then trapAt cFORMAT accRW (alignDown 6 va) s1
      else if d && g = 5 then trapAt cPAGE accRW va s1
      else .ok (pa, ck, g, dom) s1
    | _ => trapAt cPROT accRW va s1

/-- accs of an element size (R352): the addend joins the unit of its target. -/
def State.accs (s : State) (a b : BitVec 5) (n : Nat) (float : Bool) : Out :=
  let va := s.reg a
  if va.toNat % n != 0 then .next (s.takeTrap cALIGN accRW va)
  else
    s.behind [(va.toNat, n)] fun s => done ((s.accTarget va.toNat n false).bind fun (pa, ck, g, dom) s1 =>
      let u := unitLen g
      let base := pa / u * u
      .ok () ((s1.issueAcc s1.cur base (va.toNat / u * u) ck g dom
        (.plain n float [((pa - base) / n, (s.reg b).toNat % 2 ^ (8 * n))])).advance 4))

/-- accs.i32 (R352). -/
def execAccsI32 (a b : BitVec 5) (s : State) : Out := s.accs a b 4 false
/-- accs.i64 (R352). -/
def execAccsI64 (a b : BitVec 5) (s : State) : Out := s.accs a b 8 false
/-- accs.f32 (R352). -/
def execAccsF32 (a b : BitVec 5) (s : State) : Out := s.accs a b 4 true
/-- accs.f64 (R352). -/
def execAccsF64 (a b : BitVec 5) (s : State) : Out := s.accs a b 8 true

/-- A copy of a grain whose bytes in a unit are as its home has them, but for those that the cluster wrote. -/
def Grain.refresh (x : Grain) (key pa len : Nat) (home : List Byte) : Grain :=
  { x with
    bytes := (List.range (2 ^ x.size)).map fun i =>
      if pa ≤ key + i && key + i < pa + len && !x.dirty.getD i false then home.getD i 0 else x.bytes.getD i 0 }

/-- An accumulated unit is invalidated in the L1s and the cluster cache of a cluster, and nothing is written back: a grain
with no dirty byte is dropped; of another the unit's clean bytes are read afresh (R371). -/
def State.dropUnit (s : State) (core pa len : Nat) : State :=
  let k := cluOfCore core
  (s.heldKeys k fun b x => overlaps b (2 ^ x.size) pa len).foldl (fun s b =>
    let copies := FMap.find (s.cluAt k).grains b :: (List.range 16).map fun i => FMap.find (s.coreAt (k * 16 + i)).l1 b
    match copies.findSome? id with
    | none => s
    | some g =>
      if !(copies.any fun o => o.any Grain.isDirty) then s.dropGrain k b
      else
        let r := s.fromHome core (g.spot b)
        let fresh (l : FMap Grain) : FMap Grain := l.map fun e => if e.1 = b then (b, e.2.refresh b pa len r.1) else e
        let s1 := r.2.modClu k fun c => { c with grains := fresh c.grains }
        { s1 with cores := s1.cores.map fun c => if cluOfCore c.1 = k then (c.1, { c.2 with l1 := fresh c.2.l1 }) else c }) s

/-- The units that a launch has accumulated to from a core are invalidated in its cluster (R371). -/
def State.dropUnits (s : State) (core lid : Nat) : State :=
  let us := (s.coreAt core).accumulated.filter fun u => u.1 = lid
  (us.foldl (fun s u => s.dropUnit core u.2.1 u.2.2) s).modCore core fun c =>
    { c with accumulated := c.accumulated.filter fun u => u.1 != lid }

/-- flushr (R371): the residual flush, the accumulated units invalidated, then the accumulate fault that awaits the
slot. -/
def execFlushr (s : State) : Out :=
  let s1 := (s.flushResiduals s.myCore s.me.lid).dropUnits s.myCore s.me.lid
  .next (match s1.me.accFault with
    | some (c, va) => s1.accTrap c va
    | none => s1.advance 4)

end Sys2Proof.Machine
end

