-- ==== Sys2Proof/Machine/TaskIns.lean ====
section
/-!
DEFINITION. The task instructions (R143 to R153), with the task boundaries under a drain (R140), the task edges (R392,
R393) and the end of a task (R148, R455).
-/
namespace Sys2Proof.Machine

/-! ### Boundaries (R140) -/

/-- A task boundary: pending results and wide instructions complete, and the residuals are flushed; a deferred fault, an
accumulate fault or a park of an earlier access comes first (R140, R357, R364). -/
def State.boundary (s : State) (f : State → State) : State :=
  s.afterEarlier fun s1 => s1.afterFlush f

/-- The slot's launch is being drained. -/
def State.myDrain (s : State) : Bool := s.draining s.me.lid

/-- The slot parks at its boundary under a drain: its posted atomics and accumulates are answered first (R140, R375). With
`.complete` it still runs a task, which no entry holds; with `.reissue` it has none (log 14). -/
def State.parkBoundary (s : State) (op : WaitOp) : State := (s.drainAmo s.myCore).parkAt s.cur .boundary op

/-- The TAS storages of the tiles that the current frame names, in TNAME order; 64 stands for a name whose tile has left
the window (R126). -/
def State.namedTiles (s : State) (fa : Nat) : List (Nat × Nat) :=
  (List.range (s.frNT fa)).map fun i => (s.myCore, FMap.getD s.me.tmap (s.frTname fa i) 64)

/-- The frame refers to its named tiles (R126). -/
def State.keepTiles (s : State) (fa : Nat) : State :=
  let ts := s.namedTiles fa
  s.modFrInfo fa fun f => { f with tiles := ts }

/-- The named tiles of a continuation are held by a child's frame (R125). -/
def State.holdTiles (s : State) (ts : List (Nat × Nat)) (child : Nat) : State :=
  ts.foldl (fun s x => s.modCore x.1 fun c =>
    match FMap.find c.tas x.2 with
    | some y => { c with tas := FMap.put c.tas x.2 { y with holds := y.holds ++ [child] } }
    | none => c) s

/-- Every tile that a child's frame holds is free of it (R125, R148). -/
def State.unholdTiles (s : State) (child : Nat) : State :=
  { s with cores := s.cores.map fun c => (c.1, { c.2 with tas := c.2.tas.map fun t =>
      (t.1, { t.2 with holds := t.2.holds.filter (· != child) }) }) }

/-- A priority class for an entry of the slot's launch. -/
def State.myPrio (s : State) : Nat := (s.slotLaunch s.cur).elim 0 Launch.prio

/-! ### fpub (R145) -/

/-- fpub (R145). -/
def execFpub (a b : BitVec 5) (s : State) : Out :=
  if s.me.inHandler then .next (s.ill (.fpub a b))
  else
    let s1 := (s.drainWide s.cur).drainStores s.myCore
    let x := s1.me
    let m := (s1.reg a).toNat % 2 ^ 32 / 2 * 2
    let w := (s1.reg b).toNat
    let vc := bitsOf w 6 0
    let nt := bitsOf w 10 8
    let names := (List.range (min nt 4)).map fun i => bitsOf w (15 + 4 * i) (12 + 4 * i)
    let need := savedVec m + vc * (64 + 16 * x.vclass)
    let fa := x.frp
    done (
      if x.vcount < vc then winRun 15 0 s1
      else if 4 < nt then winRun 15 1 s1
      else if names.any fun n => x.tcount ≤ n then winRun 15 2 s1
      else if names.eraseDups != names then winRun 15 3 s1
      else if 64 * (s1.frFlags fa % 2 ^ 9) < need then winRun 16 (need * 2 ^ 16) s1
      else
        let regs := ((List.range 32).filter fun j => bitOf m j).flatMap fun j => leBytes 8 (x.reg j).toNat
        let vecs := (List.range vc).flatMap fun i => imageOfVec x.vclass (x.vreg i)
        let s2 := s1.modClu (frameClu fa) fun k =>
          { k with sram := Memory.writeN k.sram (frameOff fa + 64) (regs ++ vecs) }
        let fl := s1.frFlags fa
        let s3 := (((s2.frWr fa 24 4 m).frWr fa 28 1 x.vclass).frWr fa 29 1 vc).frWr fa 30 1 nt
        let s4 := s3.frWr fa 32 4 (natOfBytes (names.map fun n => BitVec.ofNat 8 n))
        .ok () ((s4.frWr fa 56 8 (fl - bitsOf fl 23 16 * 2 ^ 16 + x.prc.toNat * 2 ^ 16)).advance 4))

/-! ### spawn (R124, R146) -/

/-- Bytes of the child's frame: what is requested, and what a drain needs (R124). -/
def State.childSize (s : State) (req : Nat) : Nat :=
  let fa := s.me.frp
  max req (roundUp64 (savedVec (s.frSmask fa ||| 0x3FC) + s.frVcnt fa * (64 + 16 * s.frVclass fa)))

/-- The published state of the spawner and its s2 to s9 go into an unstarted child's frame (R140). -/
def State.unstarted (s : State) (fa child : Nat) : State :=
  let m := s.frSmask fa ||| 0x3FC
  let regs := ((List.range 32).filter fun j => bitOf m j && j != 0).flatMap fun j =>
    leBytes 8 (if 2 ≤ j && j ≤ 9 then (s.me.reg j).toNat
      else s.frRd fa (64 + 8 * popcount (s.frSmask fa) j) 8)
  let vecs := Memory.readN (s.cluAt (frameClu fa)).sram (frameOff fa + savedVec (s.frSmask fa))
    (s.frVcnt fa * (64 + 16 * s.frVclass fa))
  let s1 := s.modClu (frameClu child) fun k =>
    { k with sram := Memory.writeN k.sram (frameOff child + 64) (regs ++ vecs) }
  let s2 := ((s1.frWr child 24 4 m).frWr child 28 4 (s.frRd fa 28 4)).frWr child 32 4 (s.frRd fa 32 4)
  let ts := (s.frInfo fa).tiles
  let s3 := s2.modFrInfo child fun f => { f with tiles := ts }
  (s3.frWr child 56 8 (s3.frFlags child + fUNSTARTED + bitsOf (s.frFlags fa) 23 16 * 2 ^ 16)).setFrState child frIDLE

/-- The steps of SPAWN once it can complete (R124, R140). -/
def State.spawnAt (s : State) (target : Word) (off size : Nat) : State :=
  let x := s.me
  let fa := x.frp
  let child := frameAddr s.myClu off
  let s1 := s.newFrame s.myClu off size s.myCore 0 fa frRUNNING x.lid x.asid 0
  let s2 := (s1.keepTiles fa).holdTiles (s1.namedTiles fa) child
  let e : QEntry := { pc := (x.pc + 4).toNat % 2 ^ 56, prio := s.myPrio, kind := 0, counted := false, frame := fa }
  let s3 := (s2.pushDeque s.cur e).setFrState fa frIDLE
  if s.myDrain then
    let u : QEntry := { pc := target.toNat % 2 ^ 56, prio := s.myPrio, kind := 1, counted := false, frame := child }
    ((s3.unstarted fa child).pushDeque s.cur u).parkBoundary .reissue
  else (s3.modMe fun y => { y with frp := child }).jump target

/-- SPAWN parks, with nothing pushed; a boundary at which a slot parks waits for its posted atomics (R146, R375). -/
def State.parkSpawn (s : State) (p : Place) : State := (s.drainAmo s.myCore).parkAt s.cur p .reissue

/-- SPAWN with its frame found: a full deque makes the block move first (R124, R133, R146). Under a drain two entries are
pushed, so one of 63 entries makes it too (DESIGN CHOICE, log 90). -/
def State.spawnRoom (s : State) (target : Word) (off size : Nat) : State :=
  let room := if s.myDrain then 63 else 64
  if s.me.deque.length < room then s.spawnAt target off size
  else
    match s.slotLaunch s.cur with
    | none => s.parkSpawn (.pressed s.myClu)
    | some l =>
      match s.blockMove s.cur l with
      | some s1 => s1.spawnAt target off size
      | none => (s.modClu s.myClu fun c => c.press l).parkSpawn (.pressed s.myClu)

/-- SPAWN at its boundary, with the registers read: the size is tested, and the child's frame is found (R146). -/
def State.spawnWith (s : State) (target : Word) (req : Nat) : State :=
  if req % 64 != 0 || req < 64 || 20480 < req then finish (winRun 17 (req % 2 ^ 48 * 2 ^ 16) s)
  else
    let n := s.childSize req
    match s.frameRoom s.myClu n with
    | some off => s.spawnRoom (target &&& ~~~1) off n
    | none => s.parkSpawn (.frames s.myClu)

/-- spawn (R146): it reads its registers once its boundary's pending results are written (R140, R202). -/
def execSpawn (a b : BitVec 5) (s : State) : Out :=
  if s.me.inHandler then .next (s.ill (.spawn a b))
  else .next (s.boundary fun s1 => s1.spawnWith (s1.reg a) (s1.reg b).toNat)

/-! ### sync (R147, R392) -/

/-- Both children's writes are at hand: the acquire of a passing SYNC, and a new round begins (R392). -/
def State.syncPass (s : State) (fa : Nat) : State :=
  (s.acquire s.cur (s.frInfo fa).round).modFrInfo fa fun f => { f with round := 0 }

/-- The slot has no task any more; under a drain it parks at its boundary. -/
def State.noTask (s : State) : State :=
  (if s.myDrain then s.parkBoundary .reissue else s.goIdle s.cur).servePool s.myCore

/-- SYNC that finds JOIN nonzero: the task waits; its slot is idle, or parks under a drain (R130, R140, R147, R392). -/
def State.syncWait (s : State) (fa : Nat) (pc : Word) : State :=
  let core := s.myCore
  let s1 := (s.release s.cur 1).unbindAll s.cur
  let s2 := ((s1.frWr fa 0 8 pc.toNat).setFrState fa frWAITING).modFrInfo fa fun f => { f with holder := core }
  ((s2.keepTiles fa).releaseWindows s.cur).noTask

/-- SYNC at a frame, with the PC where a waiting task resumes. -/
def State.syncAt (s : State) (fa : Nat) (pc : Word) (pass : State → State) : State :=
  if s.frJoin fa = 0 then pass s
  else finish (s.readyCloseAll.bind fun _ s1 => .ok () (s1.syncWait fa pc))

/-- A SYNC whose JOIN is 0 goes on at PC + 4; under a drain the slot then parks, its task with it (R140, R147). -/
def State.syncOn (s : State) : State :=
  let s1 := (s.syncPass s.me.frp).advance 4
  if s1.myDrain then s1.parkBoundary .complete else s1

/-- sync (R147). -/
def execSync (s : State) : Out :=
  if s.me.inHandler then .next (s.ill .sync)
  else .next (s.boundary fun s1 => s1.syncAt s1.me.frp (s1.me.pc + 4) State.syncOn)

/-- sync.try (R147). -/
def execSyncTry (d : BitVec 5) (s : State) : Out :=
  let fa := s.me.frp
  let j := s.frJoin fa
  let s1 := if j = 0 then s.syncPass fa else s
  .next ((s1.setReg d (BitVec.ofInt 64 j)).advance 4)

/-! ### tend (R148) -/

/-- Go on with an entry of the slot's own deque; under a drain it stays there, and since its child has ended it is not
counted any more (R129, R140, R148). -/
def State.goOn (s : State) (e : QEntry) : State :=
  if s.myDrain then
    (s.modMe fun x => { x with deque := x.deque ++ [{ e with counted := e.counted || e.kind = 0 }] }).parkBoundary .reissue
  else (s.startOrPark s.cur e true).servePool s.myCore

/-- A root or donated task has ended (R148, R455). -/
def State.taskEnd (s : State) (flags : Nat) : State :=
  let s1 := s.modLaunch s.me.lid fun l =>
    if flags / fROOT % 2 = 1 then { l with rootEnded := true } else { l with donated := l.donated - 1 }
  s1.noTask

/-- The decrement at a parent's bank, with its release, and what follows (R130, R148, R392, R393). -/
def State.joinDec (s : State) (p : Nat) : State :=
  let core := s.myCore
  let h := (s.frInfo p).holder
  let sc := edgeScope core h
  let s1 := (s.releaseEdge core s.me.lid sc).modFrInfo p fun f => { f with round := max f.round sc }
  let s2 := s1.frWr p 16 4 ((s1.frRd p 16 4 + 2 ^ 32 - 1) % 2 ^ 32)
  if s2.frJoin p = 0 && s2.frState p = frWAITING then
    let r := max (s2.frInfo p).round sc
    let s3 := ((s2.catchUp h core).acquire s.cur r).modFrInfo p fun f => { f with round := 0 }
    (s3.setFrState p frIDLE).goOn
      { pc := s3.frRd p 0 8 % 2 ^ 56, prio := s3.myPrio, kind := 1, counted := false, frame := p }
  else s2.noTask

/-- The end of a task whose JOIN is zero (R148). -/
def State.endTask (s : State) (fa : Nat) : State :=
  let flags := s.frFlags fa
  let p := s.frParent fa
  let s1 := ((s.unbindAll s.cur).unholdTiles fa).drainStores s.myCore
  let s2 := (s1.releaseWindows s.cur).freeFrame fa
  match s2.me.deque.getLast? with
  | some e => (s2.modMe fun x => { x with deque := x.deque.dropLast }).goOn e
  | none => if p = 0 then s2.taskEnd flags else s2.joinDec p

/-- tend (R148). -/
def execTend (s : State) : Out :=
  if s.me.inHandler then .next (s.ill .tend)
  else
    .next (s.boundary fun s1 =>
      s1.syncAt s1.me.frp s1.me.pc fun s2 =>
        finish (s2.readyCloseAll.bind fun _ s3 => .ok () (s3.endTask s3.me.frp)))

/-! ### yield (R149) -/

/-- YIELD under a drain: the entry is pushed even onto a full deque, as R140 makes no block move for it (R132, DESIGN
CHOICE: log 79). -/
def State.yieldDrain (s : State) : State :=
  let fa := s.me.frp
  let e : QEntry :=
    { pc := (s.me.pc + 4).toNat % 2 ^ 56, prio := s.myPrio, kind := 1, counted := false, frame := fa }
  let s1 := ((s.unbindAll s.cur).keepTiles fa).pushDeque s.cur e
  (s1.setFrState fa frIDLE).parkBoundary .reissue

/-- yield (R149). -/
def execYield (s : State) : Out :=
  if s.me.inHandler then .next (s.ill .yield)
  else
    .next (s.boundary fun s1 =>
      if s1.myDrain then finish (s1.readyCloseAll.bind fun _ s2 => .ok () s2.yieldDrain)
      else s1.advance 4)

/-! ### launch (R150) -/

/-- A negative status. -/
def negStatus (n : Nat) : Word := BitVec.ofInt 64 (-(n : Int))

/-- Admission of a record that a slot presents: the status, with the state after it (R104, R105, R150). A record that
passes the checks is given its launch id at once (R105). Of several resources that are missing the first in the order
-0x11, -0x10, -0x12, -0x14 gives the status (DESIGN CHOICE, log 79). -/
def State.launchFrom (s : State) (c : List Byte) : Word × State :=
  let x := s.me
  let kind := recField c 0 1
  let asid := resolvedAsid c x.asid
  let own := asid = x.asid
  let fail := s.failedCheck c x.asid x.sup true
  let s0 := s.acceptNonce c asid own fail
  match fail with
  | some n => (negStatus n, s0)
  | none =>
    if kind = 1 then
      let (s1, lid) := s0.takeLid
      let l0 := s1.makeLaunch c lid asid 0 255
      if s1.jfull then (negStatus 0x11, s1)
      else if 4096 ≤ s1.liveCount then (negStatus 0x10, s1)
      else if s1.scratchShort l0 then (negStatus 0x12, s1)
      else
        match s1.frameRoom l0.lowClu l0.rootSize with
        | none => (negStatus 0x14, s1)
        | some _ =>
          let (s2, seq) := s1.jNew lid 1 255 asid (recField c 72 8)
          let l := s2.makeLaunch c lid asid seq 255
          let s3 := { s2 with launches := s2.launches ++ [l] }
          (BitVec.ofNat 64 lid, (s3.grant l).getD s1)
    else if s0.jfull then (negStatus 0x11, s0)
    else
      let tlid := recField c 8 4
      let (s1, seq) := s0.jNew tlid kind 255 asid (recField c 72 8)
      (BitVec.ofNat 64 tlid, s1.runCommand c seq 255)

/-- launch (R150). Its record on a page in transit parks the slot, and launch executes again (R160, DESIGN CHOICE: log
90). -/
def execLaunch (d a : BitVec 5) (s : State) : Out :=
  let va := (s.reg a).toNat
  if va % 256 != 0 then .next ((s.setReg d (negStatus 0x13)).advance 4)
  else
    .next (s.releaseThen 3 fun s1 =>
      finish ((s1.resolve s1.cur accRead true true va 256).bind fun cs s2 =>
        (s2.readChunks s2.cur accRead cs).bind fun c s3 =>
          let t := s3.cur
          let (v, s4) := ((s3.setReg d 0).advance 4).launchFrom c
          .ok () (if (s4.slotAt t).mode = .running then s4.setRegN t d.toNat v else s4)))

/-! ### donate, dtake, dqstat (R151 to R153) -/

/-- A donation reaches a local queue: 0 accepted, 1 rejected, 2 busy (R151). Bits <31:28> and <63:44> of a handle are
ignored (DESIGN CHOICE, log 90). -/
def State.donqAnswer (s : State) (handle : Nat) : Nat :=
  let q := s.donqAt (bitsOf handle 27 24)
  match q.lid with
  | none => 1
  | some lid =>
    if q.gen != handle % 2 ^ 24 then 1
    else
      match s.launch? lid with
      | none => 1
      | some l => if (l.state = jPLACED || l.state = jRUNNING) && q.descs.length < 4096 then 0 else 2

/-- A slot is parked on a donation queue that is open for its launch. -/
def State.isTaker (s : State) (q : Nat) (w : Wait) : Bool :=
  w.place = .donation q && some (s.slotAt w.tid).lid = (s.donqAt q).lid

/-- A taker served with a descriptor: it is stored, acquired, and 0 goes to its register. A store that traps takes its trap
and leaves the descriptor to the next taker; one that waits for a page keeps it (R152, log 67). The flag says that the
descriptor has been taken. -/
def State.serveTaker (s : State) (w : Wait) (q d va : Nat) (desc : List Byte) : State × Bool :=
  match s.plainStore w.tid va desc with
  | .ok _ s1 => (((s1.acquire w.tid 4).setRegN w.tid d 0).wakeDone w, true)
  | .stop (.trap c a v) _ => (((s.wakeSlot w).trapSlot w.tid (trapBits c a) v).1, false)
  | .stop (.park p _) s1 =>
    (((s1.wakeSlot w).modSlot w.tid fun x => { x with got := some (q, desc) }).parkAt w.tid p .reissue, true)

/-- The takers parked on a donation queue are served in the order they parked, each with the oldest descriptor (R152). -/
def State.serveTakers (s : State) (q : Nat) : Nat → State
  | 0 => s
  | n + 1 =>
    match (s.donqAt q).descs, s.waits.find? (s.isTaker q) with
    | desc :: rest, some w =>
      match w.op with
      | .dtake d va =>
        let r := s.serveTaker w q d va desc
        (if r.2 then r.1.modDonq q fun x => { x with descs := rest } else r.1).serveTakers q n
      | _ => (s.wakeSlot w).serveTakers q n
    | _, _ => s

/-- A descriptor enters a donation queue, and a work notice goes out (R139); parked takers are served (R151, R152). -/
def State.donqPut (s : State) (q : Nat) (desc : List Byte) : State :=
  let s1 := match (s.donqAt q).lid.bind s.launch? with
    | some l => s.sendNotice l.domain
    | none => s
  (s1.modDonq q fun x => { x with descs := x.descs ++ [desc] }).serveTakers q s1.waits.length

/-- An inbox message (R339). -/
def msgBytes (kind status id tag : Nat) (word1 : Nat) (body : List Byte) : List Byte :=
  leBytes 8 (kind + status * 2 ^ 8 + id * 2 ^ 16 + tag * 2 ^ 32) ++ leBytes 8 word1 ++
    (body ++ List.replicate (64 - body.length) 0)

/-- A message enters a core's inbox, unless its launch has ended; a slot parked on it executes again (R339, R340, R456). -/
def State.postMsg (s : State) (t lid : Nat) (bs : List Byte) : State :=
  if (s.launch? lid).isNone then s
  else
  let s1 := s.modCore (coreOf t) fun c => { c with inbox := c.inbox ++ [{ tid := t, lid := lid, bytes := bs }] }
  let s2 := s1.wakeAll fun w => w.tid = t && w.place = .inbox (coreOf t)
  s2.modSlot t fun x => { x with latch := true }

/-- donate (R151): a system-scope release, then the send. A queue of this device answers at once. -/
def execDonate (a b : BitVec 5) (s : State) : Out :=
  let va := (s.reg a).toNat
  let h := (s.reg b).toNat
  if va % 64 != 0 then done (trapAt cPROT accRead va s)
  else
    .next (s.releaseThen 4 fun s1 =>
      finish ((s1.resolve s1.cur accRead true true va 64).bind fun cs s2 =>
        (s2.readChunks s2.cur accRead cs).bind fun desc s3 =>
          let lid := s3.me.lid
          let s4 := s3.advance 4
          .ok () { s4 with donOut := s4.donOut ++ [(s4.cur, lid, h, desc)] }))

/-- The oldest descriptor of a queue that is open for the slot's launch is written and the status given; an empty queue is
waited for, or gives 1 (R152). -/
def State.takeOldest (s : State) (d : BitVec 5) (va q : Nat) (wait : Bool) : Run Unit :=
  match (s.donqAt q).descs with
  | [] => if wait then .stop (.park (.donation q) (.dtake d.toNat va)) s else .ok () ((s.setReg d 1).advance 4)
  | desc :: rest =>
    (s.plainStore s.cur va desc).bind fun _ s1 =>
      let s2 := (s1.modDonq q fun y => { y with descs := rest }).acquire s1.cur 4
      .ok () ((s2.setReg d 0).advance 4)

/-- A taken descriptor is written and the status given (R152). -/
def State.dtake (s : State) (d a b : BitVec 5) (wait : Bool) : Run Unit :=
  let va := (s.reg a).toNat
  let q := (s.reg b).toNat % 16
  if va % 64 != 0 then trapAt cPROT accWrite va s
  else if (s.donqAt q).lid != some s.me.lid then .ok () ((s.setReg d 2).advance 4)
  else s.takeOldest d va q wait

/-- A taker that waited for a page with its descriptor takes that one, as the oldest of its queue again; where it does not
take it after all, the descriptor goes to the next taker (R152). -/
def State.retake (s : State) (mine : Nat) (f : State → Out) : Out :=
  match s.me.got with
  | none => f s
  | some (q, _) =>
    match f (s.ungive s.cur) with
    | .next s1 =>
      if q = mine && ((s1.slotAt s.cur).mode = .parked || (s1.slotAt s.cur).mode = .held) then
        match (s1.donqAt q).descs with
        | desc :: rest =>
          .next ((s1.modDonq q fun x => { x with descs := rest }).modSlot s.cur fun x => { x with got := some (q, desc) })
        | [] => .next s1
      else .next (s1.serveTakers q s1.waits.length)
    | r => r

/-- dtake (R152). -/
def execDtake (d a b : BitVec 5) (s : State) : Out :=
  if s.me.inHandler then .next (s.ill (.dtake d a b))
  else s.retake ((s.reg b).toNat % 16) fun s => s.behind [((s.reg a).toNat, 64)] fun s => done (s.dtake d a b true)
/-- dtake.try (R152). -/
def execDtakeTry (d a b : BitVec 5) (s : State) : Out :=
  s.behind [((s.reg a).toNat, 64)] fun s => done (s.dtake d a b false)
/-- dqstat (R153). -/
def execDqstat (d a : BitVec 5) (s : State) : Out :=
  .next ((s.setReg d (s.queueStatus s.cur (s.reg a).toNat)).advance 4)

end Sys2Proof.Machine
end

