-- ==== Sys2Proof/Machine/Trap.lean ====
section
/-!
DEFINITION. The trap-family instructions (R423 to R427).
-/
namespace Sys2Proof.Machine

/-- trap (R424): TRAP with TVAL the code. -/
def execTrap (code : BitVec 11) (s : State) : Out := .next (s.takeTrap cTRAP 0 (zx code))

/-- brk (R424): BRK, or a halt while a debugger has set break-to-halt, which drains the slot's pipe first (R438). -/
def execBrk (code : BitVec 11) (s : State) : Out :=
  if s.breakHalt then .next (s.afterEarlier fun s1 => s1.modMe fun x => { x with halted := true, tpc := x.pc })
  else .next (s.takeTrap cBRK 0 (zx code))

/-- rett (R425). -/
def execRett (s : State) : Out :=
  if s.me.inHandler then .next (s.returnTrap s.cur) else .next (s.ill .rett)

/-- replay (R426): the access of the record of the current level is performed again. An ldx is a release (R311), at which an
accumulate fault that awaits the slot is taken (R357). -/
def execReplay (s : State) : Out :=
  let r := s.me.defAt s.me.sup
  let w := bitsOf r.dfi.toNat 63 32
  if !bitOf r.dfi.toNat 13 || (redoWord w).isNone then .next (s.ill .replay)
  else
    let valid (v : Bool) (x : Slot) : Slot := x.setDef x.sup fun d =>
      if v then { d with dfi := d.dfi ||| 0x4000 } else { d with dfi := d.dfi &&& ~~~0x6000 }
    let again (s0 : State) : State :=
      match s0.redo s0.cur w r.dfv with
      | .ok v s1 => ((s1.setRegN s1.cur (bitsOf r.dfi.toNat 12 8) v).modMe (valid false)).advance 4
      | .stop (.trap c a v) s1 => s1.takeTrap c a v
      | .stop (.park (.word _ _) _) s1 => (s1.modMe (valid true)).advance 4
      | .stop (.park p op) s1 => s1.parkAt s1.cur p op
    .next (if redoWord w = some (.full true) then s.beforeRelease 2 again else again s)

/-- wfi (R427): it waits until the slot's event latch is set, and clears it. -/
def execWfi (s : State) : Out :=
  if s.me.inHandler then .next (s.ill .wfi)
  else if s.me.latch then .next ((s.modMe fun x => { x with latch := false }).advance 4)
  else .next (s.parkAt s.cur .event .complete)

end Sys2Proof.Machine
end

