-- ==== Sys2Proof/Machine/VInt.lean ====
section
/-!
DEFINITION. Integer lanes (R225), integer compares and reductions (R227, R228), with the compact integer forms (R247).
-/
namespace Sys2Proof.Machine

/-! ### Major 0x24 (R225) -/

/-- An integer lane operation on the active lanes of a mask. -/
def State.vint (s : State) (size : Nat) (m : BitVec 32) (d a b : Nat) (f : BitVec 32 → BitVec 32 → BitVec 32) : Out :=
  done (s.wide size true [a, b] [d] fun s1 =>
    let va := s1.vin a
    let vb := s1.vin b
    { vd := some (d, m, fun i => intLane (f (lane32 (laneOf va i)) (lane32 (laneOf vb i)))), act := m })

/-- A full form: registers of 6 bits, a mask field. -/
def State.vint4 (s : State) (d a b : BitVec 6) (k : BitVec 3) (f : BitVec 32 → BitVec 32 → BitVec 32) : Out :=
  s.vint 4 (s.maskK k) d.toNat a.toNat b.toNat f

/-- A compact form: va is vd (R63). -/
def State.vint2 (s : State) (d b : BitVec 5) (m : BitVec 1) (f : BitVec 32 → BitVec 32 → BitVec 32) : Out :=
  s.vint 2 (s.maskBit m) d.toNat d.toNat b.toNat f

def vmulhOp (x y : BitVec 32) : BitVec 32 := BitVec.ofInt 32 (x.toInt * y.toInt / 2 ^ 32)
def vshlOp (x y : BitVec 32) : BitVec 32 := x <<< (y.toNat % 32)
def vshrOp (x y : BitVec 32) : BitVec 32 := x >>> (y.toNat % 32)
def vsarOp (x y : BitVec 32) : BitVec 32 := x.sshiftRight (y.toNat % 32)
def vminOp (x y : BitVec 32) : BitVec 32 := if x.toInt < y.toInt then x else y
def vmaxOp (x y : BitVec 32) : BitVec 32 := if x.toInt < y.toInt then y else x
def vminuOp (x y : BitVec 32) : BitVec 32 := if x.toNat < y.toNat then x else y
def vmaxuOp (x y : BitVec 32) : BitVec 32 := if x.toNat < y.toNat then y else x

/-- vadd (R225). -/
def execVadd (d a b : BitVec 6) (k : BitVec 3) (s : State) : Out := s.vint4 d a b k (· + ·)
/-- vsub (R225). -/
def execVsub (d a b : BitVec 6) (k : BitVec 3) (s : State) : Out := s.vint4 d a b k (· - ·)
/-- vmul (R225). -/
def execVmul (d a b : BitVec 6) (k : BitVec 3) (s : State) : Out := s.vint4 d a b k (· * ·)
/-- vmulh (R225). -/
def execVmulh (d a b : BitVec 6) (k : BitVec 3) (s : State) : Out := s.vint4 d a b k vmulhOp
/-- vand (R225). -/
def execVand (d a b : BitVec 6) (k : BitVec 3) (s : State) : Out := s.vint4 d a b k (· &&& ·)
/-- vor (R225). -/
def execVor (d a b : BitVec 6) (k : BitVec 3) (s : State) : Out := s.vint4 d a b k (· ||| ·)
/-- vxor (R225). -/
def execVxor (d a b : BitVec 6) (k : BitVec 3) (s : State) : Out := s.vint4 d a b k (· ^^^ ·)
/-- vandn (R225). -/
def execVandn (d a b : BitVec 6) (k : BitVec 3) (s : State) : Out := s.vint4 d a b k (fun x y => x &&& ~~~y)
/-- vshl (R225). -/
def execVshl (d a b : BitVec 6) (k : BitVec 3) (s : State) : Out := s.vint4 d a b k vshlOp
/-- vshr (R225). -/
def execVshr (d a b : BitVec 6) (k : BitVec 3) (s : State) : Out := s.vint4 d a b k vshrOp
/-- vsar (R225). -/
def execVsar (d a b : BitVec 6) (k : BitVec 3) (s : State) : Out := s.vint4 d a b k vsarOp
/-- vmin (R225). -/
def execVmin (d a b : BitVec 6) (k : BitVec 3) (s : State) : Out := s.vint4 d a b k vminOp
/-- vmax (R225). -/
def execVmax (d a b : BitVec 6) (k : BitVec 3) (s : State) : Out := s.vint4 d a b k vmaxOp
/-- vminu (R225). -/
def execVminu (d a b : BitVec 6) (k : BitVec 3) (s : State) : Out := s.vint4 d a b k vminuOp
/-- vmaxu (R225). -/
def execVmaxu (d a b : BitVec 6) (k : BitVec 3) (s : State) : Out := s.vint4 d a b k vmaxuOp

/-- vsel (R225): k selects lane by lane, whole lanes are copied at any class, and every lane is written. -/
def execVsel (d a b : BitVec 6) (k : BitVec 3) (s : State) : Out :=
  done (s.wide 4 false [a.toNat, b.toNat] [d.toNat] fun s1 =>
    let va := s1.vin a.toNat
    let vb := s1.vin b.toNat
    let m := s1.maskK k
    { vd := some (d.toNat, 0xFFFFFFFF, fun i => if m.getLsbD i then laneOf va i else laneOf vb i) })

/-! ### Compares (R227) -/

/-- An integer compare: 1 in the active lanes where it holds, 0 in every other. -/
def State.vcmp (s : State) (d a b : BitVec 6) (k : BitVec 3) (p : BitVec 32 → BitVec 32 → Bool) : Out :=
  done (s.wide 4 true [a.toNat, b.toNat] [] fun s1 =>
    let va := s1.vin a.toNat
    let vb := s1.vin b.toNat
    { kd := some (d.toNat, maskOf (s1.maskK k) fun i => p (lane32 (laneOf va i)) (lane32 (laneOf vb i)))
      act := s1.maskK k })

/-- vcmp.eq (R227). -/
def execVcmpEq (d a b : BitVec 6) (k : BitVec 3) (s : State) : Out := s.vcmp d a b k fun x y => decide (x = y)
/-- vcmp.ne (R227). -/
def execVcmpNe (d a b : BitVec 6) (k : BitVec 3) (s : State) : Out := s.vcmp d a b k fun x y => decide (x ≠ y)
/-- vcmp.lt (R227). -/
def execVcmpLt (d a b : BitVec 6) (k : BitVec 3) (s : State) : Out := s.vcmp d a b k fun x y => decide (x.toInt < y.toInt)
/-- vcmp.ge (R227). -/
def execVcmpGe (d a b : BitVec 6) (k : BitVec 3) (s : State) : Out := s.vcmp d a b k fun x y => decide (y.toInt ≤ x.toInt)
/-- vcmp.ltu (R227). -/
def execVcmpLtu (d a b : BitVec 6) (k : BitVec 3) (s : State) : Out := s.vcmp d a b k fun x y => decide (x.toNat < y.toNat)
/-- vcmp.geu (R227). -/
def execVcmpGeu (d a b : BitVec 6) (k : BitVec 3) (s : State) : Out := s.vcmp d a b k fun x y => decide (y.toNat ≤ x.toNat)

/-! ### Reductions (R228) -/

/-- An integer reduction of the active lanes: lane 0 gets the result, every other lane zero. -/
def State.vred (s : State) (d a : BitVec 6) (k : BitVec 3) (e : Int) (f : Int → Int → Int) : Out :=
  done (s.wide 4 true [a.toNat] [d.toNat] fun s1 =>
    let va := s1.vin a.toNat
    let r := (activeLanes (s1.maskK k)).foldl (fun x i => f x (lane32 (laneOf va i)).toInt) e
    { vd := some (d.toNat, 0xFFFFFFFF, fun i => if i = 0 then intLane (BitVec.ofInt 32 r) else 0)
      act := s1.maskK k })

/-- vredadd (R228). -/
def execVredadd (d a : BitVec 6) (k : BitVec 3) (s : State) : Out := s.vred d a k 0 (· + ·)
/-- vredmin (R228). -/
def execVredmin (d a : BitVec 6) (k : BitVec 3) (s : State) : Out := s.vred d a k (2 ^ 31 - 1) min
/-- vredmax (R228). -/
def execVredmax (d a : BitVec 6) (k : BitVec 3) (s : State) : Out := s.vred d a k (-(2 ^ 31)) max

/-! ### Compact integer forms (R247) -/

/-- c.vadd (R63). -/
def execCVadd (d b : BitVec 5) (m : BitVec 1) (s : State) : Out := s.vint2 d b m (· + ·)
/-- c.vsub (R63). -/
def execCVsub (d b : BitVec 5) (m : BitVec 1) (s : State) : Out := s.vint2 d b m (· - ·)
/-- c.vand (R63). -/
def execCVand (d b : BitVec 5) (m : BitVec 1) (s : State) : Out := s.vint2 d b m (· &&& ·)
/-- c.vor (R63). -/
def execCVor (d b : BitVec 5) (m : BitVec 1) (s : State) : Out := s.vint2 d b m (· ||| ·)
/-- c.vxor (R63). -/
def execCVxor (d b : BitVec 5) (m : BitVec 1) (s : State) : Out := s.vint2 d b m (· ^^^ ·)
/-- c.vshl (R63). -/
def execCVshl (d b : BitVec 5) (m : BitVec 1) (s : State) : Out := s.vint2 d b m vshlOp
/-- c.vshr (R63). -/
def execCVshr (d b : BitVec 5) (m : BitVec 1) (s : State) : Out := s.vint2 d b m vshrOp
/-- c.vmin (R63). -/
def execCVmin (d b : BitVec 5) (m : BitVec 1) (s : State) : Out := s.vint2 d b m vminOp
/-- c.vmax (R63). -/
def execCVmax (d b : BitVec 5) (m : BitVec 1) (s : State) : Out := s.vint2 d b m vmaxOp

end Sys2Proof.Machine
end

