-- ==== Sys2Proof/Machine/VMove.lean ====
section
/-!
DEFINITION. Lane movement (R229), moves between scalars and lanes (R230), mask instructions (R242) and vwin (R244, R245).
-/
namespace Sys2Proof.Machine

/-! ### Lane movement (R229) -/

/-- The source lanes that a movement of the lanes of a mask examines. -/
def movedLanes (m : BitVec 32) (src : Nat → List Nat) : BitVec 32 := maskOf 0xFFFFFFFF ((activeLanes m).flatMap src).contains

/-- A movement of whole lanes: lane i of vd gets what `f` says, from the source lanes `src`; only those of active lanes
are examined (R219). -/
def State.vmove (s : State) (reads : List Nat) (d : BitVec 6) (k : BitVec 3) (src : State → Nat → List Nat)
    (f : State → Nat → Lane) : Out :=
  done (s.wide 4 false reads [d.toNat] fun s1 =>
    let m := s1.maskK k
    { vd := some (d.toNat, m, f s1), act := movedLanes m (src s1) })

/-- The source lane of vperm for lane i. -/
def State.permLane (s : State) (b : BitVec 6) (i : Nat) : Nat := (laneOf (s.vin b.toNat) i).toNat % 32

/-- vperm (R229): of vb it examines the active lanes, of va the lanes that those name (R219). -/
def execVperm (d a b : BitVec 6) (k : BitVec 3) (s : State) : Out :=
  done (s.wide 4 false [a.toNat, b.toNat] [d.toNat] fun s1 =>
    let m := s1.maskK k
    { vd := some (d.toNat, m, fun i => laneOf (s1.vin a.toNat) (s1.permLane b i))
      only := [(a.toNat, movedLanes m fun i => [s1.permLane b i]), (b.toNat, m)] })

/-- The distance of a slide. -/
def State.slide (s : State) (b : BitVec 6) : Nat := min (s.me.reg b.toNat).toNat 32

/-- vslideup (R229). -/
def execVslideup (d a b : BitVec 6) (k : BitVec 3) (s : State) : Out :=
  let n := s.slide b
  s.vmove [a.toNat] d k (fun _ i => if n ≤ i then [i - n] else []) fun s1 i => if n ≤ i then laneOf (s1.vin a.toNat) (i - n) else 0
/-- vslidedn (R229). -/
def execVslidedn (d a b : BitVec 6) (k : BitVec 3) (s : State) : Out :=
  let n := s.slide b
  s.vmove [a.toNat] d k (fun _ i => if i + n ≤ 31 then [i + n] else []) fun s1 i => if i + n ≤ 31 then laneOf (s1.vin a.toNat) (i + n) else 0
/-- vmov (R229). -/
def execVmov (d a : BitVec 6) (k : BitVec 3) (s : State) : Out :=
  s.vmove [a.toNat] d k (fun _ i => [i]) fun s1 i => laneOf (s1.vin a.toNat) i

/-! ### Scalars and lanes (R230) -/

/-- The value that vbcast and vins place. -/
def Slot.placed (x : Slot) (cv : BitVec 3) (w : Word) : LaneOut :=
  if cv = 0 then (BitVec.ofNat 76 (w.toNat % 2 ^ min (laneW x.vclass) 64), 0, 0)
  else toLane x.vclass x.L x.rnd (plainDecode 64 52 w.toNat)

/-- vbcast (R230). -/
def execVbcast (d a : BitVec 6) (cv : BitVec 3) (s : State) : Out :=
  let w := s.me.reg a.toNat
  done (s.wide 4 false [] [d.toNat] fun s1 =>
    let o := s1.me.placed cv w
    { vd := some (d.toNat, 0xFFFFFFFF, fun _ => o.1), fl := o.2.1, exact := cv != 0, need := o.2.2 })

/-- vins (R230): only the lane it names is written. -/
def execVins (d a b : BitVec 6) (cv : BitVec 3) (s : State) : Out :=
  let w := s.me.reg a.toNat
  let i := (s.me.reg b.toNat).toNat % 32
  done (s.wide 4 false [] [d.toNat] fun s1 =>
    let o := s1.me.placed cv w
    { vd := some (d.toNat, BitVec.ofNat 32 (2 ^ i), fun _ => o.1), fl := o.2.1, exact := cv != 0, need := o.2.2 })

/-- vext (R230). -/
def execVext (d a b : BitVec 6) (cv : BitVec 3) (s : State) : Out :=
  let i := (s.me.reg b.toNat).toNat % 32
  done (s.wide 4 false [a.toNat] [] fun s1 =>
    let x := s1.me
    let l := laneOf (s1.vin a.toNat) i
    let act := BitVec.ofNat 32 (2 ^ i)
    if cv = 0 then { sd := some (d.toNat, BitVec.ofNat 64 (l.toNat % 2 ^ min (laneW x.vclass) 64)), act := act }
    else
      let (v, fl) := convert fmtB64 x.rnd (decodeLane x.vclass l)
      { sd := some (d.toNat, BitVec.ofNat 64 (plainEncode 64 52 v)), fl := fl, act := act, exact := true, need := 16 })

/-! ### Masks (R242) -/

/-- A mask instruction: no window, no mask applied; the entries of its core's wide queue have completed
(R195). -/
def State.kop (s : State) (d : BitVec 6) (f : Slot → BitVec 32) : Out :=
  .next (((s.drainCore s.myCore).modMe fun x => x.setMask d.toNat (f x)).advance 4)

/-- kand (R242). -/
def execKand (d a b : BitVec 6) (s : State) : Out := s.kop d fun x => x.mask a.toNat &&& x.mask b.toNat
/-- kor (R242). -/
def execKor (d a b : BitVec 6) (s : State) : Out := s.kop d fun x => x.mask a.toNat ||| x.mask b.toNat
/-- kxor (R242). -/
def execKxor (d a b : BitVec 6) (s : State) : Out := s.kop d fun x => x.mask a.toNat ^^^ x.mask b.toNat
/-- knot (R242). -/
def execKnot (d a : BitVec 6) (s : State) : Out := s.kop d fun x => ~~~x.mask a.toNat
/-- kfs (R242). -/
def execKfs (d a : BitVec 6) (s : State) : Out := s.kop d fun x => (x.reg a.toNat).setWidth 32
/-- ksf (R242). -/
def execKsf (d a : BitVec 6) (s : State) : Out :=
  .next (((s.drainCore s.myCore).modMe fun x => x.setReg d.toNat ((x.mask a.toNat).setWidth 64)).advance 4)

/-! ### vwin (R244, R245) -/

/-- Bytes that a window change needs beyond what the slot holds are free (R245). -/
def State.poolCovers (s : State) (c n : Nat) : Bool :=
  winBytes c n ≤ s.poolFree s.myCore + winBytes s.me.vcount s.me.vclass

/-- The window request cannot be served now: the pool is short, or an earlier request of the core waits (R180). -/
def State.mustWait (s : State) (grows covers : Bool) : Bool := grows && (!covers || !(s.poolWaits s.myCore).isEmpty)

/-- vwin to c registers of class n (R245); `src` are the registers of the register form. -/
def State.vwin (s : State) (src : Option (Nat × Nat)) (c n : Nat) : Run Unit :=
  let x := s.me
  let bad := (x.binds.map fun b => b.1).filter fun r => c ≤ r
  let grows := winBytes x.vcount x.vclass < winBytes c n
  if !bad.isEmpty then winRun 6 (s.pick bad) s
  else if c = 0 then
    .ok () (((((s.orderVwin s.cur).setWindow s.cur 0 0).advance 4)).servePool s.myCore)
  else if x.inHandler && grows && !s.poolCovers c n then winRun 7 0 s
  else if !x.inHandler && s.mustWait grows (s.poolCovers c n) then .stop (.park (.pool s.myCore) (.vwin src c n)) s
  else
    let s1 := (if grows then s.granted s.myCore else s).orderVwin s.cur
    match s1.vwinPxh s.cur c n with
    | some k => pxhRun k s1
    | none => .ok () (((s1.setWindow s.cur c n).advance 4).servePool s.myCore)

/-- vwin count, class (R244, R245). -/
def execVwinImm (count : BitVec 7) (cls : BitVec 6) (s : State) : Out := done (s.vwin none count.toNat cls.toNat)

/-- vwin a, b (R244, R245): WIN code 5 for a count above 64 or a class above 15; of both, the count is
reported (R218, DESIGN CHOICE: log 87). -/
def execVwinReg (d a : BitVec 6) (s : State) : Out :=
  let c := (s.me.reg d.toNat).toNat
  let n := (s.me.reg a.toNat).toNat
  done (
    if 64 < c then winRun 5 0 s
    else if 15 < n then winRun 5 1 s
    else s.vwin (some (d.toNat, a.toNat)) c n)

end Sys2Proof.Machine
end

