-- ==== Sys2Proof/Machine/VFloat.lean ====
section
/-!
DEFINITION. Variable-length arithmetic (R231 to R236), conversions, ordered sums and dot products (R238 to R241), fused
forms (R243) and the compact floating forms (R247).
-/
namespace Sys2Proof.Machine

/-! ### Rounded lane operations (R221, R232) -/

/-- An operation whose exact result each active lane rounds once. -/
def State.farith (s : State) (size : Nat) (m : BitVec 32) (d : Nat) (reads : List Nat) (f : State → Nat → Res) : Out :=
  done (s.wide size false reads [d] fun s1 => gather m (fun i => s1.me.roundLane (f s1 i)) d true)

/-- The exact value of lane i of a vector operand. -/
def State.lane (s : State) (r i : Nat) : Val := s.me.lv (s.vin r) i

/-- x − y. -/
def subRes (mode : Nat) (x y : Val) : Res := addRes mode x y.neg

/-- A binary operation of major 0x26. -/
def State.fbin (s : State) (size : Nat) (m : BitVec 32) (d a b : Nat) (f : Nat → Val → Val → Res) : Out :=
  s.farith size m d [a, b] fun s1 i => f s1.me.rnd (s1.lane a i) (s1.lane b i)

/-- fadd (R232). -/
def execFadd (d a b : BitVec 6) (k : BitVec 3) (s : State) : Out :=
  s.fbin 4 (s.maskK k) d.toNat a.toNat b.toNat addRes
/-- fsub (R232). -/
def execFsub (d a b : BitVec 6) (k : BitVec 3) (s : State) : Out :=
  s.fbin 4 (s.maskK k) d.toNat a.toNat b.toNat subRes
/-- fmul (R232). -/
def execFmul (d a b : BitVec 6) (k : BitVec 3) (s : State) : Out :=
  s.fbin 4 (s.maskK k) d.toNat a.toNat b.toNat fun _ => mulRes
/-- fdiv (R232). -/
def execFdiv (d a b : BitVec 6) (k : BitVec 3) (s : State) : Out :=
  s.fbin 4 (s.maskK k) d.toNat a.toNat b.toNat fun _ => divRes
/-- fsqrt (R232): the operand is vb. -/
def execFsqrt (d b : BitVec 6) (k : BitVec 3) (s : State) : Out :=
  s.farith 4 (s.maskK k) d.toNat [b.toNat] fun s1 i => sqrtRes (s1.lane b.toNat i)
/-- fscl (R232): va × 2^n, n the clamped scalar. -/
def execFscl (d a b : BitVec 6) (k : BitVec 3) (s : State) : Out :=
  let n := clampInt (-8192) 8191 (s.me.reg b.toNat).toInt
  s.farith 4 (s.maskK k) d.toNat [a.toNat] fun s1 i => scaleRes (s1.lane a.toNat i) n

/-- fround (R233): an inexact lane needs a class that does not exist. -/
def execFround (d b : BitVec 6) (k : BitVec 3) (s : State) : Out :=
  done (s.wide 4 false [b.toNat] [d.toNat] fun s1 =>
    let x := s1.me
    gather (s1.maskK k) (fun i =>
      let (v, fl) := froundVal x.rnd x.L (s1.lane b.toNat i)
      (encodeLane x.vclass v, fl, 16)) d.toNat true)

/-! ### Operations that never round (R234, R236) -/

/-- A lane operation that selects or changes the sign of operands. -/
def State.fpick (s : State) (size : Nat) (m : BitVec 32) (d : Nat) (reads : List Nat) (f : State → Nat → Val × Flags) : Out :=
  done (s.wide size false reads [d] fun s1 =>
    gather m (fun i => let (v, fl) := f s1 i; (encodeLane s1.me.vclass v, fl, 0)) d false)

/-- fmin and fmax of two registers. -/
def State.fmm (s : State) (size : Nat) (m : BitVec 32) (d a b : Nat) (f : Val → Val → Val) : Out :=
  s.fpick size m d [a, b] fun s1 i =>
    (f (s1.lane a i) (s1.lane b i), snanFlag [s1.lane a i, s1.lane b i])

/-- |x|, with the canonical NaN for a NaN. -/
def fabsVal (x : Val) : Val := if x.isNan then .nan false else if x.sign then x.neg else x
/-- −x, with the canonical NaN for a NaN. -/
def fnegVal (x : Val) : Val := if x.isNan then .nan false else x.neg

/-- fabs and fneg of a register. -/
def State.fsgn (s : State) (size : Nat) (m : BitVec 32) (d b : Nat) (f : Val → Val) : Out :=
  s.fpick size m d [b] fun s1 i => (f (s1.lane b i), snanFlag [s1.lane b i])

/-- fmin (R234). -/
def execFmin (d a b : BitVec 6) (k : BitVec 3) (s : State) : Out :=
  s.fmm 4 (s.maskK k) d.toNat a.toNat b.toNat fminVal
/-- fmax (R234). -/
def execFmax (d a b : BitVec 6) (k : BitVec 3) (s : State) : Out :=
  s.fmm 4 (s.maskK k) d.toNat a.toNat b.toNat fmaxVal
/-- fabs (R234). -/
def execFabs (d b : BitVec 6) (k : BitVec 3) (s : State) : Out := s.fsgn 4 (s.maskK k) d.toNat b.toNat fabsVal
/-- fneg (R234). -/
def execFneg (d b : BitVec 6) (k : BitVec 3) (s : State) : Out := s.fsgn 4 (s.maskK k) d.toNat b.toNat fnegVal

/-- fclass (R236): a code in the low bits of each active lane, and no flag. It does not merge: an inactive lane becomes 0
(R219, log 21). -/
def execFclass (d b : BitVec 6) (k : BitVec 3) (s : State) : Out :=
  done (s.wide 4 false [b.toNat] [d.toNat] fun s1 =>
    let m := s1.maskK k
    { vd := some (d.toNat, 0xFFFFFFFF, fun i => if m.getLsbD i then BitVec.ofNat 76 (classBit (s1.lane b.toNat i)) else 0)
      act := m })

/-! ### Compares (R235) -/

/-- A floating compare: 1 in the active lanes where it holds; NV for a signalling NaN, or for any NaN when `quiet` is
false. -/
def State.fcmp (s : State) (d a b : BitVec 6) (k : BitVec 3) (quiet : Bool) (p : Val → Val → Bool) : Out :=
  done (s.wide 4 false [a.toNat, b.toNat] [] fun s1 =>
    let m := s1.maskK k
    let nv (i : Nat) : Bool :=
      let x := s1.lane a.toNat i
      let y := s1.lane b.toNat i
      if quiet then x.snan || y.snan else x.isNan || y.isNan
    { kd := some (d.toNat, maskOf m fun i => p (s1.lane a.toNat i) (s1.lane b.toNat i))
      fl := if (activeLanes m).any nv then flNV else 0
      act := m })

/-- fcmp.eq (R235). -/
def execFcmpEq (d a b : BitVec 6) (k : BitVec 3) (s : State) : Out := s.fcmp d a b k true Val.eqv
/-- fcmp.lt (R235). -/
def execFcmpLt (d a b : BitVec 6) (k : BitVec 3) (s : State) : Out := s.fcmp d a b k false Val.lt
/-- fcmp.le (R235). -/
def execFcmpLe (d a b : BitVec 6) (k : BitVec 3) (s : State) : Out :=
  s.fcmp d a b k false fun x y => Val.lt x y || Val.eqv x y
/-- fcmp.un (R235). -/
def execFcmpUn (d a b : BitVec 6) (k : BitVec 3) (s : State) : Out :=
  s.fcmp d a b k true fun x y => x.isNan || y.isNan

/-! ### Conversions (R238) -/

/-- fcvt.fi (R238): needs integer lanes; an inexact lane needs a class that does not exist. -/
def execFcvtFi (d a : BitVec 6) (k : BitVec 3) (s : State) : Out :=
  done (s.wide 4 true [a.toNat] [d.toNat] fun s1 =>
    gather (s1.maskK k) (fun i =>
      let (v, fl) := toInt32 s1.me.rnd (s1.lane a.toNat i)
      (intLane (BitVec.ofInt 32 v), fl, if fl &&& flNX != 0 then 16 else 0)) d.toNat true)

/-- fcvt.if (R238). -/
def execFcvtIf (d a : BitVec 6) (k : BitVec 3) (s : State) : Out :=
  done (s.wide 4 true [a.toNat] [d.toNat] fun s1 =>
    gather (s1.maskK k) (fun i =>
      s1.me.roundLane (intVal (lane32 (laneOf (s1.vin a.toNat) i)).toInt).toRes) d.toNat true)

/-! ### Ordered sums and reductions (R239 to R241) -/

/-- A node of the tree: a missing child passes the other on. -/
def treeNode (f : Val → Val → Val × Flags) (x y : Option Val × Flags) : Option Val × Flags :=
  match x, y with
  | (none, f1), (v, f2) => (v, f1 ||| f2)
  | (v, f1), (none, f2) => (v, f1 ||| f2)
  | (some a, f1), (some b, f2) => let (v, fl) := f a b; (some v, f1 ||| f2 ||| fl)

/-- One level of the tree. -/
def treeLevel (f : Val → Val → Val × Flags) : List (Option Val × Flags) → List (Option Val × Flags)
  | x :: y :: rest => treeNode f x y :: treeLevel f rest
  | l => l

/-- The root over 32 lanes. -/
def treeRoot (f : Val → Val → Val × Flags) (l : List (Option Val × Flags)) : Option Val × Flags :=
  (treeLevel f (treeLevel f (treeLevel f (treeLevel f (treeLevel f l))))).headD (none, 0)

/-- The lanes of a vector as leaves: inactive ones are absent. -/
def State.leaves (s : State) (a : Nat) (m : BitVec 32) : List (Option Val × Flags) :=
  (List.range 32).map fun i => (if m.getLsbD i then some (s.lane a i) else none, 0)

/-- The sum of R239 at a fraction length. -/
def State.fredsumAt (s : State) (a : Nat) (m : BitVec 32) (L : Nat) : Val × Flags :=
  let (v, fl) := treeRoot (fun x y => (addRes s.me.rnd x y).deliver (fmtReg L) s.me.rnd) (s.leaves a m)
  (v.getD (.zero false), fl)

/-- A result in lane 0, every other lane +0. -/
def lane0 (d : Nat) (l : Lane) : Option (Nat × BitVec 32 × (Nat → Lane)) :=
  some (d, 0xFFFFFFFF, fun i => if i = 0 then l else 0)

/-- fredsum (R239). A root that no node has rounded is one lane, passed on unchanged but for a NaN's payload. -/
def execFredsum (d a : BitVec 6) (k : BitVec 3) (s : State) : Out :=
  done (s.wide 4 false [a.toNat] [d.toNat] fun s1 =>
    let m := s1.maskK k
    let (v, fl) := s1.fredsumAt a.toNat m s1.me.L
    let need := if fl &&& flNX != 0 then
      leastClass fun c => (s1.fredsumAt a.toNat m (classL c)).2 &&& flNX = 0 else 0
    let one := activeLanes m
    let l := match one with
      | [i] => laneOf (s1.vin a.toNat) i
      | _ => encodeLane s1.me.vclass v
    { vd := lane0 d.toNat l, fl := fl, act := m, exact := true, need := need })

/-- fredmax and fredmin by the tree (R240); one active lane is passed on unchanged. -/
def State.fredmm (s : State) (d a : BitVec 6) (k : BitVec 3) (f : Val → Val → Val) (e : Val) : Out :=
  done (s.wide 4 false [a.toNat] [d.toNat] fun s1 =>
    let m := s1.maskK k
    let (v, fl) := treeRoot (fun x y => (f x y, snanFlag [x, y])) (s1.leaves a.toNat m)
    let one := activeLanes m
    let l := match one with
      | [i] => laneOf (s1.vin a.toNat) i
      | _ => encodeLane s1.me.vclass (v.getD e)
    { vd := lane0 d.toNat l, fl := fl, act := m })

/-- fredmax (R240). -/
def execFredmax (d a : BitVec 6) (k : BitVec 3) (s : State) : Out := s.fredmm d a k fmaxVal (.inf true)
/-- fredmin (R240). -/
def execFredmin (d a : BitVec 6) (k : BitVec 3) (s : State) : Out := s.fredmm d a k fminVal (.inf false)

/-- fdot (R241). -/
def execFdot (d a b : BitVec 6) (k : BitVec 3) (s : State) : Out :=
  done (s.wide 4 false [a.toNat, b.toNat] [d.toNat] fun s1 =>
    let ps := (activeLanes (s1.maskK k)).map fun i => (s1.lane a.toNat i, s1.lane b.toNat i)
    let (l, fl, need) := s1.me.roundLane (dotRes (s1.me.rnd = 2) ps)
    { vd := lane0 d.toNat l, fl := fl, act := s1.maskK k, exact := true, need := need })

/-! ### Fused forms (R243) -/

/-- A fused form: the exact value of each active lane, rounded once. -/
def State.fused (s : State) (d a b c : BitVec 6) (k1en : BitVec 1) (np nc : Bool) : Out :=
  s.farith 4 (s.maskBit k1en) d.toNat [a.toNat, b.toNat, c.toNat] fun s1 i =>
    let x := s1.lane a.toNat i
    let z := s1.lane c.toNat i
    fmaRes s1.me.rnd (if np then x.neg else x) (s1.lane b.toNat i) (if nc then z.neg else z)

/-- ffma (R243). -/
def execFfma (d a b c : BitVec 6) (k1en : BitVec 1) (s : State) : Out := s.fused d a b c k1en false false
/-- ffms (R243). -/
def execFfms (d a b c : BitVec 6) (k1en : BitVec 1) (s : State) : Out := s.fused d a b c k1en false true
/-- fnma (R243). -/
def execFnma (d a b c : BitVec 6) (k1en : BitVec 1) (s : State) : Out := s.fused d a b c k1en true false

/-! ### Compact floating forms (R63, R247) -/

/-- c.fadd (R63). -/
def execCFadd (d b : BitVec 5) (m : BitVec 1) (s : State) : Out :=
  s.fbin 2 (s.maskBit m) d.toNat d.toNat b.toNat addRes
/-- c.fsub (R63). -/
def execCFsub (d b : BitVec 5) (m : BitVec 1) (s : State) : Out :=
  s.fbin 2 (s.maskBit m) d.toNat d.toNat b.toNat subRes
/-- c.fmul (R63). -/
def execCFmul (d b : BitVec 5) (m : BitVec 1) (s : State) : Out :=
  s.fbin 2 (s.maskBit m) d.toNat d.toNat b.toNat fun _ => mulRes
/-- c.fmin (R63). -/
def execCFmin (d b : BitVec 5) (m : BitVec 1) (s : State) : Out :=
  s.fmm 2 (s.maskBit m) d.toNat d.toNat b.toNat fminVal
/-- c.fmax (R63). -/
def execCFmax (d b : BitVec 5) (m : BitVec 1) (s : State) : Out :=
  s.fmm 2 (s.maskBit m) d.toNat d.toNat b.toNat fmaxVal
/-- c.fneg (R63): unary, of vb. -/
def execCFneg (d b : BitVec 5) (m : BitVec 1) (s : State) : Out := s.fsgn 2 (s.maskBit m) d.toNat b.toNat fnegVal
/-- c.fabs (R63): unary, of vb. -/
def execCFabs (d b : BitVec 5) (m : BitVec 1) (s : State) : Out := s.fsgn 2 (s.maskBit m) d.toNat b.toNat fabsVal

end Sys2Proof.Machine
end

