-- ==== Sys2Proof/Machine/VMem.lean ====
section
/-!
DEFINITION. Vector loads and stores (R312 to R315), described loads and stores and quantising (R316 to R321), and vector
accumulates (R353, R354).
-/
namespace Sys2Proof.Machine

/-! ### Plain vector accesses -/

/-- Check the elements that some lanes store, in rising order, so that the lowest-numbered faulting lane decides (R314). -/
def State.storeLanes (s : State) (n : Nat) (va : Nat → Nat) (ls : List Nat) : Run (List (Nat × List Chunk)) :=
  Run.mapList (fun i s =>
    (s.resolve s.cur accWrite true true (va i) n).bind fun cs s1 =>
      (formatCheck accWrite cs s1).bind fun _ s2 => .ok (i, cs) s2) ls s

/-- Read the elements of some lanes in rising order, so that the lowest-numbered faulting lane decides (R314). -/
def State.loadLanes (s : State) (n : Nat) (va : Nat → Nat) (ls : List Nat) : Run (List (Nat × Nat)) :=
  Run.mapList (fun i s =>
    (s.resolve s.cur accRead true true (va i) n).bind fun cs s1 =>
      ((s1.syncAmo s1.cur cs).readChunks s1.cur accRead cs).bind fun bs s2 => .ok (i, natOfBytes bs) s2) ls s

/-- Address of lane i in each mode of R312; the gather index is lane i of a vector operand. -/
def State.unitAddr (s : State) (b : BitVec 5) (n i : Nat) : Nat := ((s.reg b).toNat + i * n) % 2 ^ 64
def State.strideAddr (s : State) (b x : BitVec 5) (i : Nat) : Nat :=
  ((((s.reg b).toNat : Int) + i * (s.reg x).toInt) % 2 ^ 64).toNat
def State.indexAddr (s : State) (b x : BitVec 5) (n i : Nat) : Nat :=
  ((((s.reg b).toNat : Int) + (lane32 (laneOf (s.vin x.toNat) i)).toInt * n) % 2 ^ 64).toNat

/-- vld (R312 to R315): `idx` is the index register of mode 2. -/
def State.vld (s : State) (v : BitVec 6) (k ty : BitVec 3) (idx : List Nat) (va : State → Nat → Nat) : Out :=
  let t := ty.toNat
  let float := t = 1 || t = 2 || t = 3
  let s0 := s.drainCore s.myCore
  s.behind ((List.range 32).map fun i => (va s0 i, typeSize t)) fun s => done (s.lateRun 4 (typeInt t || !idx.isEmpty) idx v.toNat fun s1 =>
    let m := s1.maskK k
    (s1.loadLanes (typeSize t) (va s1) (activeLanes m)).bind fun es s2 =>
      let x := s2.me
      .ok (gather m (fun i => loadElem t x.vclass x.L x.rnd (FMap.getD es i 0)) v.toNat float) s2)

/-- vst (R312 to R315): lanes are written in rising order. -/
def State.vst (s : State) (v : BitVec 6) (k ty : BitVec 3) (idx : List Nat) (va : State → Nat → Nat) : Out :=
  let t := ty.toNat
  let s0 := s.drainCore s.myCore
  s.behind ((List.range 32).map fun i => (va s0 i, typeSize t)) fun s => done (s.wideRun 4 (typeInt t || !idx.isEmpty) (v.toNat :: idx) [] fun s1 =>
    let m := s1.maskK k
    (s1.storeLanes (typeSize t) (va s1) (activeLanes m)).bind fun ls s2 =>
      let x := s2.me
      let es := ls.map fun p => (p.2, storeElem t x.vclass x.rnd (laneOf (s2.vin v.toNat) p.1))
      let s3 := es.foldl (fun s e =>
        (s.syncAmo s.cur e.1).postChunks s.cur e.1 (leBytes (typeSize t) e.2.1)) s2
      .ok { fl := es.foldl (fun a e => a ||| e.2.2) 0, act := m } s3)

/-- vld, mode 0 (R312). -/
def execVldUnit (v : BitVec 6) (b : BitVec 5) (k ty : BitVec 3) (s : State) : Out :=
  s.vld v k ty [] fun s1 i => s1.unitAddr b (typeSize ty.toNat) i
/-- vld, mode 1 (R312). -/
def execVldStrided (v : BitVec 6) (b x : BitVec 5) (k ty : BitVec 3) (s : State) : Out :=
  s.vld v k ty [] fun s1 i => s1.strideAddr b x i
/-- vld, mode 2 (R312). -/
def execVldGather (v : BitVec 6) (b x : BitVec 5) (k ty : BitVec 3) (s : State) : Out :=
  s.vld v k ty [x.toNat] fun s1 i => s1.indexAddr b x (typeSize ty.toNat) i
/-- vst, mode 0 (R312). -/
def execVstUnit (v : BitVec 6) (b : BitVec 5) (k ty : BitVec 3) (s : State) : Out :=
  s.vst v k ty [] fun s1 i => s1.unitAddr b (typeSize ty.toNat) i
/-- vst, mode 1 (R312). -/
def execVstStrided (v : BitVec 6) (b x : BitVec 5) (k ty : BitVec 3) (s : State) : Out :=
  s.vst v k ty [] fun s1 i => s1.strideAddr b x i
/-- vst, mode 2 (R312). -/
def execVstScatter (v : BitVec 6) (b x : BitVec 5) (k ty : BitVec 3) (s : State) : Out :=
  s.vst v k ty [x.toNat] fun s1 i => s1.indexAddr b x (typeSize ty.toNat) i

/-! ### Described accesses (R316, R317) -/

/-- FORMAT of an expected FMT that does not suit the instruction (R317). -/
def badFmt {α : Type} (acc f : Nat) (s : State) : Run α := .stop (.trap cFORMAT acc (BitVec.ofNat 64 (2 ^ 64 - 256 + f))) s

/-- Expected FMT and first element of the operand word (R316). -/
def descF (w : Word) : Nat := w.toNat % 256
def descI (w : Word) : Nat := w.toNat / 256

/-- Block number of lane i, and the address of a block number from a base (R40). -/
def blockNum (f i0 i : Nat) : Nat := (i0 + i) / fmtK f
def blockVa (base : Word) (j : Nat) : Nat := (base.toNat / 64 * 64 + 64 * j) % 2 ^ 64

/-- Block numbers of some lanes, each once, in rising order. -/
def blockNums (f i0 : Nat) (ls : List Nat) : List Nat := (ls.map (blockNum f i0)).eraseDups

/-- The blocks that the 32 elements from i0 on reach: addresses and lengths. -/
def blockSpans (f i0 : Nat) (base : Word) : List (Nat × Nat) :=
  (blockNums f i0 (List.range 32)).map fun j => (blockVa base j, 64)

/-- Lane that reaches slot j of a block number, if one of some lanes does. -/
def laneAt (f i0 : Nat) (ls : List Nat) (blk j : Nat) : Option Nat :=
  ls.find? fun i => blockNum f i0 i = blk && (i0 + i) % fmtK f = j

/-- Read blocks whole; every block is checked before an EMPTY one parks the slot (R317, R318). -/
def State.readBlocks (s : State) (acc f : Nat) (base : Word) (park : Bool) (js : List Nat) : Run (List (Nat × Option Block)) :=
  (Run.mapList (fun j s => (s.readBlock s.cur acc cFORMAT (blockVa base j) f).bind fun r s1 => .ok (j, r) s1) js s).bind
    fun rs s1 =>
      match (if park then rs.find? fun r => r.2.2.isNone else none) with
      | some r => .stop (.park (.block r.2.1) .reissue) s1
      | none => .ok (rs.map fun r => (r.1, r.2.2)) s1

/-- vldd (R318). -/
def execVldd (v : BitVec 6) (b x : BitVec 5) (k : BitVec 3) (s : State) : Out :=
  let f := descF (s.reg x)
  let i0 := descI (s.reg x)
  let base := s.reg b
  s.behind (blockSpans f i0 base) fun s => done (s.lateRun 4 false [] v.toNat fun s1 =>
    let m := s1.maskK k
    if !(fmtIsVlf f || fmtIsInt f || f = fmtPEB7 || f = fmtPEB3 || f = fmtXACC) then badFmt accRead f s1
    else
      (s1.readBlocks accRead f base true (blockNums f i0 (activeLanes m))).bind fun bs s2 =>
        let y := s2.me
        let one (i : Nat) : LaneOut :=
          loadDesc y.vclass y.L y.rnd ((FMap.getD bs (blockNum f i0 i) none).getD emptyBlock) ((i0 + i) % fmtK f)
        .ok (gather m one v.toNat true) s2)

/-- Blocks to be written: place and value, with their flags and the class that exact mode needs (R53). -/
structure BlockOut where
  loc : Loc
  block : Block
  fl : Flags
  need : Nat

/-- The VLF block of class n that some values form in a rounding mode (R53). -/
def formBlock (loc : Loc) (mode n : Nat) (xs : List Val) : BlockOut :=
  let (b, fl) := vstdBlock mode n xs
  { loc := loc, block := b, fl := fl, need := if fl &&& flNX != 0 then vstdClassNeeded mode b.scl xs else 0 }

/-- Post blocks, unless exact mode forbids it (R42, R319, R320); `m` are the active lanes. -/
def State.postBlocks (s : State) (m : BitVec 32) (bs : List BlockOut) : Run VOut :=
  let fl := bs.foldl (fun a b => a ||| b.fl) 0
  let need := bs.foldl (fun a b => max a b.need) 0
  .ok { fl := fl, act := m, exact := true, need := need } (bs.foldl (fun s b => s.postStore s.cur b.loc b.block) s)

/-- The value that lane i supplies to vstd: +0 when it is inactive. -/
def State.supplied (s : State) (v : Nat) (m : BitVec 32) (o : Option Nat) : Val :=
  match o with
  | some i => if m.getLsbD i then s.lane v i else .zero false
  | none => .zero false

/-- vstd (R319). -/
def execVstd (v : BitVec 6) (b x : BitVec 5) (k : BitVec 3) (s : State) : Out :=
  let f := descF (s.reg x)
  let i0 := descI (s.reg x)
  let base := s.reg b
  s.behind (blockSpans f i0 base) fun s => done (s.wideRun 4 false [v.toNat] [] fun s1 =>
    let m := s1.maskK k
    let ls := List.range 32
    if !fmtIsVlf f then badFmt accWrite f s1
    else
      (Run.mapList (fun j s => (s.blockLoc s.cur accWrite cFORMAT (blockVa base j)).bind fun l s2 => .ok (j, l) s2)
        (blockNums f i0 ls) s1).bind fun locs s2 =>
          s2.postBlocks m (locs.map fun p =>
            formBlock p.2 s2.me.rnd (f - 0x10) ((List.range (fmtK f)).map fun j =>
              s2.supplied v.toNat m (laneAt f i0 ls p.1 j))))

/-- vstdp (R54, R320). -/
def execVstdp (v : BitVec 6) (b x : BitVec 5) (k : BitVec 3) (s : State) : Out :=
  let f := descF (s.reg x)
  let i0 := descI (s.reg x)
  let base := s.reg b
  s.behind (blockSpans f i0 base) fun s => done (s.wideRun 4 false [v.toNat] [] fun s1 =>
    let ls := activeLanes (s1.maskK k)
    if !fmtIsVlf f then badFmt accRW f s1
    else
      let js := blockNums f i0 ls
      (s1.readBlocks accRW f base false js).bind fun olds s2 =>
        (Run.mapList (fun j s => (s.blockLoc s.cur accRW cFORMAT (blockVa base j)).bind fun l s3 => .ok (j, l) s3) js s2).bind
          fun locs s3 =>
            s3.postBlocks (s3.maskK k) (locs.map fun p =>
              let old := (FMap.getD olds p.1 none).getD emptyBlock
              formBlock p.2 s3.me.rnd (f - 0x10) ((List.range (fmtK f)).map fun j =>
                match laneAt f i0 ls p.1 j with
                | some i => s3.lane v.toNat i
                | none => old.elem j)))

/-- vqnt of n registers from v (R321); it never raises PXH (R56). -/
def State.vqnt (s : State) (v : BitVec 6) (b : BitVec 5) (n : Nat) : Out :=
  let rs := (List.range n).map fun i => v.toNat + i
  s.behind [(blockVa (s.reg b) 0, 64)] fun s => done (s.wideRun 4 false rs [] fun s1 =>
    (s1.blockLoc s1.cur accWrite cFORMAT (blockVa (s1.reg b) 0)).bind fun loc s2 =>
      let xs := rs.flatMap fun r => (List.range 32).map fun i => s2.lane r i
      let (blk, fl) := vqntBlock (n = 2) xs
      .ok { fl := fl, lossy := true } (s2.postStore s2.cur loc blk))

/-- vqnt.peb7 (R321). -/
def execVqntPeb7 (v : BitVec 6) (b : BitVec 5) (s : State) : Out := s.vqnt v b 2
/-- vqnt.peb3 (R321). -/
def execVqntPeb3 (v : BitVec 6) (b : BitVec 5) (s : State) : Out := s.vqnt v b 4

/-! ### Vector accumulates (R353, R354) -/

/-- The addend of a lane for a type of R353: element bits and flags. -/
def accElem (t n : Nat) (l : Lane) : Nat × Flags :=
  if t = 0 then (l.toNat % 2 ^ 32, 0)
  else if t = 1 then ((signedOf 32 l.toNat % 2 ^ 64).toNat, 0)
  else if t = 2 then let (v, fl) := convert fmtB32 0 (decodeLane n l); (plainEncode 32 23 v, fl)
  else let (v, fl) := convert fmtB64 0 (decodeLane n l); (plainEncode 64 52 v, fl)

/-- acc (R353): one request for each unit that an active lane adds to; with no active lane nothing is touched. -/
def execAcc (v : BitVec 6) (b : BitVec 5) (k ty : BitVec 3) (s : State) : Out :=
  let t := ty.toNat
  let n := if t = 0 || t = 2 then 4 else 8
  s.behind [((s.reg b).toNat, 32 * n)] fun s => done (s.wideRun 4 (t < 2) [v.toNat] [] fun s1 =>
    let va := (s1.reg b).toNat
    let ls := activeLanes (s1.maskK k)
    if va % (32 * n) != 0 then trapAt cALIGN accRW va s1
    else match ls.head? with
    | none => .ok { act := 0 } s1
    | some lo =>
      (s1.accTarget (va + lo * n) n false).bind fun (pl, ck, g, dom) s2 =>
        let pa := pl - lo * n
        let u := unitLen g
        let es := ls.map fun i => (i, accElem t s2.me.vclass (laneOf (s2.vin v.toNat) i))
        let units := (es.map fun e => e.1 * n / u).eraseDups
        let s3 := units.foldl (fun s j =>
          let mine := es.filter fun e => e.1 * n / u = j
          s.issueAcc s.cur (pa + j * u) (va + j * u) ck g dom
            (.plain n (2 ≤ t) (mine.map fun e => (e.1 - j * (u / n), e.2.1)))) s2
        .ok { fl := es.foldl (fun a e => a ||| e.2.2) 0, act := s1.maskK k } s3)

/-- acc.d (R354). -/
def execAccD (v : BitVec 6) (b x : BitVec 5) (k : BitVec 3) (s : State) : Out :=
  let f := descF (s.reg x)
  let i0 := descI (s.reg x)
  let base := s.reg b
  s.behind (blockSpans f i0 base) fun s => done (s.wideRun 4 false [v.toNat] [] fun s1 =>
    let ls := activeLanes (s1.maskK k)
    if !(fmtIsVlf f || fmtIsInt f || f = fmtXACC) then badFmt accRW f s1
    else
      (Run.mapList (fun j s => (s.accTarget (blockVa base j) 64 true).bind fun r s2 => .ok (j, r) s2)
        (blockNums f i0 ls) s1).bind fun ts s2 =>
          let es := ls.map fun i => (i, s2.lane v.toNat i)
          let odd (y : Val) : Bool := match y with | .nan _ => true | .inf _ => true | _ => false
          let kept := if fmtIsVlf f then es else es.filter fun e => !odd e.2
          let s3 := ts.foldl (fun s p =>
            let mine := (kept.filter fun e => blockNum f i0 e.1 = p.1).map fun e => ((i0 + e.1) % fmtK f, e.2)
            let (pa, ck, g, dom) := p.2
            if mine.isEmpty then s else s.issueAcc s.cur pa (blockVa base p.1) ck g dom (.desc f mine)) s2
          .ok { fl := if kept.length < es.length then flNV else 0, act := s1.maskK k } s3)

end Sys2Proof.Machine
end

