-- ==== Sys2Proof/Machine/Tile.lean ====
section
/-!
DEFINITION. Tiles: where elements lie and what they are worth (R249, R250), whole-tile writes, and the WIN checks of the
matrix instructions (R253).
-/
namespace Sys2Proof.Machine

/-! ### Tags (R181) -/

def tACC32 : Nat := 0
def tACCI32 : Nat := 1
def tBF16 : Nat := 2
def tPEB7 : Nat := 3
def tPEB3 : Nat := 4
def tI8 : Nat := 5

/-- Elements per row (R249). -/
def tagCols (g : Nat) : Nat :=
  if g = tBF16 then 64 else if g = tPEB7 || g = tI8 then 128 else if g = tPEB3 then 256 else 32

/-! ### Elements -/

/-- The bytes of a tile's rows. -/
def Tile.rowBytes (x : Tile) (r : Nat) : List Byte := Memory.readN x.data (128 * r) 128
/-- Side bytes of a row. -/
def Tile.sideBytes (x : Tile) (r : Nat) : List Byte := Memory.readN x.side (8 * r) 8

/-- The raw element c of a row of a tag (R249). -/
def rawElem (g : Nat) (row : List Byte) (c : Nat) : Nat :=
  let rd (off n : Nat) : Nat := natOfBytes ((row.drop off).take n)
  if g = tBF16 then rd (2 * c) 2
  else if g = tI8 then rd c 1
  else if g = tPEB7 then rd c 1 % 128
  else if g = tPEB3 then rd (c / 2) 1 / 2 ^ (4 * (c % 2)) % 8
  else rd (4 * c) 4

/-- The raw elements of a row. -/
def rawRow (g : Nat) (row : List Byte) : List Nat := (List.range (tagCols g)).map (rawElem g row)

/-- SCL, gap field and NAN bit of block b of a row (R250). -/
def sideScl (sd : List Byte) (b : Nat) : Int := (sd.getD b 0).toInt
def sideGap (sd : List Byte) (b : Nat) : Nat := natOfBytes ((sd.drop (2 + 2 * b)).take 2)
def sideNan (sd : List Byte) (b : Nat) : Bool := bitOf (sd.getD 6 0).toNat b

/-- The value of a raw element c of a row, floating or integer (R249, R250). -/
def elemVal (g : Nat) (sd : List Byte) (c w : Nat) : Val :=
  if g = tACC32 then b32Val w
  else if g = tACCI32 then intVal (signedOf 32 w)
  else if g = tBF16 then plainDecode 16 7 w
  else if g = tI8 then intVal (signedOf 8 w)
  else
    let per := if g = tPEB7 then 64 else 128
    let b := c / per
    let gap := sideGap sd b / 2 ^ (4 * (c % per / 32)) % 16
    if sideNan sd b then .nan false
    else if g = tPEB7 then peb7Val (sideScl sd b) gap w
    else peb3Val (sideScl sd b) gap w

/-- The values of a tile by rows. -/
def Tile.vals (x : Tile) : List (List Val) :=
  (List.range 32).map fun r =>
    let sd := x.sideBytes r
    (rawRow x.tag (x.rowBytes r)).zipIdx.map fun p => elemVal x.tag sd p.2 p.1

/-- The raw elements of a tile by rows. -/
def Tile.raws (x : Tile) : List (List Nat) := (List.range 32).map fun r => rawRow x.tag (x.rowBytes r)

/-- Element (i, j) of rows. -/
def elemAt {α : Type} (d : α) (rows : List (List α)) (i j : Nat) : α := (rows.getD i []).getD j d
def valAt (rows : List (List Val)) (i j : Nat) : Val := elemAt (.zero false) rows i j
def rawAt (rows : List (List Nat)) (i j : Nat) : Nat := elemAt 0 rows i j

/-! ### Whole tiles -/

/-- A memory from bytes at an address, zero bytes left out. -/
def memOf (a : Nat) : List Byte → Memory
  | [] => []
  | b :: bs => if b = 0 then memOf (a + 1) bs else (a, b) :: memOf (a + 1) bs

/-- Bytes of one element of a tag with whole bytes. -/
def tagBytes (g : Nat) : Nat := if g = tBF16 then 2 else if g = tI8 then 1 else 4

/-- A tile of a tag with whole-byte elements, its sideband zero (R250). Holds stay with the storage (R125). -/
def Tile.withRows (x : Tile) (g : Nat) (rows : List (List Nat)) : Tile :=
  { x with data := memOf 0 (rows.flatMap fun row => row.flatMap (leBytes (tagBytes g))), tag := g, side := [] }

/-- A 32 × 32 grid from a function of its indexes. -/
def grid {α : Type} (f : Nat → Nat → α) : List (List α) := (List.range 32).map fun i => (List.range 32).map (f i)

/-- Flags of a grid of results. -/
def gridFlags {α : Type} (g : List (List (α × Flags))) : Flags :=
  g.foldl (fun a row => row.foldl (fun a x => a ||| x.2) a) 0
def gridVals {α : Type} (g : List (List (α × Flags))) : List (List α) := g.map fun row => row.map fun x => x.1

/-! ### Checks (R253) -/

/-- WIN codes 8 to 10: tiles inside the window, accepted tags, no write of a held tile. `named` are the tiles that the
instruction names, `bad` the operand of code 9. -/
def State.tileCheck (s : State) (named : List Nat) (bad : State → Option Nat) (written : List Nat) : Run Unit :=
  let out := named.filter fun t => s.me.tcount ≤ t
  let held := written.filter fun t => s.tileHeld s.cur t
  if s.me.tcount = 0 || !out.isEmpty then winRun 8 (s.pick out) s
  else match bad s with
    | some v => winRun 9 v s
    | none => if !held.isEmpty then winRun 10 (s.pick held) s else .ok () s

/-- Tag of tile t of the slot's window. -/
def State.tagOf (s : State) (t : Nat) : Nat := (s.tile s.cur t).tag

/-- A matrix instruction that writes one tile: checks, then the new tile with its flags (R195, R253, R254). -/
def State.matrix (s : State) (td : Nat) (named : List Nat) (bad : State → Option Nat) (f : State → Tile × Flags) : Out :=
  done ((s.tileCheck (td :: named) bad [td]).bind fun _ s1 =>
    let s2 := s1.drainCore s1.myCore
    let (x, fl) := f s2
    .ok () (((s2.setTile s2.cur td x).orFlags s2.cur fl).advance 4))

/-- Code 9 by the order of R253: each test with the operand it names. -/
def firstBad : List (Bool × Nat) → Option Nat
  | [] => none
  | (b, v) :: rest => if b then some v else firstBad rest

end Sys2Proof.Machine
end

