-- ==== Sys2Proof/Machine/Matrix.lean ====
section
/-!
DEFINITION. Products, sums and conversions of tiles (R256 to R263).
-/
namespace Sys2Proof.Machine

/-! ### Groups (R257) -/

/-- The exact result of a sum as a value, with its flags. -/
def resVal (r : Res) : Val × Flags :=
  match r with
  | .special v fl => (v, fl)
  | .exact s m e _ => (.fin s m e, 0)

/-- c + s rounded once to binary32 (R254, R257). -/
def groupAdd (a : Val × Flags) (ps : List (Val × Val)) : Val × Flags :=
  let (t, f1) := resVal (dotRes false ps)
  let (v, f2) := rne32 (addRes 0 a.1 t)
  (v, a.2 ||| f1 ||| f2)

/-- Groups of 32 of a list. -/
def groups {α : Type} (l : List α) : List (List α) :=
  (List.range ((l.length + 31) / 32)).map fun g => (l.drop (32 * g)).take 32

/-- The integer that a value of I8 or ACCI32 is. -/
def intOf (v : Val) : Int := match v with | .fin s m e => sInt s (m * 2 ^ e.toNat) | _ => 0

/-- One element of C: a product of two rows added in groups, floating or modulo 2^32 (R257). -/
def rowProduct (float : Bool) (c : Nat) (ps : List (Val × Val)) : Nat × Flags :=
  if float then
    let (v, fl) := (groups ps).foldl groupAdd (b32Val c, 0)
    (b32Bits v, fl)
  else (((c : Int) + ps.foldl (fun a p => a + intOf p.1 * intOf p.2) 0) % 2 ^ 32 |> Int.toNat, 0)

/-- C + A × B over rows of operand values. -/
def Tile.mulAdd (x : Tile) (float : Bool) (A B : List (List Val)) : Tile × Flags :=
  let C := x.raws
  let g := grid fun i j => rowProduct float (rawAt C i j) ((A.getD i []).zip (B.getD j []))
  (x.withRows (if float then tACC32 else tACCI32) (gridVals g), gridFlags g)

/-- An ACC32 operand rounded to class min(PRC.p, 5) (R256). -/
def roundOperand (p : Nat) (v : Val) : Val × Flags :=
  match v with
  | .fin s m e => roundTo (fmtReg (classL (min p 5))) 0 s m e false
  | v => (v, 0)

/-- The down-converter of mma.dc (R256). A signalling NaN keeps its kind until the product. -/
def downConvert (v : Val) : Val × Flags :=
  match v with
  | .fin s m e => roundTo fmtBF16 0 s m e false
  | v => (v, 0)

/-- The rows of an operand as the multiplier sees them. -/
def State.operand (s : State) (t : Nat) : List (List (Val × Flags)) :=
  let x := s.tile s.cur t
  let p := s.me.prc.toNat % 16
  x.vals.map fun row => row.map fun v => if x.tag = tACC32 then roundOperand p v else (v, 0)

/-! ### mma (R256 to R258) -/

/-- The tag of C for operands of a tag. -/
def accTag (g : Nat) : Nat := if g = tI8 then tACCI32 else tACC32

/-- mma (R256). -/
def execMma (d a b : BitVec 4) (s : State) : Out :=
  s.matrix d.toNat [a.toNat, b.toNat]
    (fun s => firstBad [(s.tagOf a.toNat = tACCI32, 1), (s.tagOf b.toNat != s.tagOf a.toNat, 2),
      (s.tagOf d.toNat != accTag (s.tagOf a.toNat), 0)])
    fun s =>
      let A := s.operand a.toNat
      let B := s.operand b.toNat
      let (x, fl) := (s.tile s.cur d.toNat).mulAdd (s.tagOf a.toNat != tI8) (gridVals A) (gridVals B)
      (x, fl ||| gridFlags A ||| gridFlags B)

/-- mma.dc (R256): the accumulator operand goes through the down-converter. -/
def execMmaDc (d a b : BitVec 4) (h : BitVec 1) (s : State) : Out :=
  s.matrix d.toNat [a.toNat, b.toNat]
    (fun s => firstBad [(s.tagOf a.toNat != tACC32, 1), (s.tagOf b.toNat != tBF16, 2), (s.tagOf d.toNat != tACC32, 0)])
    fun s =>
      let A := (s.tile s.cur a.toNat).vals.map fun row => row.map downConvert
      let B := (s.tile s.cur b.toNat).vals.map fun row => row.drop (32 * h.toNat)
      let (x, fl) := (s.tile s.cur d.toNat).mulAdd true (gridVals A) B
      (x, fl ||| gridFlags A)

/-! ### mmab (R259) -/

/-- Parts of a tag that mmab accepts. -/
def mmabParts (g : Nat) : Nat := if g = tBF16 then 2 else if g = tI8 then 4 else if g = tACC32 then 1 else 0

/-- mmab (R259). -/
def execMmab (d a b : BitVec 4) (part : BitVec 2) (s : State) : Out :=
  s.matrix d.toNat [a.toNat, b.toNat]
    (fun s => firstBad [(mmabParts (s.tagOf a.toNat) = 0, 1), (s.tagOf b.toNat != s.tagOf a.toNat, 2),
      (s.tagOf d.toNat != accTag (s.tagOf a.toNat), 0), (mmabParts (s.tagOf a.toNat) ≤ part.toNat, 4)])
    fun s =>
      let cut (t : Nat) : List (List (Val × Flags)) :=
        (s.operand t).map fun row => (row.drop (32 * part.toNat)).take 32
      let A := cut a.toNat
      let B := cut b.toNat
      let x := s.tile s.cur d.toNat
      let C := x.raws
      let float := s.tagOf a.toNat != tI8
      let g := grid fun i j =>
        let q := j / 8
        let row (m : List (List (Val × Flags))) (r : Nat) : List Val :=
          (((m.getD r []).drop (8 * q)).take 8).map fun v => v.1
        rowProduct float (rawAt C i j) ((row A i).zip (row B (8 * (i / 8) + j % 8)))
      (x.withRows (accTag (s.tagOf a.toNat)) (gridVals g), gridFlags g ||| gridFlags A ||| gridFlags B)

/-! ### mmas (R260) -/

/-- The logical row that 16 slots of each group and the masks stand for: none where a position is not retained. -/
def expandRow (slots : List Val) (masks : List Nat) : List (Option Val) :=
  masks.zipIdx.flatMap fun g =>
    (List.range 32).map fun p =>
      let rank := popcount g.1 p
      if bitOf g.1 p && rank < 16 then some (slots.getD (16 * g.2 + rank) (.zero false)) else none

/-- mmas (R260). -/
def execMmas (d a b c : BitVec 4) (s : State) : Out :=
  let b1 := b.toNat + 1
  s.matrix d.toNat [a.toNat, b.toNat, b1, c.toNat]
    (fun s => firstBad [(s.tagOf a.toNat = tACCI32 || s.tagOf a.toNat = tACC32, 1),
      (s.tagOf b.toNat != s.tagOf a.toNat || s.tagOf b1 != s.tagOf b.toNat, 2), (s.tagOf c.toNat != tACCI32, 3),
      (s.tagOf d.toNat != accTag (s.tagOf a.toNat), 0)])
    fun s =>
      let K := 2 * tagCols (s.tagOf a.toNat)
      let M := (s.tile s.cur c.toNat).raws
      let A := (s.tile s.cur a.toNat).vals.zipIdx.map fun r =>
        expandRow r.1 ((M.getD r.2 []).take (K / 32))
      let B := ((s.tile s.cur b.toNat).vals.zip (s.tile s.cur b1).vals).map fun p => p.1 ++ p.2
      let x := s.tile s.cur d.toNat
      let C := x.raws
      let float := s.tagOf a.toNat != tI8
      let g := grid fun i j =>
        rowProduct float (rawAt C i j) (((A.getD i []).zip (B.getD j [])).map fun p =>
          match p.1 with
          | some v => (v, p.2)
          | none => (.zero false, .zero false))
      (x.withRows (accTag (s.tagOf a.toNat)) (gridVals g), gridFlags g)

/-! ### maddt, msubt, mscl, mzero (R261) -/

/-- maddt and msubt. -/
def State.mAddSub (s : State) (d a b : BitVec 4) (sub : Bool) : Out :=
  s.matrix d.toNat [a.toNat, b.toNat]
    (fun s => firstBad [(s.tagOf a.toNat != tACC32 && s.tagOf a.toNat != tACCI32, 1),
      (s.tagOf b.toNat != s.tagOf a.toNat, 2)])
    fun s =>
      let A := (s.tile s.cur a.toNat).raws
      let B := (s.tile s.cur b.toNat).raws
      let g := grid fun i j =>
        let x := rawAt A i j
        let y := rawAt B i j
        if s.tagOf a.toNat = tACC32 then
          let (v, fl) := rne32 (addRes 0 (b32Val x) (if sub then (b32Val y).neg else b32Val y))
          (b32Bits v, fl)
        else ((if sub then x + 2 ^ 32 - y else x + y) % 2 ^ 32, 0)
      ((s.tile s.cur d.toNat).withRows (s.tagOf a.toNat) (gridVals g), gridFlags g)

/-- maddt (R261). -/
def execMaddt (d a b : BitVec 4) (s : State) : Out := s.mAddSub d a b false
/-- msubt (R261). -/
def execMsubt (d a b : BitVec 4) (s : State) : Out := s.mAddSub d a b true

/-- mscl (R261). -/
def execMscl (d a : BitVec 4) (b : BitVec 5) (s : State) : Out :=
  let w := (s.reg b).toNat % 2 ^ 32
  s.matrix d.toNat [a.toNat]
    (fun s => firstBad [(s.tagOf a.toNat != tACC32 && s.tagOf a.toNat != tACCI32, 1)])
    fun s =>
      let A := (s.tile s.cur a.toNat).raws
      let g := grid fun i j =>
        let x := rawAt A i j
        if s.tagOf a.toNat = tACC32 then
          let (v, fl) := rne32 (mulRes (b32Val x) (b32Val w))
          (b32Bits v, fl)
        else (x * w % 2 ^ 32, 0)
      ((s.tile s.cur d.toNat).withRows (s.tagOf a.toNat) (gridVals g), gridFlags g)

/-- mzero (R261). -/
def execMzero (d tag : BitVec 4) (s : State) : Out :=
  s.matrix d.toNat [] (fun _ => none) fun s =>
    ({ s.tile s.cur d.toNat with data := [], tag := tag.toNat, side := [] }, 0)

/-! ### mcvt (R262) -/

/-- Number of h values that a conversion accepts, 0 where the source tag is not listed. -/
def mcvtH (target src : Nat) : Nat :=
  if target = tACC32 then
    (if src = tACCI32 then 1 else if src = tBF16 then 2 else if src = tI8 || src = tPEB7 then 4
     else if src = tPEB3 then 8 else 0)
  else if target = tACCI32 then (if src = tACC32 then 1 else if src = tI8 then 4 else 0)
  else if src = tACC32 then 2 else 0

/-- One converted element. -/
def mcvtElem (target : Nat) (v : Val) : Nat × Flags :=
  if target = tACC32 then let (w, fl) := rne32 v.toRes; (b32Bits w, fl)
  else if target = tACCI32 then let (t, fl) := toInt32 0 v; ((t % 2 ^ 32).toNat, fl)
  else let (w, fl) := convert fmtBF16 0 v; (plainEncode 16 7 w, fl)

/-- Half h of a BF16 tile replaced by a grid; the other half stays when the tile was BF16 and is +0 otherwise. -/
def Tile.withHalf (x : Tile) (h : Nat) (g : List (List Nat)) : Tile :=
  let old := if x.tag = tBF16 then x.raws else List.replicate 32 (List.replicate 64 0)
  x.withRows tBF16 ((old.zip g).map fun p => if h = 0 then p.2 ++ p.1.drop 32 else p.1.take 32 ++ p.2)

/-- mcvt (R262). -/
def execMcvt (d a : BitVec 4) (h : BitVec 3) (tag : BitVec 4) (s : State) : Out :=
  s.matrix d.toNat [a.toNat]
    (fun s => firstBad [(mcvtH tag.toNat (s.tagOf a.toNat) = 0, 1), (mcvtH tag.toNat (s.tagOf a.toNat) ≤ h.toNat, 4)])
    fun s =>
      let A := (s.tile s.cur a.toNat).vals
      let x := s.tile s.cur d.toNat
      let off := if tag.toNat = tBF16 then 0 else 32 * h.toNat
      let g := grid fun i j => mcvtElem tag.toNat (valAt A i (off + j))
      (if tag.toNat = tBF16 then x.withHalf h.toNat (gridVals g) else x.withRows tag.toNat (gridVals g), gridFlags g)

/-! ### mtrn (R263) -/

/-- mtrn (R263). -/
def execMtrn (d a : BitVec 4) (h : BitVec 1) (s : State) : Out :=
  s.matrix d.toNat [a.toNat]
    (fun s => firstBad [(2 < s.tagOf a.toNat, 1), (s.tagOf a.toNat != tBF16 && h = 1, 4)])
    fun s =>
      let A := (s.tile s.cur a.toNat).raws
      let x := s.tile s.cur d.toNat
      let g := grid fun i j => rawAt A j (32 * h.toNat + i)
      (if s.tagOf a.toNat = tBF16 then x.withHalf h.toNat g else x.withRows (s.tagOf a.toNat) g, 0)

end Sys2Proof.Machine
end

