-- ==== Sys2Proof/Machine/Solver.lean ====
section
/-!
DEFINITION. The solver instructions (R267 to R270).
-/
namespace Sys2Proof.Machine

/-! ### Deadlines and SLV (R267, R270) -/

/-- TIME at the completion of an instruction of a latency in clk (R185, R255). -/
def State.timeAfter (s : State) (lat : Nat) : Nat := (s.clk + lat) * 10 / 7

/-- The completion at a TIME is late (R270). -/
def Slot.late (x : Slot) (t : Nat) : Bool := x.dln != 0 && x.dln.toNat < t

/-- SLV with DLM set or clear. -/
def Slot.setDlm (x : Slot) (b : Bool) : Slot :=
  { x with slv := BitVec.ofNat 64 (x.slv.toNat % 2 ^ 16 + b2n b * 2 ^ 16) }

/-- A latency in clk of an instruction whose latency is its occupancy, at the wide duty of its die (R255, R460). -/
def State.stretch (s : State) (lat : Nat) : Nat :=
  let d := max 1 (s.dieAt (dieOf s.cur)).duty
  (lat * 16 + d - 1) / d

/-- A solver instruction of a latency ends: DEADLINE with only DLM changed, or its effect (R270). -/
def State.solved (s : State) (lat : Nat) (f : State → State) : Run Unit :=
  let t := s.timeAfter (s.stretch lat)
  if s.me.late t then .ok () (s.trapWith (trapBits cDEADLINE 0) (BitVec.ofNat 64 t) fun x => x.setDlm true)
  else .ok () ((f s).advance 4)

/-! ### mchol (R268) -/

/-- L[i][k] × L[j][k] × D[k], exact, negated, with its flags. -/
def tripleNeg (a b d : Val) : Val × Flags :=
  let (p, f1) := resVal (mulRes a b)
  let (q, f2) := resVal (mulRes p d)
  (q.neg, f1 ||| f2)

/-- x less the triples, exact, with the flags of its parts (R33). -/
def lessSum (x : Val) (ts : List (Val × Flags)) : Res × Flags :=
  (dotRes false ((x, .fin false 1 0) :: ts.map fun t => (t.1, Val.fin false 1 0)),
    ts.foldl (fun a t => a ||| t.2) 0)

/-- What mchol has computed: columns of L below the diagonal and bits of D so far, newest last; replaced pivots. -/
structure Chol where
  /-- column k: L[i][k] for i = 0 to 31, zero where i ≤ k -/
  cols : List (List Nat)
  diag : List Nat
  first : Nat
  count : Nat
  fl : Flags

/-- The triples of rows i and j over the columns already computed. -/
def Chol.triples (c : Chol) (i j : Nat) : List (Val × Flags) :=
  (c.cols.zip c.diag).map fun p => tripleNeg (b32Val (p.1.getD i 0)) (b32Val (p.1.getD j 0)) (b32Val p.2)

/-- Binary32 bits as a binary32 tile holds them: a NaN is the canonical one (R25, R254). -/
def canon32 (w : Nat) : Nat := if (b32Val w).isNan then b32Bits (.nan false) else w

/-- Column j of the factorisation. -/
def Chol.column (A : List (List Nat)) (tau rgv : Nat) (c : Chol) (j : Nat) : Chol :=
  let (n, f0) := lessSum (b32Val (rawAt A j j)) (c.triples j j)
  let (d0, f1) := rne32 n
  let bad := d0.isNan || Val.lt d0 (b32Val tau) || Val.eqv d0 (b32Val tau)
  let d := if bad then canon32 rgv else b32Bits d0
  let col := (List.range 32).map fun i =>
    if i ≤ j then (0, (0 : Flags))
    else
      let (m, f2) := lessSum (b32Val (rawAt A i j)) (c.triples i j)
      let (x, f3) := resVal m
      let (q, f4) := rne32 (divRes x (b32Val d))
      (b32Bits q, f2 ||| f3 ||| f4)
  { cols := c.cols ++ [col.map fun e => e.1]
    diag := c.diag ++ [d]
    first := if bad && c.count = 0 then j else c.first
    count := c.count + b2n bad
    fl := col.foldl (fun a e => a ||| e.2) (c.fl ||| f0 ||| f1 ||| (if bad then flPVT else 0)) }

/-- The whole factorisation of the lower triangle of A. -/
def cholesky (A : List (List Nat)) (tau rgv : Nat) : Chol :=
  (List.range 32).foldl (Chol.column A tau rgv) { cols := [], diag := [], first := 0, count := 0, fl := 0 }

/-- Rows of the tile that mchol writes. -/
def Chol.rows (c : Chol) : List (List Nat) :=
  grid fun i j => if i = j then c.diag.getD i 0 else if j < i then elemAt 0 c.cols j i else 0

/-- SLV after a completed mchol; FIRST is not stated when no pivot was replaced (log 6). -/
def Chol.slv (c : Chol) (free : Nat) : Word :=
  BitVec.ofNat 64 ((if c.count = 0 then free % 32 else c.first + 32) + c.count * 2 ^ 8)

/-- mchol (R268, R270). -/
def execMchol (d a : BitVec 4) (s : State) : Out :=
  done ((s.tileCheck [d.toNat, a.toNat] (fun s => firstBad [(s.tagOf a.toNat != tACC32, 1)]) [d.toNat]).bind fun _ s1 =>
    (s1.drainCore s1.myCore).solved 320 fun s2 =>
      let x := s2.me
      let c := cholesky (s2.tile s2.cur a.toNat).raws (x.tau.toNat) (x.rgv.toNat)
      ((s2.setTile s2.cur d.toNat ((s2.tile s2.cur d.toNat).withRows tACC32 c.rows)).orFlags s2.cur c.fl).modMe fun y =>
        { y with slv := c.slv (Config.unstated s2.tick 267) })

/-! ### mtrsv (R269) -/

/-- One lane's value under round_vlf. -/
def Slot.roundVlf (x : Slot) (r : Res) : Val × Flags := r.deliver (fmtReg x.L) x.rnd

/-- x_i less the products of some coefficients and values, rounded once. -/
def Slot.lessProducts (x : Slot) (xi : Val) (ps : List (Val × Val)) : Val × Flags :=
  x.roundVlf (dotRes (x.rnd = 2) ((xi, .fin false 1 0) :: ps.map fun p => (p.1.neg, p.2)))

/-- Forward substitution: results of lanes 0 to 31 in order (R269). -/
def Slot.fwd (x : Slot) (M : List (List Val)) (xs : List Val) : List Val × Flags :=
  (List.range 32).foldl (fun t i =>
    let (y, fl) := x.lessProducts (xs.getD i (.zero false)) ((List.range i).map fun k => (valAt M i k, t.1.getD k (.zero false)))
    (t.1 ++ [y], t.2 ||| fl)) ([], 0)

/-- Division by the diagonal (R269). -/
def Slot.diagSolve (x : Slot) (M : List (List Val)) (xs : List Val) : List Val × Flags :=
  let rs := (List.range 32).map fun i => x.roundVlf (divRes (xs.getD i (.zero false)) (valAt M i i))
  (rs.map fun r => r.1, rs.foldl (fun a r => a ||| r.2) 0)

/-- Backward substitution, from lane 31 down (R269). -/
def Slot.bwd (x : Slot) (M : List (List Val)) (xs : List Val) : List Val × Flags :=
  (List.range 32).foldl (fun t n =>
    let i := 31 - n
    -- t.1 holds y of lanes i + 1 to 31
    let (y, fl) := x.lessProducts (xs.getD i (.zero false))
      ((List.range n).map fun k => (valAt M (i + 1 + k) i, t.1.getD k (.zero false)))
    (y :: t.1, t.2 ||| fl)) ([], 0)

/-- The modes of mtrsv: 0 fwd, 1 diag, 2 bwd, 3 full (R269). -/
def Slot.solve (x : Slot) (mode : Nat) (M : List (List Val)) (xs : List Val) : List Val × Flags :=
  if mode = 0 then x.fwd M xs
  else if mode = 1 then x.diagSolve M xs
  else if mode = 2 then x.bwd M xs
  else
    let (a, f1) := x.fwd M xs
    let (b, f2) := x.diagSolve M a
    let (c, f3) := x.bwd M b
    (c, f1 ||| f2 ||| f3)

/-- Latency of a mode (R255). -/
def solveLat (mode : Nat) : Nat := if mode = 1 then 16 else if mode = 3 then 208 else 96

/-- The WIN checks of the vector operand of mtrsv: codes 1, 2 and 4 (R218, R269). -/
def State.solveCheck (s : State) (v : Nat) : Run Unit :=
  if s.me.vcount = 0 then winRun 1 0 s
  else if s.me.vcount ≤ v then winRun 2 v s
  else if (s.boundStream s.cur v).isSome then winRun 4 v s
  else .ok () s

/-- mtrsv (R269, R270). -/
def execMtrsv (v : BitVec 6) (a : BitVec 4) (mode : BitVec 2) (s : State) : Out :=
  done ((s.solveCheck v.toNat).bind fun _ s0 =>
    (s0.tileCheck [a.toNat] (fun s => firstBad [(s.tagOf a.toNat != tACC32, 1)]) []).bind fun _ s1 =>
      (s1.drainCore s1.myCore).solved (solveLat mode.toNat) fun s2 =>
        let x := s2.me
        let xs := (List.range 32).map fun i => laneVal x.vclass (x.vreg v.toNat) i
        let (ys, fl) := x.solve mode.toNat (s2.tile s2.cur a.toNat).vals xs
        (s2.modMe fun y =>
          (y.setVreg v.toNat (mkVec fun i => encodeLane x.vclass (ys.getD i (.zero false)))).setDlm false).orFlags s2.cur fl)

end Sys2Proof.Machine
end

