-- ==== Sys2Proof/Machine/TileMem.lean ====
section
/-!
DEFINITION. Loading and storing tiles (R264 to R266), the tile window (R271) and the status of a tile (R272).
-/
namespace Sys2Proof.Machine

/-! ### Rows (R264) -/

/-- The tag is one of the PEB kinds. -/
def pebKind (g : Nat) : Bool := g = tPEB7 || g = tPEB3

/-- x_r of a row; the bits that a kind ignores are cleared. -/
def State.rowAddr (s : State) (b stride : BitVec 5) (g r : Nat) : Nat :=
  let x := ((((s.reg b).toNat : Int) + r * (s.reg stride).toInt) % 2 ^ 64).toNat
  let a := if pebKind g then 64 else tagBytes g
  x / a * a

/-- FMT of a PEB kind. -/
def pebFmt (g : Nat) : Nat := if g = tPEB7 then fmtPEB7 else fmtPEB3

/-- The codes of half a row as row bytes (R249). -/
def rowOfCodes (g : Nat) (codes : List Nat) : List Byte :=
  if g = tPEB7 then codes.map (BitVec.ofNat 8) else leBytes 64 (packFields 4 codes)

/-- The codes that a block gives to a row: none of a NANBLK (R264). -/
def blockCodes (g : Nat) (b : Block) : List Nat :=
  if g = tPEB7 then (List.range 64).map fun j => if b.fmt = fmtNANBLK then 0 else peb7Code b j
  else (List.range 128).map fun j => if b.fmt = fmtNANBLK then 0 else peb3Code b j

/-- SCL byte and gap bytes that a block gives to the sideband (R250). -/
def blockScl (b : Block) : Byte := if b.fmt = fmtNANBLK then 0 else b.getD 1 0
def blockGaps (g : Nat) (b : Block) : List Byte :=
  if b.fmt = fmtNANBLK then [0, 0] else [b.getD 2 0, if g = tPEB7 then 0 else b.getD 3 0]

/-- Row and side bytes from the two blocks of a row. -/
def rowFromBlocks (g : Nat) (x y : Block) : List Byte × List Byte :=
  (rowOfCodes g (blockCodes g x) ++ rowOfCodes g (blockCodes g y),
    [blockScl x, blockScl y] ++ blockGaps g x ++ blockGaps g y ++
      [BitVec.ofNat 8 (b2n (x.fmt = fmtNANBLK) + 2 * b2n (y.fmt = fmtNANBLK)), 0])

/-! ### mldt (R264, R266) -/

/-- FORMAT and POISON of a row of 128 bytes from a on name the D-block of it that fails, with bits <5:0> cleared: a, a + 64,
or the third one that an unaligned row reaches into (R51, R266). -/
def atRow {α : Type} (a : Nat) (r : Run α) : Run α :=
  match r with
  | .ok x s => .ok x s
  | .stop (.trap c acc v) s =>
    .stop (.trap c acc (if c = cFORMAT || c = cPOISON then
      BitVec.ofNat 64 (max (alignDown 6 a) (alignDown 6 v.toNat)) else v)) s
  | .stop (.park p op) s => .stop (.park p op) s

/-- A block of a row from a on lies in a described page; if it does not, FORMAT names the row (R266). -/
def State.rowCheck (s : State) (acc a va : Nat) : Run Unit :=
  (s.resolve s.cur acc true true va 64).bind fun cs s1 =>
    if cs.all fun c => c.loc.described then .ok () s1 else trapAt cFORMAT acc a s1

/-- Read the two blocks of a row; `none` stands for an EMPTY one, given with its physical address. -/
def State.rowBlocks (s : State) (g a : Nat) : Run (List (Nat × Option Block)) :=
  Run.mapList (fun va s => (s.rowCheck accRead a va).bind fun _ s1 => s1.readBlock s1.cur accRead cFORMAT va (pebFmt g))
    [a, (a + 64) % 2 ^ 64] s

/-- The rows of a PEB tile; every row is checked before an EMPTY block parks the slot. -/
def State.pebRows (s : State) (g : Nat) (as : List Nat) : Run (List (List Byte × List Byte)) :=
  (Run.mapList (fun a s => s.rowBlocks g a) as s).bind fun rows s1 =>
    match rows.flatten.find? fun b => b.2.isNone with
    | some b => .stop (.park (.block b.1) .reissue) s1
    | none => .ok (rows.map fun bs =>
        let blk (i : Nat) : Block := ((bs.getD i (0, none)).2).getD nanBlock
        rowFromBlocks g (blk 0) (blk 1)) s1

/-- The rows of a plain tile, with sideband bytes of zero. -/
def State.plainRows (s : State) (as : List Nat) : Run (List (List Byte × List Byte)) :=
  Run.mapList (fun a s => (s.resolve s.cur accRead true true a 128).bind fun cs s1 =>
    (atRow a ((s1.syncAmo s1.cur cs).readChunks s1.cur accRead cs)).bind fun bs s2 => .ok (bs, List.replicate 8 0) s2) as s

/-- The bytes of the rows that mldt and mstt reach. -/
def State.rowSpans (s : State) (b stride : BitVec 5) (g : Nat) : List (Nat × Nat) :=
  (List.range 32).map fun r => (s.rowAddr b stride g r, 128)

/-- mldt (R264, R266). -/
def execMldt (d : BitVec 4) (b stride : BitVec 5) (tag : BitVec 4) (s : State) : Out :=
  let g := tag.toNat
  s.behind (s.rowSpans b stride g) fun s => done ((s.tileCheck [d.toNat] (fun _ => none) [d.toNat]).bind fun _ s1 =>
    let s2 := s1.drainCore s1.myCore
    let as := (List.range 32).map (s2.rowAddr b stride g)
    (if pebKind g then s2.pebRows g as else s2.plainRows as).bind fun rows s3 =>
      let x := s3.tile s3.cur d.toNat
      .ok () ((s3.setTile s3.cur d.toNat
        { x with data := memOf 0 (rows.flatMap fun r => r.1), tag := g, side := memOf 0 (rows.flatMap fun r => r.2) }).advance 4))

/-! ### mstt (R265, R266) -/

/-- Block b of a row (R265). -/
def Tile.rowBlock (x : Tile) (r b : Nat) : Block :=
  let sd := x.sideBytes r
  if sideNan sd b then nanBlock
  else
    let half := (rawRow x.tag (x.rowBytes r)).drop (b * (tagCols x.tag / 2)) |>.take (tagCols x.tag / 2)
    let gaps := sideGap sd b
    mkBlock (pebFmt x.tag) (sideScl sd b)
      (if x.tag = tPEB7 then gaps % 256 + 256 * packFields 7 half else gaps + 2 ^ 16 * packFields 3 half)

/-- mstt (R265, R266). -/
def execMstt (d : BitVec 4) (b stride : BitVec 5) (tag : BitVec 4) (s : State) : Out :=
  let g := tag.toNat
  s.behind (s.rowSpans b stride g) fun s => done ((s.tileCheck [d.toNat] (fun s => firstBad [(s.tagOf d.toNat != g, 0)]) []).bind fun _ s1 =>
    let s2 := s1.drainCore s1.myCore
    let x := s2.tile s2.cur d.toNat
    let rows := List.range 32
    if pebKind g then
      (Run.mapList (fun r s => Run.mapList (fun h s =>
          let a := s.rowAddr b stride g r
          let va := (a + 64 * h) % 2 ^ 64
          (s.rowCheck accWrite a va).bind fun _ s1 => s1.blockLoc s1.cur accWrite cFORMAT va) [0, 1] s) rows s2).bind fun locs s3 =>
        let outs := (locs.zip rows).flatMap fun p => p.1.zipIdx.map fun l => (l.1, x.rowBlock p.2 l.2)
        .ok () ((outs.foldl (fun s o => s.postStore s.cur o.1 o.2) s3).advance 4)
    else
      (Run.mapList (fun a s => (s.resolve s.cur accWrite true true a 128).bind fun cs s3 =>
          (atRow a (formatCheck accWrite cs s3)).bind fun _ s4 => .ok cs s4) (rows.map (s2.rowAddr b stride g)) s2).bind fun css s3 =>
        .ok () (((css.zip rows).foldl (fun s p =>
          (s.syncAmo s.cur p.1).postChunks s.cur p.1 (x.rowBytes p.2)) s3).advance 4))

/-! ### twin (R271) -/

/-- A tile window of c tiles; `src` is the register of the register form. -/
def State.twin (s : State) (src : Option Nat) (c : Nat) : Run Unit :=
  let x := s.me
  let held := ((List.range x.tcount).filter fun t => c ≤ t).filter fun t => s.tileHeld s.cur t
  let grows := x.tcount < c
  let covers := c - x.tcount ≤ s.tasFree s.myCore
  if !held.isEmpty then winRun 10 (s.pick held) s
  else if x.inHandler && grows && !covers then winRun 11 1 s
  else if !x.inHandler && s.mustWait grows covers then .stop (.park (.pool s.myCore) (.twin src c)) s
  else
    let s1 := if grows then s.granted s.myCore else s
    .ok () ((((s1.drainCore s.myCore).setTiles s.cur c).advance 4).servePool s.myCore)

/-- twin count (R271). -/
def execTwinImm (count : BitVec 5) (s : State) : Out := done (s.twin none count.toNat)

/-- twin a (R271): it needs a tile window; the tile number that TVAL holds is not stated then (R253, log 6). -/
def execTwinReg (a : BitVec 5) (s : State) : Out :=
  let c := (s.reg a).toNat
  done (
    if s.me.tcount = 0 then winRun 8 (Config.unstated s.tick 253 % 256) s
    else if 16 < c then winRun 11 0 s
    else s.twin (some a.toNat) c)

/-! ### mstat (R272) -/

/-- The status word of a tile. -/
def State.tileStatus (s : State) (t : Nat) : Word :=
  let x := s.me
  let y := s.tile s.cur t
  let low := if t < x.tcount then
      y.tag + b2n (!y.holds.isEmpty) * 2 ^ 3 + b2n ((List.range 32).any fun r => (y.sideBytes r).getD 6 0 != 0) * 2 ^ 4 + 2 ^ 5
    else 0
  BitVec.ofNat 64 (low + x.tcount * 2 ^ 12 + s.tasFree s.myCore * 2 ^ 24)

/-- mstat (R272). -/
def execMstat (d : BitVec 5) (a : BitVec 4) (s : State) : Out :=
  let s1 := s.drainCore s.myCore
  .next ((s1.setReg d (s1.tileStatus a.toNat)).advance 4)

end Sys2Proof.Machine
end

