-- ==== Sys2Proof/Machine/Stream.lean ====
section
/-!
DEFINITION. Binding vector registers to stream engines (R322 to R327).
-/
namespace Sys2Proof.Machine

/-! ### Checks of a record (R183, R323) -/

/-- Byte offsets of the fields of a record that break R183, in rising order. A plain FMT above 7 counts as such a field. -/
def badStreamFields (b : List Byte) : List Nat :=
  let f := recField b
  let desc := bitOf (f 11 1) 0
  let dims := f 9 1
  let rules : List (Bool × Nat) :=
    [(!desc && f 8 1 ≤ 7 && f 0 8 % typeSize (f 8 1) != 0, 0), (!desc && 7 < f 8 1, 8), (dims = 0 || 4 < dims, 9),
      (1 < f 10 1, 10), (1 < f 11 1, 11)] ++
    ((List.range 4).map fun i => (f (12 + i) 1 != 0, 12 + i)) ++
    ((List.range 4).map fun i => (f (16 + 4 * i) 4 = 0 || (dims ≤ i && f (16 + 4 * i) 4 != 1), 16 + 4 * i)) ++
    ((List.range 4).map fun i => (dims ≤ i && f (32 + 8 * i) 8 != 0, 32 + 8 * i))
  (rules.filter fun r => r.1).map fun r => r.2

/-- A described FMT that a stream accepts (R183, R323). -/
def streamFmtOk (f : Nat) : Bool := fmtIsVlf f || f = fmtPEB7 || f = fmtPEB3 || fmtIsInt f

/-- sbind of register v with a record that has been read: the first trap that applies, or the binding (R323). -/
def State.sbindWith (s : State) (v : Nat) (b : List Byte) : Run Unit :=
  let x := s.me
  let r := streamRecOf b
  let bad := badStreamFields b
  let free := Config.unstated s.tick 323 % 256
  if x.vcount ≤ v then winRun 2 v s
  else if !r.desc && r.fmt ≤ 7 && typeInt r.fmt && x.vclass < 4 then winRun 3 x.vclass s
  else if (FMap.find x.binds v).isSome || 4 ≤ x.binds.length then winRun 13 0 s
  else if !bad.isEmpty then winRun 12 (bad.headD 0) s
  -- TVAL<7:0> of these two cases is not stated (log 6)
  else if r.desc && !streamFmtOk r.fmt then winRun 12 free s
  else if r.desc && r.dir = 1 && !(fmtIsVlf r.fmt && r.dims = 1 && r.stride.headD 0 = 1) then winRun 12 free s
  else if (s.coreAt s.myCore).freeEngine.isSome then .ok () ((s.bindAt s.cur v r 0).advance 4)
  else if x.inHandler then winRun 13 1 s
  else .stop (.park (.engine s.myCore) (.bind v r)) s

/-- sbind (R323), behind the entries of its core's wide queue (R195). -/
def execSbind (v : BitVec 6) (a : BitVec 5) (s : State) : Out :=
  let va := (s.reg a).toNat
  s.behind [(va, 64)] fun s => done (
    if va % 64 != 0 then trapAt cPROT accRead va s
    else
      ((s.drainCore s.myCore).resolve s.cur accRead true false va 64).bind fun cs s1 =>
        ((s1.syncAmo s1.cur cs).readChunks s1.cur accRead cs).bind fun b s2 => s2.sbindWith v.toNat b)

/-- sunbind (R327): nothing happens where v is not bound. -/
def execSunbind (v : BitVec 6) (s : State) : Out :=
  done (((s.drainCore s.myCore).readyClose v.toNat).bind fun _ s1 => .ok () ((s1.unbind s1.cur v.toNat).advance 4))

/-- The status word of a binding (R327). -/
def State.streamStatus (s : State) (v : Nat) : Word :=
  match s.boundStream s.cur v with
  | none => 0
  | some (e, st) =>
    let ended := st.rcd.total ≤ 32 * st.vecs
    let waits := match st.waiting with | some (.block _) => true | _ => false
    BitVec.ofNat 64 (min st.vecs (2 ^ 32 - 1) + st.buf.length * 2 ^ 32 + 2 ^ 40 + st.rcd.dir * 2 ^ 41 +
      b2n st.rcd.desc * 2 ^ 42 + b2n ended * 2 ^ 43 + b2n (st.fault.isSome && !st.told) * 2 ^ 44 + b2n waits * 2 ^ 45 +
      e * 2 ^ 48)

/-- sstat (R327): a wide instruction, behind the entries of its core's wide queue (R195, R196). -/
def execSstat (v : BitVec 6) (a : BitVec 5) (s : State) : Out :=
  let s1 := s.drainCore s.myCore
  .next ((s1.setReg a (s1.streamStatus v.toNat)).advance 4)

end Sys2Proof.Machine
end

