-- ==== Sys2Proof/Machine/Copy.lean ====
section
/-!
DEFINITION. The copy engine (R330 to R338), the inbox (R339, R340) and drain (R329).
-/
namespace Sys2Proof.Machine

/-! ### Fields of a copy (R331) -/

def Copy.len (c : Copy) : Nat := c.ctl % 2 ^ 32
def Copy.stride (c : Copy) : Int := signedOf 32 c.ctl
def Copy.notify (c : Copy) : Bool := bitOf c.ctl 32
def Copy.bar (c : Copy) : Bool := bitOf c.ctl 33
def Copy.barOff (c : Copy) : Nat := bitsOf c.ctl 51 34 * 16
def Copy.msgTag (c : Copy) : Nat := bitsOf c.ctl 63 52
/-- Fields of the tile word of cpyt and cpym. -/
def Copy.tile (c : Copy) : Nat := bitsOf c.dst 3 0
def Copy.tileTag (c : Copy) : Nat := bitsOf c.dst 6 4
def Copy.mask (c : Copy) : Nat := bitsOf c.dst 23 8
def Copy.slot (c : Copy) : Nat := bitsOf c.dst 27 24

/-- Bytes of a cpy, rows of the others. -/
def Copy.total (c : Copy) : Nat := if c.kind = 0 then c.len else 32
/-- The copy moves nothing any more: all is moved, or a chunk failed (R336). -/
def Copy.over (c : Copy) : Bool := c.total ≤ c.done || (c.status != 0 && c.status != 7)

/-- Kind of the destination for drain (R329): 1 user space, 2 scratch, 3 tiles, 0 none of these. -/
def Copy.destKind (c : Copy) : Nat :=
  if c.kind != 0 then 3 else match regionOf c.dst with | .user => 1 | .scratch => 2 | _ => 0

/-! ### Accesses of the engine (R302, R333) -/

/-- Resolve an access of a copy as the task that issued it would. -/
def State.copyResolve (s : State) (c : Copy) (acc va n : Nat) : Run (List Chunk) :=
  let x := s.slotAt c.tid
  let put (s : State) (asid lid : Nat) (sup : Bool) : State :=
    s.modSlot c.tid fun y => { y with asid := asid, lid := lid, sup := sup }
  match (put s c.asid c.lid c.sup).resolve c.tid acc true false va n with
  | .ok cs s1 => .ok cs (put s1 x.asid x.lid x.sup)
  | .stop r s1 => .stop r (put s1 x.asid x.lid x.sup)

/-- The kind-0 grains of a range stand in the cluster cache alone. -/
def State.cluHold (s : State) (core : Nat) (x : Spot) (n : Nat) : State :=
  (grainBases x.g x.key n).foldl (fun s b => s.cluOnly core (x.at b)) s

/-- The lines of a range stand at their homes, behind what the core has sent there (R15). -/
def State.homeHold (s : State) (core dom pa n : Nat) : State :=
  (lineBases pa n).foldl (fun s b => let s1 := s.orderBefore core dom b; s1.sliceHold (s1.homeOf dom b) b 64) s

/-- Bytes at their homes. -/
def State.homeSee (s : State) (dom pa n : Nat) : List Byte :=
  (List.range n).map fun i => s.sliceByte (s.homeOf dom (pa + i)) (pa + i)

/-- Writes of the core to a peer have reached its owner (R15, R296). -/
def State.peerSync (s : State) (x : Spot) (n : Nat) : State :=
  (lineBases x.key n).foldl (fun s b => s.pushRemote (s.spotHome (x.at b)) fun w => w.dev = keyDev x.key) s

/-- Read a part at its point of serialisation, behind the core's atomics on their way there (R15); `none` is poison: of a described page the header of every
block that the part reaches into counts (R51, R333, R336). -/
def State.pointRead (s : State) (core : Nat) (c : Chunk) : Option (List Byte) × State :=
  let poisoned (d : Bool) (a : Nat) (head : Nat → List Byte) : Bool :=
    d && (grainBases 6 a c.len).any fun b => head b = [BitVec.ofNat 8 fmtPOISON]
  match c.loc with
  | .phys pa ck g d dom =>
    let x : Spot := { key := pa, ck := ck, g := g, dom := dom }
    let s1 := if ck = 0 then (s.servePlace core c.loc).cluHold core x c.len else s.homeHold core dom pa c.len
    let bs := if ck = 0 then s1.cluSee core x c.len else s1.homeSee dom pa c.len
    let head (b : Nat) : List Byte := if ck = 0 then s1.cluSee core (x.at b) 1 else s1.homeSee dom b 1
    (if s1.homePoisoned pa c.len dom || poisoned d pa head then none else some bs, s1)
  | .sram k off =>
    let s1 := s.servePlace core c.loc
    (some (Memory.readN (s1.cluAt k).sram off c.len), s1)
  | .peer dev pa g d dom =>
    let s1 := (s.servePlace core c.loc).peerSync { key := peerKey dev pa, ck := 2, g := g, dom := dom } c.len
    let bs := Memory.readN (FMap.getD s1.peers dev []) pa c.len
    let head (b : Nat) : List Byte := Memory.readN (FMap.getD s1.peers dev []) b 1
    (if s1.locFenced c.loc || poisoned d pa head then none else some bs, s1)

/-- Read the parts of a chunk. -/
def State.pointReads (s : State) (core : Nat) : List Chunk → Option (List Byte) × State
  | [] => (some [], s)
  | c :: cs =>
    match s.pointRead core c with
    | (none, s1) => (none, s1)
    | (some bs, s1) =>
      match s1.pointReads core cs with
      | (none, s2) => (none, s2)
      | (some rest, s2) => (some (bs ++ rest), s2)

/-- The bytes of a range that lie in one piece of 2^g bytes, and where they start. -/
def pieceOf (g key : Nat) (bs : List Byte) (base : Nat) : Nat × List Byte :=
  let lo := max key base
  (lo, (bs.drop (lo - key)).take (base + 2 ^ g - lo))

/-- Write a part at its point of serialisation, behind the core's atomics on their way there (R15); F/E bits stay (R333). -/
def State.pointWrite (s : State) (core lid : Nat) (loc : Loc) (bs : List Byte) : State :=
  match loc with
  | .phys pa ck g _ dom =>
    if ck = 0 then
      let x : Spot := { key := pa, ck := ck, g := g, dom := dom }
      let s1 := (grainBases g pa bs.length).foldl (fun s b =>
        let p := pieceOf g pa bs b
        s.cluPut core lid (x.at p.1) p.2) ((s.servePlace core loc).cluHold core x bs.length)
      s1.wakeCluBlocks core loc bs.length
    else (lineBases pa bs.length).foldl (fun s b =>
        let p := pieceOf 6 pa bs b
        let s1 := s.orderBefore core dom b
        s1.slicePut (s1.homeOf dom b) p.1 p.2 (List.replicate p.2.length true)) s
  | .sram k off => (s.servePlace core loc).modClu k fun c => { c with sram := Memory.writeN c.sram off bs }
  | .peer dev pa g _ dom =>
    let x : Spot := { key := peerKey dev pa, ck := 2, g := g, dom := dom }
    let s1 := ((s.servePlace core loc).peerSync x bs.length).performRemote dev pa bs
    (lineBases x.key bs.length).foldl (fun s b => s.modHome (s.spotHome (x.at b)) fun h =>
      { h with remote := FMap.del h.remote b }) s1

/-- Write the parts of a chunk. -/
def State.pointWrites (s : State) (core lid : Nat) : List Chunk → List Byte → State
  | [], _ => s
  | c :: cs, bs => (s.pointWrite core lid c.loc (bs.take c.len)).pointWrites core lid cs (bs.drop c.len)

/-- Ranges of some parts by grain key. -/
def keyParts (cs : List Chunk) : List (Nat × Nat) := cs.filterMap fun c => c.loc.spot?.map fun x => (x.key, c.len)

/-! ### Acquiring what a copy wrote (R335, R338) -/

/-- A core's L1 and its cluster cache drop their copies of the grains of some ranges (R338). -/
def State.dropRanges (s : State) (core : Nat) (rs : List (Nat × Nat)) : State :=
  (s.eachL1 core (inRanges rs) fun s b => s.l1Notice core b).eachClu (cluOfCore core) (inRanges rs) fun s b =>
    s.cluOut core (cluOfCore core) b

/-- The same for every core of a cluster. -/
def State.dropCluster (s : State) (k : Nat) (rs : List (Nat × Nat)) : State :=
  ((List.range 16).foldl (fun s i => s.eachL1 (k * 16 + i) (inRanges rs) fun s b => s.l1Notice (k * 16 + i) b) s).eachClu k
    (inRanges rs) fun s b => s.cluOut (k * 16) k b

/-- The writes of the ended copies of a core that a test selects are acquired. -/
def State.acquireCopies (s : State) (core : Nat) (p : Copy → Bool) : State :=
  let mine := (s.coreAt core).copies.filter fun c => c.finished && p c
  (s.dropRanges core (mine.flatMap Copy.ranges)).modCore core fun c =>
    { c with copies := c.copies.filter fun x => !(x.finished && p x) }

/-- Bytes that have been written are counted at the barrier object of a copy, for receiver number j (R335). Every
core of the receivers' cluster has dropped its older copies of them then, so that a wait which completes has acquired them
(R394, R397). -/
def State.countBar (s : State) (c : Copy) (j n : Nat) (rs : List (Nat × Nat)) : State :=
  if c.bar then
    let k := cluOf c.tid
    (s.dropCluster k rs).barBytes k ((s.cluAt k).scratchAt c.lid (c.barOff + 16 * j)) (-(n : Int))
  else s

/-! ### COPY_ARRIVAL (R333 to R335) -/

/-- Replace copy i of a core. -/
def State.setCopy (s : State) (core i : Nat) (c : Copy) : State :=
  s.modCore core fun x => { x with copies := x.copies.set i c }

/-- What stops a chunk: a status of R336, or a wait for a page in transit. -/
def copyFail (page prot : Nat) : Stop → Option Nat
  | .trap cause _ _ => some (if cause = cPAGE then page else prot)
  | .park _ _ => none

/-- A chunk that fails ends the copy with a status; one that waits leaves it as it is. -/
def State.failCopy (s : State) (core i : Nat) (c : Copy) : Option Nat → State
  | some n => s.setCopy core i { c with status := n }
  | none => s

/-- Bytes of the next chunk of a cpy: it ends at a multiple of 64 of the destination, so that no aligned unit is written in
two parts (R333, R384, DEDUCED: log 87). -/
def Copy.chunk (c : Copy) : Nat := min (64 - (c.dst + c.done) % 64) (c.len - c.done)

/-- Bytes that a cpy reads for its next chunk, from the first that it has not read on: to the end of the chunk, and of the
aligned source unit there where source and destination do not overlap (R333, R384, DEDUCED: log 87). -/
def Copy.toRead (c : Copy) : Nat :=
  let e := c.src + c.done + c.chunk
  let last := if overlaps c.src c.len c.dst c.len then e else min ((e + 7) / 8 * 8) (c.src + c.len)
  last - (c.src + c.done + c.ahead.length)

/-- The next 64-byte chunk of a cpy. A destination at a fenced M-die, or at a peer that cannot be reached, ends it with the
status of POISON, as a source there does (R336, R437). -/
def State.cpyStep (s : State) (core i : Nat) (c : Copy) : State :=
  let n := c.chunk
  match if c.toRead = 0 then .ok [] s
      else s.copyResolve c accRead ((c.src + c.done + c.ahead.length) % 2 ^ 64) c.toRead with
  | .stop r s1 => s1.failCopy core i c (copyFail 1 3 r)
  | .ok cs s1 =>
    match s1.pointReads core cs with
    | (none, s2) => s2.failCopy core i c (some 6)
    | (some new, s2) =>
      let bs := c.ahead ++ new
      match s2.copyResolve c accWrite ((c.dst + c.done) % 2 ^ 64) n with
      | .stop r s3 => s3.failCopy core i c (copyFail 2 4 r)
      | .ok ds s3 =>
        if ds.any fun d => s3.locFenced d.loc then s3.failCopy core i c (some 6)
        else if (ds.any fun d => d.loc.described) && (c.dst % 64 != 0 || c.len % 64 != 0) then s3.failCopy core i c (some 5)
        else
          let s4 := (s3.pointWrites core c.lid ds (bs.take n)).setCopy core i
            { c with done := c.done + n, ahead := bs.drop n, bytes := c.bytes + n, ranges := c.ranges ++ keyParts ds }
          s4.countBar c 0 n (keyParts ds)

/-- The slots that cpyt and cpym name: with the number of the receiver at the barrier. -/
def Copy.receivers (c : Copy) : List (Nat × Nat) :=
  if c.kind = 1 then [(c.tid, 0)]
  else (setBits c.mask 16).map fun j => (cluOf c.tid * 256 + j * 16 + c.slot, j)

/-- The receivers that can be written when the first row arrives: their tiles take the tag and a zero sideband (R334). -/
def State.openReceivers (s : State) (c : Copy) : State × Copy :=
  let ok := c.receivers.filter fun r => c.tile < (s.slotAt r.1).tcount && !s.tileHeld r.1 c.tile
  let s1 := ok.foldl (fun s r => s.setTile r.1 c.tile { s.tile r.1 c.tile with tag := c.tileTag, side := [] }) s
  (s1, { c with
    recv := ok.map fun r => (coreOf r.1, FMap.getD (s.slotAt r.1).tmap c.tile 64)
    status := if ok.length < c.receivers.length then 7 else c.status })

/-- Write a row to every receiver that is still served, and count it (R334, R335). -/
def State.writeRow (s : State) (c : Copy) (row : List Byte) : State :=
  c.recv.foldl (fun s r =>
    let s1 := s.modCore r.1 fun k =>
      match FMap.find k.tas r.2 with
      | none => k
      | some t => { k with tas := FMap.put k.tas r.2 { t with data := Memory.writeN t.data (128 * c.done) row } }
    s1.countBar c (if c.kind = 2 then r.1 % 16 else 0) 128 []) s

/-- The next row of a cpyt or cpym. -/
def State.rowStep (s : State) (core i : Nat) (c : Copy) : State :=
  match s.copyResolve c accRead ((((c.src : Int) + c.done * c.stride) % 2 ^ 64).toNat) 128 with
  | .stop r s1 => s1.failCopy core i c (copyFail 1 3 r)
  | .ok cs s1 =>
    match s1.pointReads core cs with
    | (none, s2) => s2.failCopy core i c (some 6)
    | (some row, s2) =>
      let (s3, c1) := if c.done = 0 then s2.openReceivers c else (s2, c)
      (s3.setCopy core i { c1 with done := c1.done + 1, bytes := c1.bytes + 128 * c1.recv.length }).writeRow c1 row

/-- The copy engine of a core moves the next part of copy i. -/
def State.copyStep (s : State) (core i : Nat) : State :=
  match (s.coreAt core).copies[i]? with
  | none => s
  | some c => if c.finished || c.over then s else if c.kind = 0 then s.cpyStep core i c else s.rowStep core i c

/-! ### Starting and ending copies (R332, R336, R339) -/

/-- Copies of a core in flight. -/
def State.inFlight (s : State) (core : Nat) : Nat := ((s.coreAt core).copies.filter fun c => !c.finished).length

/-- The id after one; it skips 0 (R332). -/
def nextId (n : Nat) : Nat := if n % 2 ^ 16 + 1 = 2 ^ 16 then 1 else n % 2 ^ 16 + 1

/-- A copy of slot t starts and its id goes to s[d]. A cpy first performs the core-scope release: the core's stores and
posted atomics reach the cluster, where the engine reads (R332, R333). -/
def State.startCopy (s : State) (t d kind dst src ctl : Nat) : State :=
  let x := s.slotAt t
  let id := nextId x.copyId
  let c : Copy :=
    { tid := t, lid := x.lid, asid := x.asid, sup := x.sup, id := id, kind := kind, dst := dst, src := src, ctl := ctl
      done := 0, bytes := 0, status := 0, ranges := [], recv := [], finished := false }
  ((if kind = 0 then (s.release t 1).drainStores (coreOf t) else s).modCore (coreOf t) fun k => { k with copies := k.copies ++ [c] }).modSlot t
    fun y => { y with copyId := id }.setReg d (BitVec.ofNat 64 id)

/-- The oldest copy instruction that waits for a copy slot of a core starts, if one is free. -/
def State.serveCopy (s : State) (core : Nat) : State :=
  if 512 ≤ s.inFlight core then s
  else
    match s.waits.find? fun w => w.place = .copies core with
    | none => s
    | some w =>
      match w.op with
      | .copy d kind dst src ctl => (s.startCopy w.tid d kind dst src ctl).wakeDone w
      | _ => s.wakeSlot w

/-- COPY_COMPLETION: copy i of a core has moved all it will. Its message is posted, or held while the inbox is full; then
the copy is no longer in flight (R332, R336, R339). -/
def State.completeCopy (s : State) (core i : Nat) : State :=
  match (s.coreAt core).copies[i]? with
  | none => s
  | some c =>
    let messages := c.notify || c.status != 0
    if c.finished || !c.over || (messages && 256 ≤ (s.coreAt core).inbox.length) then s
    else
      let s1 := s.setCopy core i { c with finished := true }
      let s2 := if messages then s1.postMsg c.tid c.lid (msgBytes 1 c.status c.id c.msgTag c.bytes []) else s1
      s2.serveCopy core

/-! ### cpy, cpyt, cpym (R330 to R332) -/

/-- A copy instruction whose operands have passed their checks. -/
def State.copyIns (s : State) (d : BitVec 5) (kind : Nat) (a b c : BitVec 5) : Run Unit :=
  let dst := (s.reg a).toNat
  let src := (s.reg b).toNat
  let ctl := (s.reg c).toNat
  if s.inFlight s.myCore < 512 then
    .ok () (if kind = 0 then s.beforeRelease 1 fun s1 => (s1.startCopy s1.cur d.toNat kind dst src ctl).advance 4
      else (s.startCopy s.cur d.toNat kind dst src ctl).advance 4)
  else if s.me.inHandler then .ok () ((s.setReg d (negStatus 4)).advance 4)
  else .stop (.park (.copies s.myCore) (.copy d.toNat kind dst src ctl)) s

/-- The status that rejects a tile word, if one does (R331, R332). -/
def tileWordBad (kind w : Nat) : Option Nat :=
  let tag := bitsOf w 6 4
  if bitOf w 7 || bitsOf w 63 28 != 0 then some 1
  else if !(tag ≤ 2 || tag = 5) || (kind = 1 && (bitsOf w 23 8 != 0 || bitsOf w 27 24 != 0)) ||
      (kind = 2 && bitsOf w 23 8 = 0) then some 2
  else none

/-- cpyt and cpym. -/
def State.tileCopy (s : State) (d : BitVec 5) (kind : Nat) (a b c : BitVec 5) : Out :=
  match tileWordBad kind (s.reg a).toNat with
  | some n => .next ((s.setReg d (negStatus n)).advance 4)
  | none => done (s.copyIns d kind a b c)

/-- cpy (R333). -/
def execCpy (d a b c : BitVec 5) (s : State) : Out := done (s.copyIns d 0 a b c)
/-- cpyt (R334). -/
def execCpyt (d a b c : BitVec 5) (s : State) : Out := s.tileCopy d 1 a b c
/-- cpym (R334). -/
def execCpym (d a b c : BitVec 5) (s : State) : Out := s.tileCopy d 2 a b c

/-! ### ibx.recv, ibx.try (R338 to R340) -/

/-- The oldest message of a core for a slot and its launch. -/
def State.firstMsg (s : State) (t : Nat) : Option (Nat × Msg) :=
  match (s.coreAt (coreOf t)).inbox.findIdx? (fun m => m.tid = t && m.lid = (s.slotAt t).lid) with
  | none => none
  | some i => ((s.coreAt (coreOf t)).inbox[i]?).map fun m => (i, m)

/-- Take the oldest message, or do what `none_` says. -/
def State.takeMsg (s : State) (d a : BitVec 5) (none_ : State → Run Unit) : Run Unit :=
  let va := (s.reg a).toNat
  if va % 16 != 0 then trapAt cPROT accWrite va s
  else
    match s.firstMsg s.cur with
    | none => none_ s
    | some (i, m) =>
      (s.plainStore s.cur va m.bytes).bind fun _ s1 =>
        let s2 := s1.modCore s1.myCore fun c => { c with inbox := dropIdx c.inbox i }
        let kind := recField m.bytes 0 1
        let s3 := if kind = 1 then
            s2.acquireCopies s2.myCore fun c => c.tid = m.tid && c.id = recField m.bytes 2 2
          else s2
        .ok () ((s3.setReg d (BitVec.ofNat 64 kind)).advance 4)

/-- ibx.recv (R340). -/
def execIbxRecv (d a : BitVec 5) (s : State) : Out :=
  if s.me.inHandler then .next (s.ill (.ibxRecv d a))
  else
    s.behind [((s.reg a).toNat, 80)] fun s => done (s.takeMsg d a fun s1 => .stop (.park (.inbox s1.myCore) .reissue) s1)
/-- ibx.try (R340). -/
def execIbxTry (d a : BitVec 5) (s : State) : Out :=
  s.behind [((s.reg a).toNat, 80)] fun s => done (s.takeMsg d a fun s1 => .ok () ((s1.setReg d 0).advance 4))

/-! ### drain (R329) -/

/-- The slot's instruction has not completed: it is tried again, and no shadow counts it. -/
def State.stay (s : State) : State :=
  s.modMe fun x => { x with pend := x.pend.map fun p => { p with left := p.left + 1 } }

/-- A destination kind is one that a drain waits for. -/
def drainHas (kind dest : Nat) : Bool := kind = 0 || kind = dest

/-- The copies of the core that a drain which issues now waits for, by TID and id. -/
def State.drainCopies (s : State) (kind : Nat) : List (Nat × Nat) :=
  ((s.coreAt s.myCore).copies.filter fun c => !c.finished && drainHas kind c.destKind).map fun c => (c.tid, c.id)

/-- One of some copies is in flight, or a vector that the slot has appended is not written (R329). -/
def State.drainBusy (s : State) (kind : Nat) (cs : List (Nat × Nat)) : Bool :=
  ((s.coreAt s.myCore).copies.any fun c => !c.finished && cs.contains (c.tid, c.id)) ||
    s.me.binds.any fun b =>
      match FMap.find (s.coreAt s.myCore).streams b.2 with
      | some st => st.rcd.dir = 1 && !st.buf.isEmpty &&
          drainHas kind (match regionOf st.rcd.base with | .user => 1 | .scratch => 2 | _ => 0)
      | none => false

/-- drain (R329): it notes the copies issued before it, and is tried again until they have ended. -/
def execDrain (kind : BitVec 2) (s : State) : Out :=
  let s1 := s.drainWide s.cur
  let cs := match s1.me.drains with
    | some d => if d.1 = s1.me.pc then d.2 else s1.drainCopies kind.toNat
    | none => s1.drainCopies kind.toNat
  .next (if s1.drainBusy kind.toNat cs then (s1.modMe fun x => { x with drains := some (x.pc, cs) }).stay
    else
      let s2 := s1.acquireCopies s1.myCore fun c => drainHas kind.toNat c.destKind
      (s2.modMe fun x => { x with drains := none }).advance 4)

end Sys2Proof.Machine
end

