-- ==== Sys2Proof/Machine/Swap.lean ====
section
/-!
DEFINITION. Swapping pages to flash (R297 to R301) and its instructions (R342 to R345).
-/
namespace Sys2Proof.Machine

/-! ### Entries of page tables (R158, R159) -/

/-- The final entry of a walk, as it stands: level, address and value. -/
def finalFrom (rd : Nat → Nat) (memBytes va : Nat) : Nat → Nat → Option (Nat × Nat × Nat)
  | lvl, base =>
    let pa := base + 8 * ((va / 2 ^ levelShift lvl) % 2 ^ levelBits lvl)
    let e := rd pa
    if pteV e && bitsOf e 3 1 = 0 then
      match lvl with
      | 0 => none
      | l + 1 =>
        if e - bitsOf e 51 12 * 2 ^ 12 != 1 || memBytes ≤ bitsOf e 51 12 * 2 ^ 12 then none
        else finalFrom rd memBytes va l (bitsOf e 51 12 * 2 ^ 12)
    else some (lvl, pa, e)

/-- The level-0 final entry of a page of an ASID: its address and value. A request may name an ASID that is not live; the walk
starts from whatever PTBR its entry holds (R343, DESIGN CHOICE: log 90). -/
def State.pageEntry (s : State) (asid vpn : Nat) : Option (Nat × Nat) :=
  let va := vpn * 2 ^ 16
  let ptbr := (s.asidAt asid).ptbr.toNat
  if 2 ^ bitsOf ptbr 4 0 ≤ bitsOf va 55 36 then none
  else match finalFrom s.tableNat s.memBytes va 3 (ptbrRoot ptbr) with
    | some (0, pa, e) => some (pa, e)
    | _ => none

/-- Replace a bit of a number. -/
def withBit (x i : Nat) (b : Bool) : Nat := x - b2n (bitOf x i) * 2 ^ i + b2n b * 2 ^ i

/-- A swapped PTE's drive and first LBA (R159). -/
def pteDrv (e : Nat) : Nat := bitsOf e 17 16
def pteLba (e : Nat) : Nat := bitsOf e 57 18

/-! ### Records (R298) -/

def recordMagic : Nat := 0x50415753

/-- KEYID of a storage key (R109, R298). -/
def keyId (key : List Byte) : List Byte := (sha256 (ascii "keyid" ++ key)).take 4

/-- The 1024 blocks of a page at the homes of its domain (R290, R299). -/
def State.pageBlocks (s : State) (pa dom : Nat) : List Block :=
  (List.range 1024).map fun i => s.sliceSee (s.homeOf dom (pa + 64 * i)) (pa + 64 * i) 64

/-- Fill a list with zero bytes up to a multiple of n. -/
def padTo (n : Nat) (bs : List Byte) : List Byte := bs ++ List.replicate ((n - bs.length % n) % n) 0

/-- The authenticated bytes of a header: +0 to +31 and +64 to +191. -/
def headerAad (h : List Byte) : List Byte := h.take 32 ++ (h.drop 64).take 128

/-- The header of a record but for its tag. -/
def recordHeader (asid vpn b : Nat) (desc : Bool) (key iv map : List Byte) : List Byte :=
  leBytes 4 recordMagic ++ leBytes 2 1 ++ leBytes 2 asid ++ leBytes 8 vpn ++ leBytes 2 b ++ leBytes 2 (b2n desc) ++
    keyId key ++ leBytes 8 0 ++ iv ++ leBytes 4 0 ++ leBytes 16 0 ++ map

/-- The record of a page (R298). -/
def makeRecord (asid vpn : Nat) (desc : Bool) (key : List Byte) (boot ivCount : Nat) (blocks : List Block) : List Byte :=
  let kept := blocks.map fun b => !(desc && b.fmt = fmtEMPTY)
  let map := leBytes 128 (kept.zipIdx.foldl (fun a p => if p.1 then a + 2 ^ p.2 else a) 0)
  let data := ((blocks.zip kept).filter fun p => p.2).flatMap fun p => p.1
  let iv := leBytes 12 (boot % 2 ^ 32 * 2 ^ 64 + ivCount % 2 ^ 64)
  let h := recordHeader asid vpn (data.length / 64) desc key iv map
  let (ct, tag) := gcmSeal key iv (headerAad h) data
  padTo 4096 (h.take 48 ++ tag ++ h.drop 64) ++ padTo 4096 ct

/-- Why a record is not accepted: 3, or 7 for another storage key (R300, R344). -/
def recordBad (asid vpn : Nat) (key h : List Byte) : Option Nat :=
  if recField h 0 4 != recordMagic || recField h 4 2 != 1 || recField h 6 2 != asid || recField h 8 8 != vpn then some 3
  else if (h.drop 20).take 4 != keyId key then some 7
  else none

/-- The decrypted blocks that a record keeps, by index; none where the tag check fails (R300). -/
def openRecord (key r : List Byte) : Option (List (Nat × Block)) :=
  let h := r.take 4096
  let n := recField h 16 2
  (gcmOpen key ((h.drop 32).take 12) (headerAad h) ((r.drop 4096).take (64 * n)) ((h.drop 48).take 16)).map fun d =>
    (setBits (natOfBytes ((h.drop 64).take 128)) 1024).zipIdx.map fun p => (p.1, (d.drop (64 * p.2)).take 64)

/-! ### Requests (R343, R344) -/

/-- A request's status becomes final, and its message is posted while its launch lives, or held while the inbox is full
(R339, R344, R456). The swap is the one at index i. -/
def State.endSwap (s : State) (i : Nat) (x : Swap) (code : Nat) : State :=
  let s1 := if x.id = 0 then s else
    { s with swapStatus := s.swapStatus.map fun (p : Nat × Nat) => if p.1 = x.id then (p.1, code) else p }
  let messages := x.id != 0 && bitOf x.opt 2 && (s.launch? x.lid).isSome
  if messages && 256 ≤ (s1.coreAt (coreOf x.tid)).inbox.length then
    { s1 with swaps := s1.swaps.set i { x with phase := 3, code := code } }
  else
    let s2 := { s1 with swaps := dropIdx s1.swaps i }
    if messages then s2.postMsg x.tid x.lid (msgBytes 4 code x.id 0 (x.asid + x.vpn * 2 ^ 16) []) else s2

/-- The engine's step for an ended request whose message waits (R339). -/
def State.retrySwapMsg (s : State) (i : Nat) (x : Swap) : State := s.endSwap i x x.code

/-- The page notice of R167 is sent to the wait tables of the four C-dies. -/
def State.notifyPage (s : State) (asid vpn : Nat) : State :=
  { s with notices := s.notices ++ (List.range 4).map fun d => (d, asid, vpn) }

/-- PAGE_NOTICE: a notice reaches a C-die's wait table, which wakes its slots in order of arrival (R167). Waiters are kept
by the 64 KiB page of their access, and a notice wakes those of the page it names, also where a larger page has T set
(DESIGN CHOICE: log 87). -/
def State.pageNotice (s : State) (d asid vpn : Nat) : State :=
  ({ s with notices := s.notices.erase (d, asid, vpn) }).wakeAll fun w => w.place = Place.page asid vpn && dieOf w.tid = d

/-- Write a PTE at its home as one 8-byte write. -/
def State.putPte (s : State) (pa e : Nat) : State := s.homeWrite pa (leBytes 8 e)

/-- A page taken from a ring goes back to it as its oldest (R301); a page kept for a swap-in leaves its place. -/
def State.ringBack (s : State) (x : Swap) (give : Bool) : State :=
  match x.ring with
  | none => s
  | some d => s.modDie d fun y =>
      { y with ring := if give then x.dest :: y.ring else y.ring, ringHeld := y.ringHeld - 1 }

/-- Remove a page's translations device-wide, as TLBI does, and complete every access translated through them (R172,
R299). -/
def State.dropPage (s : State) (asid vpn : Nat) : State :=
  (s.dropTranslations (removePage (vpn * 2 ^ 16) fun a g => g || a = asid)).completeAll

/-- Requests that wait in the homes' write queues for a range are applied (R299). -/
def State.applyRange (s : State) (pa n : Nat) : State :=
  (s.homes.map fun h => h.1).foldl (fun s h => s.applyWhere h fun r => overlaps r.pa (unitLen r.grain) pa n) s

/-- The drive is used: its namespace has LBAs of 4096 bytes (R297). -/
def driveInUse (d : Nat) : Bool := Config.driveLbaBytes d = 4096

/-! ### Swap-out (R299, R301) -/

/-- Slots parked on EMPTY blocks of a range translate again (R299): what fills them may come to another page. -/
def State.wakeRange (s : State) (pa n : Nat) : State :=
  s.wakeAll fun w => match w.place with
    | .block b => pa ≤ b && b < pa + n
    | _ => false

/-- Start of a swap-out: T, translations, recall, record; the homes drop the page, and the drive is asked to write the
record. Every write that has reached a cluster or a home is in it (R299). A page with a tagged grain, or at a fenced M-die,
cannot be read: the swap-out fails with status 2, the page as before (R436, log 88). -/
def State.swapOutStart (s : State) (i : Nat) (x : Swap) : State :=
  match s.pageEntry x.asid x.vpn with
  | none => s.endSwap i x 4
  | some (pa, e) =>
    if !pteV e || pteT e || leafBad s.memBytes 16 e || pteK e != 2 || ownedByOther s.owned x.asid (ptePA e) 16 then
      s.endSwap i x 4
    else
      let s0 := ((s.putPte pa (e + 2 ^ 15)).dropPage x.asid x.vpn).recall (ptePA e) (2 ^ 16)
      let s1 := (s0.applyRange (ptePA e) (2 ^ 16)).wakeRange (ptePA e) (2 ^ 16)
      let bad := (List.range 16).any fun g => s1.homePoisoned (ptePA e + 4096 * g) 4096 (pteDOM e)
      if bad then ((s1.putPte pa e).notifyPage x.asid x.vpn).endSwap i x 2
      else
      let a := s1.asidAt x.asid
      let r := makeRecord x.asid x.vpn (pteD e) a.key (Config.bootCount + s1.boots) a.iv (s1.pageBlocks (ptePA e) (pteDOM e))
      let s2 := (s1.homesDrop (ptePA e) (2 ^ 16)).modAsid x.asid fun y => { y with iv := y.iv + 1 }
      { s2 with swaps := s2.swaps.set i { x with phase := 1, ptePa := pa, data := r } }

/-- End of a swap-out: the swapped PTE, or on an NVMe error the PTE as it was. -/
def State.swapOutEnd (s : State) (i : Nat) (x : Swap) : State :=
  let e := s.homeNat x.ptePa 8
  let new :=
    if x.ok then bitsOf e 14 1 * 2 + x.drive * 2 ^ 16 + x.lba * 2 ^ 18 + 2 ^ 62 + b2n (bitOf x.opt 1) * 2 ^ 63
    else withBit e 15 false
  ((s.putPte x.ptePa new).notifyPage x.asid x.vpn).endSwap i x (if x.ok then 1 else 2)

/-! ### Swap-in (R300, R301, R343) -/

/-- Start of a swap-in by swpin: eligibility, destination, T; the drive is asked to read the record. -/
def State.swapInStart (s : State) (i : Nat) (x : Swap) : State :=
  match s.pageEntry x.asid x.vpn with
  | none => s.endSwap i x 4
  | some (pa, e) =>
    if pteV e || !pteS e || pteT e || (x.dest != 0 && ownedByOther s.owned x.asid x.dest 16) then s.endSwap i x 4
    else
      let go (s : State) (x : Swap) : State :=
        let s1 := s.putPte pa (e + 2 ^ 15)
        { s1 with swaps := s1.swaps.set i { x with phase := 1, ptePa := pa, drive := pteDrv e, lba := pteLba e } }
      if x.dest != 0 then go s x
      else
        let d := dieOf x.tid
        match (s.dieAt d).ring with
        | [] => s.endSwap i x 5
        | p :: rest =>
          if ownedByOther s.owned x.asid p 16 then s.endSwap i x 4
          else go (s.modDie d fun y => { y with ring := rest, ringHeld := y.ringHeld + 1 }) { x with dest := p, ring := some d }

/-- A swap-in that fails: AS is cleared, the ring has its page back, the waiters wake (R301). -/
def State.swapInFail (s : State) (i : Nat) (x : Swap) (code : Nat) : State :=
  let e := s.homeNat x.ptePa 8
  let new := withBit (withBit e 15 false) 63 false
  (((s.putPte x.ptePa new).ringBack x true).notifyPage x.asid x.vpn).endSwap i x code

/-- End of a swap-in: checks, the destination's blocks, the PTE flip, the deallocation (R300). A destination homed at a fenced
M-die cannot be written: the swap-in fails with status 2 (R437, log 88). -/
def State.swapInEnd (s : State) (i : Nat) (x : Swap) : State :=
  let disk := FMap.getD s.drives x.drive []
  let r := Memory.readN disk (4096 * x.lba) (17 * 4096)
  let key := (s.asidAt x.asid).key
  let e := s.homeNat x.ptePa 8
  let lost := (List.range 16).any fun g => s.homeFenced (x.dest + 4096 * g) (pteDOM e)
  if !x.ok || lost then s.swapInFail i x 2
  else
    match recordBad x.asid x.vpn key r with
    | some c => s.swapInFail i x c
    | none =>
      match openRecord key r with
      | none => s.swapInFail i x 3
      | some kept =>
        if ownedByOther s.owned x.asid x.dest 16 then
          (((s.putPte x.ptePa (withBit e 15 false)).ringBack x true).notifyPage x.asid x.vpn).endSwap i x 4
        else
          let s1 := s.recall x.dest (2 ^ 16)
          let s2 := (List.range 1024).foldl (fun s j =>
            let pa := x.dest + 64 * j
            s.slicePut (s.homeOf (pteDOM e) pa) pa (FMap.getD kept j emptyBlock) (List.replicate 64 true) (pteCK e != 0)) s1
          let s3 := (s2.putPte x.ptePa (bitsOf e 14 1 * 2 + 1 + x.dest + b2n (bitOf e 63) * 2 ^ 63)).ringBack x false
          let s4 := s3.notifyPage x.asid x.vpn
          let n := 1 + (64 * recField r 16 2 + 4095) / 4096
          let s5 := if x.id != 0 && bitOf x.opt 0 then
              let gone := disk.filter fun c => !(4096 * x.lba ≤ c.1 && c.1 < 4096 * (x.lba + n))
              { s4 with drives := FMap.put s4.drives x.drive gone }
            else s4
          s5.endSwap i x 1

/-! ### Steps of the engine -/

/-- SWAP_OUT: the engine goes on with the swap-out at index i (R299). -/
def State.swapOutStep (s : State) (i : Nat) : State :=
  match s.swaps[i]? with
  | none => s
  | some x =>
    if !x.out then s
    else if x.phase = 0 then s.swapOutStart i x
    else if x.phase = 2 then s.swapOutEnd i x
    else if x.phase = 3 then s.retrySwapMsg i x
    else s

/-- SWAP_IN: the engine goes on with the swap-in at index i (R300). -/
def State.swapInStep (s : State) (i : Nat) : State :=
  match s.swaps[i]? with
  | none => s
  | some x =>
    if x.out then s
    else if x.phase = 0 then s.swapInStart i x
    else if x.phase = 2 then s.swapInEnd i x
    else if x.phase = 3 then s.retrySwapMsg i x
    else s

/-- A drive has written the record of a swap-out. -/
def State.writeDrive (s : State) (x : Swap) : State :=
  { s with drives := FMap.put s.drives x.drive (Memory.writeN (FMap.getD s.drives x.drive []) (4096 * x.lba) x.data) }

/-- NVME_COMPLETION: the drive answers the swap at index i; an LBA beyond the namespace, or a fenced port,
is an error (R301, R344, R437). With FLUSH, a Flush follows the Write, and its error fails the swap-out too (R299, R301,
R343). -/
def State.nvmeDone (s : State) (i : Nat) (ok : Bool) : State :=
  match s.swaps[i]? with
  | none => s
  | some x =>
    let n := if x.out then x.data.length / 4096 else 1
    let good := ok && !bitOf s.fencedFlash x.drive && driveInUse x.drive && x.lba + n ≤ Config.driveLbas x.drive
    let set (s : State) (phase : Nat) : State := { s with swaps := s.swaps.set i { x with phase := phase, ok := good } }
    if x.phase = 4 then set s 2
    else if x.phase != 1 then s
    else if x.out && good then set (s.writeDrive x) (if bitOf x.opt 0 then 4 else 2)
    else set s 2

/-! ### swpout, swpin, swpstat (R342 to R345) -/

/-- The zero bits of a page word (R342). -/
def pageWordBad (w : Nat) : Bool := bitsOf w 15 14 != 0 || bitsOf w 63 56 != 0

/-- Accept a request: its id goes to s[d] (R343, R344). -/
def State.acceptSwap (s : State) (d : BitVec 5) (out : Bool) (page drive lba dest opt : Nat) : State :=
  let id := if s.nextSwap % 2 ^ 16 = 0 then 1 else s.nextSwap % 2 ^ 16
  let x : Swap :=
    { id := id, out := out, tid := s.cur, lid := s.me.lid, asid := page % 2 ^ 14, vpn := bitsOf page 55 16, drive := drive
      lba := lba, dest := dest, ring := none, opt := opt, phase := 0, ok := false, ptePa := 0 }
  let kept := s.swapKept.filter (· != id) ++ [id]
  let old := if 4096 < kept.length then kept.take 1 else []
  let s1 := { s with
    nextSwap := nextId id
    swaps := s.swaps ++ [x]
    swapStatus := (FMap.put s.swapStatus id 0).filter fun p => !old.contains p.1
    swapKept := kept.drop old.length }
  s1.setReg d (BitVec.ofNat 64 id)

/-- Unfinished requests of the device. -/
def State.openSwaps (s : State) : Nat := (s.swaps.filter fun x => x.id != 0).length

/-- swpout (R343). -/
def execSwpout (d a b c : BitVec 5) (s : State) : Out :=
  if !s.me.sup then .next (s.ill (.swpout d a b c))
  else
    let page := (s.reg a).toNat
    let w := (s.reg b).toNat
    let opt := (s.reg c).toNat
    .next ((
      if 256 ≤ s.openSwaps then s.setReg d (negStatus 1)
      else if pageWordBad page || bitsOf w 63 42 != 0 || 8 ≤ opt || !driveInUse (bitsOf w 41 40) then
        s.setReg d (negStatus 2)
      else s.acceptSwap d true page (bitsOf w 41 40) (bitsOf w 39 0) 0 opt).advance 4)

/-- swpin (R343). -/
def execSwpin (d a b c : BitVec 5) (s : State) : Out :=
  if !s.me.sup then .next (s.ill (.swpin d a b c))
  else
    let page := (s.reg a).toNat
    let dest := (s.reg b).toNat
    let opt := (s.reg c).toNat
    .next ((
      if 256 ≤ s.openSwaps then s.setReg d (negStatus 1)
      else if pageWordBad page || 8 ≤ opt || bitOf opt 1 then s.setReg d (negStatus 2)
      else if dest != 0 && (dest % 2 ^ 16 != 0 || s.memBytes ≤ dest) then s.setReg d (negStatus 3)
      else s.acceptSwap d false page 0 0 dest opt).advance 4)

/-- An address of a 64 KiB page of the package (R345). -/
def State.pageBad (s : State) (pa : Nat) : Bool := pa % 2 ^ 16 != 0 || s.memBytes ≤ pa

/-- The operations of swpstat (R345). A bad page is told before a full ring (DESIGN CHOICE: log 90). -/
def State.swpOp (s : State) (op b : Nat) : Word × State :=
  let die := dieOf s.cur
  if op = 0 then (BitVec.ofNat 64 (FMap.getD s.swapStatus (b % 2 ^ 16) 6), s)
  else if op = 1 then
    if s.pageBad b then (2, s)
    else if 512 ≤ (s.dieAt die).ring.length + (s.dieAt die).ringHeld then (1, s)
    else (0, s.modDie die fun x => { x with ring := x.ring ++ [b] })
  else if op = 2 then (BitVec.ofNat 64 (s.dieAt die).ring.length, s)
  else if op = 3 then (0, s.notifyPage (b % 2 ^ 14) (bitsOf b 55 16))
  else if op = 4 then (if s.pageBad b then (2, s) else (0, s.recall b (2 ^ 16)))
  else (0xFFFFFFFFFFFFFFFF, s)

/-- swpstat (R345). -/
def execSwpstat (d a b : BitVec 5) (s : State) : Out :=
  if !s.me.sup then .next (s.ill (.swpstat d a b))
  else
    let (v, s1) := s.swpOp ((s.reg a).toNat % 16) (s.reg b).toNat
    .next ((s1.setReg d v).advance 4)

end Sys2Proof.Machine
end

