-- ==== Sys2Proof/Machine/HostIf.lean ====
section
/-!
DEFINITION. The host interface: BAR0 registers, host windows and BAR2 (R94 to R101), commands from the queues (R100 to
R105), and writes of special registers as the control path sees them (R214). An event reads its operands from `ev`:
`a` and `b` name the place, `v` is the value written, `bytes` are bytes written.
-/
namespace Sys2Proof.Machine

/-- The device answers through its BARs (R98, R118). -/
def State.barOn (s : State) : Bool := s.dstate = 2

/-! ### What BAR0 reads (R94, R97 to R99, R114) -/

/-- The 256 bytes of the capability record (R97). -/
def State.capRecord (s : State) : List Byte :=
  let off := if popcount s.mdieMask 16 = 15 then ((List.range 16).find? fun i => !bitOf s.mdieMask i).getD 255 else 255
  leBytes 2 1 ++ leBytes 2 4 ++ leBytes 2 s.mdieMask ++ leBytes 1 off ++ leBytes 1 0 ++ leBytes 8 s.cluMask ++
    leBytes 8 s.memBytes ++ leBytes 4 (Config.imageVersion s.fwImage) ++ leBytes 4 (Config.imageSvn s.fwImage) ++ serialBytes ++
    leBytes 4 4096 ++ leBytes 4 65536 ++ leBytes 8 s.jbase ++ leBytes 4 24 ++ leBytes 4 4096 ++ leBytes 184 0

/-- DSTAT (R98). -/
def State.dstat (s : State) : Nat := s.dstate + s.bootErr * 2 ^ 8 + b2n s.jfull * 2 ^ 16

/-- QCFG and QSTAT as they read (R99). -/
def Queue.cfg (q : Queue) : Nat := b2n q.en + q.log2 * 2 + q.asid * 2 ^ 16
def Queue.stat (q : Queue) : Nat := b2n q.ovf + b2n q.hold.isSome * 2 + b2n q.addrErr * 4

/-- A register of queue block q by its offset (R99). -/
def Queue.word (q : Queue) (off : Nat) : Nat :=
  if off = 0x00 then q.base.toNat else if off = 0x08 then q.cfg else if off = 0x10 then q.pi
  else if off = 0x18 then q.ci else if off = 0x20 then q.stat else 0

/-- The aligned 8-byte word at a BAR0 offset (R94, R109, R114). MBCMD reads as the command that runs. -/
def State.bar0 (s : State) (off : Nat) : Nat :=
  if off < 0x100 then natOfBytes ((s.capRecord.drop off).take 8)
  else if off = 0x100 then s.dstat
  else if off = 0x200 then s.mbRun + s.mbLen * 2 ^ 16
  else if off = 0x208 then s.mbSts + s.mbResp * 2 ^ 16
  else if 0x400 ≤ off && off < 0x800 then Memory.readNat s.mbData (off - 0x400) 8
  else if 0x1000 ≤ off && off < 0x1400 then (s.queueAt ((off - 0x1000) / 0x40)).word (off % 0x40)
  else if off = 0x2000 then s.jhead
  else if off = 0x2008 then s.jrel
  else if off = 0x2010 then s.jbase
  else if 0x10000 ≤ off && off < 0x18000 then FMap.getD s.windows ((off - 0x10000) / 8) 0
  else if 0x20000 ≤ off && off < 0x22000 then Memory.readNat s.msixTable (off - 0x20000) 8
  else 0

/-! ### Writes of BAR0 registers (R95, R99, R100, R109, R114) -/

/-- QPI_WRITE of a queue (R100). -/
def Queue.writePi (q : Queue) (v : Nat) : Queue :=
  if 2 ^ q.log2 < (v % 2 ^ 32 + 2 ^ 32 - q.ci) % 2 ^ 32 then { q with ovf := true } else { q with pi := v % 2 ^ 32 }

/-- QCFG_WRITE of a queue (R99). -/
def Queue.writeCfg (q : Queue) (v : Nat) : Queue :=
  let n := bitsOf v 4 1
  if q.en then { q with en := bitOf v 0 }
  else
    let q1 := { q with log2 := if 4 ≤ n && n ≤ 12 then n else 4, asid := bitsOf v 29 16 }
    if bitOf v 0 then { q1 with en := true, pi := 0, ci := 0 } else q1

/-- A write of another register of a queue block: QBASE, and the bits of QSTAT that a 1 clears (R99). Bits <7:0> of QBASE
must be zero and are stored so. -/
def Queue.writeWord (q : Queue) (off v : Nat) : Queue :=
  if off = 0x00 then (if q.en then q else { q with base := BitVec.ofNat 64 (v / 256 * 256) })
  else if off = 0x08 then q.writeCfg v
  else if off = 0x10 then q.writePi v
  else if off = 0x20 then
    { q with ovf := q.ovf && !bitOf v 0, addrErr := q.addrErr && !bitOf v 2 }
  else q

/-- JREL_WRITE (R114); vector 16 signals that it has cleared JFULL (R94). -/
def State.writeJrel (s : State) (v : Nat) : State := { s with jrel := max s.jrel v }.signalFull s.jfull

/-- A value of a host window entry, its other bits zero (R95). -/
def windowStored (v : Nat) : Nat := v % 4 + bitsOf v 51 21 * 2 ^ 21

/-- Physical base of a window entry. -/
def windowBase (v : Nat) : Nat := bitsOf v 51 21 * 2 ^ 21

/-- HOST_WINDOW_WRITE: an entry that overlaps a region of a sealed ASID reads back with V = 0 (R95, R111). -/
def State.writeWindow (s : State) (w v : Nat) : State :=
  let x := windowStored v
  let owned := (FMap.find s.owned (windowBase x / 2 ^ 21)).isSome
  { s with windows := FMap.put s.windows w (if owned then withBit x 0 false else x) }

/-- Commands of the mailbox (R110). -/
def mailboxCodes : List Nat :=
  [0x10, 0x11, 0x12, 0x13, 0x14, 0x20, 0x21, 0x22, 0x30, 0x31, 0x40, 0x50, 0x51, 0x52, 0x53, 0x54, 0x55, 0x60, 0x61, 0x70, 0x71]

/-- A write of MBCMD starts a command, unless one runs; a code that is not defined and a nonzero zero bit are refused
(R109, R110). -/
def State.writeMbcmd (s : State) (v : Nat) : State :=
  if s.mbRun != 0 then s
  else if !mailboxCodes.contains (v % 256) || bitsOf v 15 8 != 0 || bitsOf v 63 32 != 0 then
    { s with mbSts := 2, mbResp := 0 }
  else { s with mbRun := v % 256, mbLen := bitsOf v 31 16, mbSts := 0 }

/-- A write of n bytes (4 or 8, aligned) at a BAR0 offset; every offset that is not listed ignores it (R94). A half word
is merged into the register's other half; of MBCMD, which is no stored register, it is a whole command with the other half
0 (DESIGN CHOICE, log 90). -/
def State.writeBar0 (s : State) (off n v : Nat) : State :=
  let base := off / 8 * 8
  let sh := 8 * (off % 8)
  let full := if n = 8 then v else
    let old := s.bar0 base
    old - bitsOf old (sh + 31) sh * 2 ^ sh + v % 2 ^ 32 * 2 ^ sh
  -- a bit that a 1 clears is not written by the other half
  let raw := if n = 8 then v else v % 2 ^ 32 * 2 ^ sh
  if base = 0x200 then s.writeMbcmd raw
  else if 0x400 ≤ base && base < 0x800 then { s with mbData := Memory.writeNat s.mbData (off - 0x400) n v }
  else if 0x1000 ≤ base && base < 0x1400 then
    s.modQueue ((base - 0x1000) / 0x40) fun q => q.writeWord (base % 0x40) (if base % 0x40 = 0x20 then raw else full)
  else if base = 0x2008 then s.writeJrel full
  else if 0x10000 ≤ base && base < 0x18000 then s.writeWindow ((base - 0x10000) / 8) full
  else if 0x20000 ≤ base && base < 0x22000 then { s with msixTable := Memory.writeNat s.msixTable (off - 0x20000) n v }
  else s

/-- An access from the host when the device answers its BARs. -/
def State.host (s : State) (f : State → State) : Out := .next (if s.barOn then f s else s)

/-- QPI_WRITE (R100): `a` is the queue. -/
def execQpiWrite (s : State) : Out := s.host fun s1 => s1.modQueue s1.ev.a fun q => q.writePi s1.ev.v.toNat
/-- QCFG_WRITE (R99): `a` is the queue. -/
def execQcfgWrite (s : State) : Out := s.host fun s1 => s1.modQueue s1.ev.a fun q => q.writeCfg s1.ev.v.toNat
/-- JREL_WRITE (R114). -/
def execJrelWrite (s : State) : Out := s.host fun s1 => s1.writeJrel s1.ev.v.toNat
/-- HOST_WINDOW_WRITE (R95): `a` is the entry. -/
def execHostWindowWrite (s : State) : Out := s.host fun s1 => s1.writeWindow s1.ev.a s1.ev.v.toNat

/-! ### Special registers (R157, R214, R276, R289, R292) -/

/-- A checked write of a special register by a slot at supervisor level; one that fails its check changes nothing. -/
def State.regWrite (s : State) (t id : Nat) (v : Word) : State := (s.writeSpr t true id v).getD s

/-- REGISTER_WRITE (R94): the BAR0 register at offset `a`, `b` = 4 for a half word. -/
def execRegisterWrite (s : State) : Out :=
  s.host fun s1 => s1.writeBar0 s1.ev.a (if s1.ev.b = 4 then 4 else 8) s1.ev.v.toNat
/-- BANKCFG_WRITE (R276): `a` is the cluster. -/
def execBankcfgWrite (s : State) : Out := .next (s.regWrite (s.ev.a * 256) 0x10E s.ev.v)
/-- DOM_WRITE (R292): `a` is n. -/
def execDomWrite (s : State) : Out := .next (s.regWrite 0 (0x106 + s.ev.a % 4) s.ev.v)
/-- HSEL_WRITE (R289). -/
def execHselWrite (s : State) : Out := .next (s.regWrite 0 0x105 s.ev.v)
/-- PTBR_WRITE (R157): `a` is the ASID. -/
def execPtbrWrite (s : State) : Out :=
  let n := s.ev.v.toNat
  .next (if bitsOf n 4 0 < 9 || 20 < bitsOf n 4 0 then s
    else s.modAsid s.ev.a fun x => { x with ptbr := BitVec.ofNat 64 (ptbrStored n) })

/-! ### BAR2 (R95, R96) -/

/-- Physical address of a BAR2 byte through a valid entry, that permits writes when asked. -/
def State.windowPa (s : State) (off : Nat) (write : Bool) : Option Nat :=
  let w := FMap.getD s.windows (off / 2 ^ 21) 0
  if bitOf w 0 && (!write || bitOf w 1) then some (windowBase w + off % 2 ^ 21) else none

/-- A byte at its home, for the host or a peer; an error in the completion reads as ones (R96, R296, R436). -/
def State.deviceByte (s : State) (pa : Nat) : Byte :=
  if s.memBytes ≤ pa || s.homePoisoned pa 1 0 then 0xFF else s.physByte pa

/-- A byte of BAR2 as the host reads it, served at its home (R95, R96). -/
def State.hostByte (s : State) (off : Nat) : Byte :=
  match s.windowPa off false with
  | none => 0xFF
  | some pa => s.deviceByte pa

/-- HOST_BAR2_READ (R96): `b` bytes from offset `a`; a byte that is poisoned gives the completion's error, read as all
ones. -/
def execHostBar2Read (s : State) : Out :=
  s.host fun s1 => { s1 with hostData := (List.range s1.ev.b).map fun i => s1.hostByte (s1.ev.a + i) }

/-- Parts of a host write that lie in one window entry each. -/
def State.hostWrite (s : State) (off : Nat) : Nat → List Byte → State
  | 0, _ => s
  | k + 1, bs =>
    if bs.isEmpty then s
    else
      let n := min bs.length (2 ^ 21 - off % 2 ^ 21)
      let s1 := match s.windowPa off true with
        | some pa => if pa + n ≤ s.memBytes then s.homeWrite pa (bs.take n) else s
        | none => s
      s1.hostWrite (off + n) k (bs.drop n)

/-- HOST_BAR2_WRITE (R96): `bytes` at offset `a`. -/
def execHostBar2Write (s : State) : Out :=
  s.host fun s1 => s1.hostWrite s1.ev.a (s1.ev.bytes.length / 2 ^ 21 + 2) s1.ev.bytes

/-! ### Commands (R100 to R105) -/

/-- LAUNCH_COMMAND (R104): `a` is the queue. -/
def execLaunchCommand (s : State) : Out := .next (s.consumeIf s.ev.a fun k => k = 1)
/-- DRAIN_COMMAND (R429): `a` is the queue. -/
def execDrainCommand (s : State) : Out := .next (s.consumeIf s.ev.a fun k => k = 2)
/-- RESUME_COMMAND (R432): `a` is the queue. -/
def execResumeCommand (s : State) : Out := .next (s.consumeIf s.ev.a fun k => k = 3)
/-- ABORT_COMMAND (R116): `a` is the queue. -/
def execAbortCommand (s : State) : Out := .next (s.consumeIf s.ev.a fun k => k = 4)
/-- UNKNOWN_KIND_COMMAND (R104): `a` is the queue. -/
def execUnknownKindCommand (s : State) : Out := .next (s.consumeIf s.ev.a fun k => k = 0 || 4 < k)
/-- RING_READ_FAILURE (R99): `a` is the queue. -/
def execRingReadFailure (s : State) : Out :=
  let q := s.ev.a
  .next (if s.queueReady q && !s.ringOk (s.queueAt q) then s.modQueue q fun x => { x with addrErr := true } else s)

/-- ADMISSION_GRANT (R105): the launch that queue `a` holds receives its resources, if they are there. -/
def execAdmissionGrant (s : State) : Out :=
  let q := s.ev.a
  .next (match (s.queueAt q).hold.bind s.launch? with
    | some l =>
      if l.state = jACCEPTED then
        match s.grant l with
        | some s1 => s1.modQueue q fun x => { x with hold := none }
        | none => s
      else s
    | none => s)

end Sys2Proof.Machine
end

