-- ==== Sys2Proof/Machine/Power.lean ====
section
/-!
DEFINITION. Boot and resets (R117 to R119), heat and throttling (R460, R461), and containment (R435 to R437).
-/
namespace Sys2Proof.Machine

/-! ### Boot and reset (R98, R118, R119) -/

/-- The value of HSEL.VAR that stands for a count of active M-dies (R289). -/
def hselFor (n : Nat) : Nat := if n = 15 then 1 else if n = 14 then 2 else if n = 12 then 3 else if n = 8 then 4 else 0

/-- The state after a conventional reset: what flash, drives and peers hold is kept, and so is the count of thermal
trips (R118, R463). -/
def State.coldReset (s : State) : State :=
  { State.reset with
    tick := s.tick, boots := s.boots + 1, inputs := s.inputs, drives := s.drives, peers := s.peers
    trips := s.trips, bootImage := s.bootImage, sideband := s.sideband, msix := s.msix }

/-- The boot ROM's steps accept an image: it can be read, its signature verifies and its SVN is not below the fused minimum
(R118). -/
def romAccepts (image : List Byte) : Bool := Config.imageSigned image && Config.minimumSvn ≤ Config.imageSvn image

/-- MDIEMASK that firmware writes: sixteen M-dies on a GRM-P416, all but one on a GRM-P415 (R1, R13, R97). -/
def bootMask : Nat :=
  match Config.idleMdie with
  | none => 0xFFFF
  | some i => 0xFFFF - 2 ^ (i % 16)

/-- The drives that firmware does not use for their LBA format, and reports (R297). -/
def oddDrives : List Nat := (List.range 4).filter fun d => Config.driveLbaBytes d != 0 && Config.driveLbaBytes d != 4096

/-- The firmware's steps have passed: M-dies, clusters, journal and storage variant are known, and DSTAT is READY (R97,
R118, R289). -/
def State.ready (s : State) : State :=
  { s with
    dstate := 2, mdieMask := bootMask, cluMask := Config.usableClusters % 2 ^ 64, jbase := Config.journalBase
    hselVar := hselFor (popcount bootMask 16), sideband := oddDrives.map Config.driveReport ++ s.sideband }

/-- Boot: the ROM verifies the stored image and the firmware brings the package up, or the package stays in RECOVERY or
BOOT_FAIL (R118, R119). Vector 16 signals the change of DSTAT (R94). -/
def State.boot (s : State) : State :=
  let image := s.bootImage
  let code := Config.bringUp image % 256
  let s1 : State :=
    if !romAccepts image then { s with dstate := 4 }
    else if code != 0 then { s with dstate := 3, bootErr := code, fwImage := image }
    else { s with fwImage := image }.ready
  s1.sendMsix 16

/-- CONVENTIONAL_RESET (R118). -/
def execConventionalReset (s : State) : Out := .next s.coldReset.boot

/-- DEV_RESET also clears the count of thermal trips (R462, R463). -/
def State.devReset (s : State) : State := { s.coldReset.boot with trips := 0 }

/-- POWER_LOSS (R117): nothing is kept that a conventional reset does not keep. -/
def execPowerLoss (s : State) : Out := .next { s.coldReset with power := false, sideOn := false }

/-- A reading of a die that makes a thermal trip: `b` is a junction temperature in 0.1 °C, `c` the core-rail current in A
(R461). -/
def EventArgs.trips (e : EventArgs) : Bool := 1100 ≤ e.b || 5000 < e.c

/-- A thermal trip: every clock stops, and memory, the journal and every other state are lost; the side-band stays powered
and counts the trip (R461). -/
def State.trip (s : State) : State := { s.coldReset with power := false, trips := (s.trips + 1) % 2 ^ 32 }

/-- THERMAL_TRIP (R461): readings as of THROTTLE_TEST. -/
def execThermalTrip (s : State) : Out := .next (if s.ev.trips then s.trip else s)

/-- A launch ends as FENCED with reason 0x0D, with its NOTIFY, and what it held goes (R103, R117). -/
def State.fenceLaunch (s : State) (l : Launch) : State :=
  let s1 := (s.endKept l.drain jFENCED 0x0D).endKept l.resume jFENCED 0x0D
  let s2 := (s1.jSet l.seq jFENCED 0x0D 0).notifyFinal l.notify l.source
  let s3 := (s2.framesOf l.lid).foldl State.freeFrame s2
  (s3.dropResiduals l.lid).dropLaunch l.lid

/-- A slot as a function-level reset leaves it: halted tasks are gone. -/
def Slot.clear (x : Slot) : Slot := { copyId := x.copyId, rage := x.rage }

/-- FUNCTION_LEVEL_RESET (R117): slots and engines stop, queues are disabled, non-final entries turn FENCED; memory, the
journal, live ASIDs and secrets stay. Requests that have left a core go on to their homes. DSTAT returns to READY, which
vector 16 signals (R94). A mailbox command that runs is dropped, and MBSTS stays as it is (R117 does not say, log 87); so
do the host window table, the MSI-X table, the mailbox data, QBASE and the other fields of QCFG (DESIGN CHOICE: log 90). -/
def State.functionReset (s : State) : State :=
  let tids := s.slots.map fun p => p.1
  let s1 := tids.foldl State.stopSlot s
  let s2 := s1.launches.foldl State.fenceLaunch s1
  let s3 : State := { s2 with
    slots := s2.slots.map fun p => (p.1, p.2.clear)
    cores := s2.cores.map fun c => (c.1, { c.2 with copies := [], inbox := [], residuals := [], tas := [], streams := [] })
    waits := []
    queues := s2.queues.map fun q => (q.1, { q.2 with en := false, pi := 0, ci := 0, hold := none })
    swaps := [], notices := [], donOut := [], donIn := [], mbRun := 0
    dies := s2.dies.map fun d => (d.1, { d.2 with ringHeld := 0 }) }
  s3.sendMsix 16

/-- FUNCTION_LEVEL_RESET (R117). -/
def execFunctionLevelReset (s : State) : Out := .next (if s.dstate = 2 then s.functionReset else s)

/-- FIRMWARE_UPDATE (R119): the firmware stores a new image, which acts from the next conventional reset on. -/
def execFirmwareUpdate (s : State) : Out :=
  .next (if s.dstate = 2 || s.dstate = 3 then { s with bootImage := s.ev.bytes } else s)

/-- RECOVERY_IMAGE (R119): in RECOVERY the boot ROM stores an image that passes its checks. -/
def execRecoveryImage (s : State) : Out :=
  .next (if s.dstate = 4 && romAccepts s.ev.bytes then { s with bootImage := s.ev.bytes } else s)

/-! ### Throttling (R460) -/

/-- Clk of 10 ms. -/
def tenMs : Nat := 7000000

/-- A trigger of R460: `b` is a junction temperature in 0.1 °C, `c` the core-rail current in A that has been exceeded for the
time in `bytes`, in µs, and `v` the package power in mW, averaged over 10 ms. -/
def EventArgs.triggers (e : EventArgs) : Bool :=
  950 ≤ e.b || (4750 < e.c && 10 ≤ natOfBytes e.bytes) || 2400000 < e.v.toNat

/-- A trigger lowers the wide duty of a die by 4, to no less than 4 (R460). -/
def State.lowerDuty (s : State) (k : Nat) : State :=
  s.modDie k fun d =>
    if d.duty ≤ 4 then { d with trig := s.clk }
    else { d with duty := max 4 (d.duty - 4), steps := (d.steps + 1) % 2 ^ 32, trig := s.clk }

/-- THROTTLE_TEST of die `a`: a trip, a trigger, or neither (R460, R461). -/
def execThrottleTest (s : State) : Out :=
  .next (if s.ev.trips then s.trip else if s.ev.triggers then s.lowerDuty (s.ev.a % 4) else s)

/-- THROTTLE_RELAX of die `a`: after 10 ms with no trigger the duty rises by 4, up to its cap. -/
def execThrottleRelax (s : State) : Out :=
  let k := s.ev.a % 4
  let d := s.dieAt k
  .next (if d.duty < min 16 d.cap && d.trig + tenMs ≤ s.clk then
      s.modDie k fun d => { d with duty := min d.cap (min 16 (d.duty + 4)), trig := s.clk }
    else s)

/-! ### Poison and leases (R435, R436) -/

/-- Poison a grain at its home: the blocks of a described page become POISON, a plain grain is tagged (R436). -/
def State.poisonGrain (s : State) (pa size : Nat) (desc : Bool) : State :=
  let base := grainBase size pa
  if desc then (grainBases 6 base (2 ^ size)).foldl (fun s b => s.homeWrite b poisonBlock) s
  else { s with poison := FMap.put s.poison base (2 ^ size), mended := FMap.del s.mended base }

/-- HOME_SOFT_ERROR (R437): the grain of 2^`b` bytes at `a` is poisoned; `c` = 1 says that it is described. -/
def execHomeSoftError (s : State) : Out :=
  let e := s.ev
  let size := if e.b = 7 then 7 else if e.b = 9 then 9 else 5
  .next (if s.memBytes ≤ e.a then s else s.poisonGrain e.a (if e.c = 1 then max 7 size else size) (e.c = 1))

/-! ### Containment (R437) -/

/-- Launches with a task, frame, queue entry, residual or dirty grain in a cluster. -/
def State.lidsIn (s : State) (k : Nat) : List Nat :=
  let c := s.cluAt k
  let mine := s.slots.filter fun p => cluOf p.1 = k
  let tasks := (s.launches.map fun l => l.lid).filter fun lid => mine.any fun p => s.slotOf lid p.1
  let frames := c.frames.map fun f => s.frLid (frameAddr k f.1)
  let entries := (c.cq ++ mine.flatMap fun p => p.2.deque).map fun e => s.frLid e.frame
  let held := (s.cores.filter fun x => cluOfCore x.1 = k).flatMap fun x => x.2.residuals.map fun r => r.req.lid
  let l1s := (s.cores.filter fun x => cluOfCore x.1 = k).flatMap fun x => x.2.l1
  let dirty := (c.grains ++ l1s).flatMap fun g => g.2.lids
  (tasks ++ frames ++ entries ++ held ++ dirty).eraseDups

/-- Launches go to FAULTED with reason 0x0B. -/
def State.faultLaunches (s : State) (lids : List Nat) : State :=
  lids.foldl (fun s lid => if (s.launch? lid).isSome then s.killLaunch lid jFAULTED 0x0B 0 else s) s

/-- What a fenced cluster held is lost; its leases run out at their homes. A debugger's halt of its slots stays (R439). -/
def State.emptyCluster (s : State) (k : Nat) : State :=
  { s with
    slots := s.slots.filterMap fun p =>
      if cluOf p.1 != k then some p else if p.2.halted then some (p.1, { halted := true }) else none
    cores := s.cores.filter fun p => cluOfCore p.1 != k
    clusters := FMap.del s.clusters k
    waits := s.waits.filter fun w => cluOf w.tid != k }

/-- Fence a cluster. -/
def State.fenceCluster (s : State) (k : Nat) : State :=
  let lids := s.lidsIn k
  let s1 := { s with fencedClusters := s.fencedClusters ||| 2 ^ k }
  (s1.faultLaunches lids).emptyCluster k

/-- Fence a C-die: its clusters and its die queue. -/
def State.fenceDie (s : State) (d : Nat) : State :=
  let lids := (s.dieAt d).dq.map fun e => s.frLid e.frame
  let s1 := { s with fencedDies := s.fencedDies ||| 2 ^ d }
  let s2 := (List.range 16).foldl (fun s i => s.fenceCluster (d * 16 + i)) s1
  (s2.faultLaunches lids.eraseDups).modDie d fun x => { x with dq := [], pressed := false, low := 0, pressDom := 0, refused := [] }

/-- A granule of the launch's image is stored at an M-die. -/
def State.imageAt (s : State) (l : Launch) (m : Nat) : Bool :=
  (l.state = jDRAINED || l.state = jSAVED) &&
    (List.range ((s.homeNat (l.image + 16) 8 + 4095) / 4096)).any fun i =>
      s.storeOf (l.image + 4096 * i) = m

/-- Fence an M-die: its slice, its stack and what they hold. -/
def State.fenceMdie (s : State) (m : Nat) : State :=
  let held := (s.clusters.flatMap fun k => k.2.grains) ++ s.cores.flatMap fun c => c.2.l1
  let dirty := (held.filter fun g => !isPeerKey g.1 && s.homeOf g.2.dom g.1 = m).flatMap fun g => g.2.lids
  let queued := (s.homeAt m).wq.flatMap fun e => e.reqs.map fun r => r.lid
  let images := (s.launches.filter fun l => s.imageAt l m).map fun l => l.lid
  let s1 := { s with
    fencedMdies := s.fencedMdies ||| 2 ^ m
    homes := FMap.put s.homes m { s.homeAt m with cache := [], wq := [], leases := [], remote := [], remoteOut := [] } }
  let s2 := s1.faultLaunches (dirty ++ queued ++ images).eraseDups
  { s2 with mem := s2.mem.filter fun c => s2.storeOf c.1 != m }

/-- Fence a link port: launches with remote writes to a peer that cannot be reached any more end. -/
def State.fenceLink (s : State) (p : Nat) : State :=
  let s1 := { s with fencedLinks := s.fencedLinks ||| 2 ^ p }
  let lost := s1.homes.flatMap fun h => h.2.remoteOut.filter fun w => s1.peerLost w.dev
  let stays (h : Home) : Home := { h with remoteOut := h.remoteOut.filter fun w => !s1.peerLost w.dev }
  let s2 := { s1 with homes := s1.homes.map fun (h : Nat × Home) => (h.1, stays h.2) }
  s2.faultLaunches (lost.map fun w => w.lid).eraseDups

/-- CONTAINMENT_FENCE: `a` is the kind (0 cluster, 1 C-die, 2 M-die, 3 link port, 4 flash port) and `b` the number;
vector 16 signals it. -/
def execContainmentFence (s : State) : Out :=
  let b := s.ev.b
  .next ((if s.ev.a = 0 then s.fenceCluster (b % 64)
    else if s.ev.a = 1 then s.fenceDie (b % 4)
    else if s.ev.a = 2 then s.fenceMdie (b % 16)
    else if s.ev.a = 3 then s.fenceLink (b % 24)
    else { s with fencedFlash := s.fencedFlash ||| 2 ^ (b % 4) }).sendMsix 16)

end Sys2Proof.Machine
end

