-- ==== Sys2Proof/Machine/Drain.lean ====
section
/-!
DEFINITION. Pre-emption (R428 to R432), deadlocked pools (R433), quiescence (R434) and the retirement of launches
(R456).
-/
namespace Sys2Proof.Machine

/-! ### Slots of a draining launch (R429, R430) -/

/-- Where a parked slot waits. -/
def State.waitOf (s : State) (t : Nat) : Option Wait := s.waits.find? fun w => w.tid = t

/-- The slot is parked at a task boundary, and its task is held by an entry or has ended. One that a passing SYNC left
parked still has its task (R140, log 14). -/
def State.atBoundary (s : State) (t : Nat) : Bool :=
  match s.waitOf t with
  | some w => w.place = .boundary && w.op != .complete
  | none => false

/-- The slot runs, with an access held at its core or not (R165), or is about to start a task it has taken. -/
def Slot.runs (x : Slot) : Bool :=
  match x.mode with
  | .running => true
  | .held => true
  | .starting _ _ => true
  | _ => false

/-- Slots of a launch that are neither parked at a boundary nor done. -/
def State.remaining (s : State) (lid : Nat) : List Nat := (s.slotsOf lid).filter fun t => !s.atBoundary t

/-- The copies of a launch are complete (R337). -/
def State.copiesDone (s : State) (lid : Nat) : Bool := !s.cores.any fun c => c.2.copies.any fun x => x.lid = lid && !x.finished

/-- A forced save may begin: no slot of the launch runs, or the limit has expired (R429), and the launch's copies are
complete (R337). A halted slot does not run. -/
def State.mayForce (s : State) (l : Launch) : Bool :=
  match l.drain with
  | none => false
  | some c => s.copiesDone l.lid && (c.expired || (s.slotsOf l.lid).all fun t => !(s.slotAt t).runs || (s.slotAt t).halted)

/-! ### Save areas (R430, R431) -/

/-- Bytes at offsets of a save area. -/
def putAll (m : Memory) (ps : List (Nat × List Byte)) : Memory := ps.foldl (fun m p => Memory.writeN m p.1 p.2) m

/-- An access that a saved slot still has to perform: instruction and access address, and its word with DEST above. One
whose fault is still to be taken is among them: it is performed again, and faults again (DEDUCED, log 59). -/
def Pend.saved (p : Pend) : List Byte :=
  leBytes 8 p.iaddr.toNat ++ leBytes 8 p.va.toNat ++ leBytes 8 (p.iword % 2 ^ 32 + p.dest * 2 ^ 32)

/-- The accesses that a slot still has to perform before its pc's instruction, the one that it waits for first. -/
def Slot.unread (x : Slot) : List Pend :=
  match x.waitsFor with
  | some (i, p) => p :: dropIdx x.pend i
  | none => x.pend

/-- A binding in a save area: record, POS and register number. -/
def State.bindingBytes (s : State) (t : Nat) (b : Nat × Nat) : List Byte :=
  match FMap.find (s.coreAt (coreOf t)).streams b.2 with
  | some st => st.rcd.bytes ++ leBytes 8 st.vecs ++ leBytes 8 b.1
  | none => []

/-- The save area of a slot, read as through the aperture (R431). -/
def State.saveArea (s : State) (t : Nat) : Memory :=
  let x := s.slotAt t
  let acc := x.unread
  let more := acc.drop 1
  let flags := b2n x.uh + b2n (!acc.isEmpty) * 2 + b2n (bitOf x.udef.dfi.toNat 14) * 4
  let n := x.vclass
  putAll [] ([(0, leBytes 8 2), (8, leBytes 8 x.pc.toNat), (16, leBytes 8 x.frp), (24, leBytes 8 flags),
      (32, ((acc.take 1).flatMap Pend.saved).drop 8)] ++
    (List.range 32).map (fun i => (64 + 8 * i, leBytes 8 (x.reg i).toNat)) ++
    (List.range 28).map (fun id => (320 + 8 * id, if userSpr id then leBytes 8 (s.readSpr t false id).toNat else [])) ++
    (List.range 8).map (fun i => (576 + 8 * i, leBytes 8 (x.mask i).toNat)) ++
    [(640, leBytes 8 x.vcount ++ leBytes 8 n ++ leBytes 8 x.tcount ++
      (List.range x.tcount).map fun j => BitVec.ofNat 8 (s.tile t j).tag)] ++
    x.binds.zipIdx.map (fun b => (704 + 128 * b.2, s.bindingBytes t b.1)) ++
    (List.range x.tcount).map (fun j => (1216 + 256 * j, Memory.readN (s.tile t j).side 0 256)) ++
    (List.range x.vcount).map (fun i => (5312 + (64 + 16 * n) * i, imageOfVec n (x.vreg i))) ++
    (List.range x.tcount).map (fun j => (28672 + 4096 * j, Memory.readN (s.tile t j).data 0 4096)) ++
    [(saveMore, leBytes 4 more.length ++ leBytes 4 x.later.length ++ ((acc.take 1).flatMap Pend.saved ++ leBytes 8 0).take 8 ++
      (more ++ x.later).flatMap Pend.saved)])

/-- The pending results of a slot come in before it is saved (R202, R430). -/
def State.settleForSave (s : State) (t : Nat) : State :=
  if (s.slotAt t).mode = .running then (s.drainWide t).settleRest t none [] (s.slotAt t).pend else s.settleParked t

/-- The launch keeps what a save has made: the area, the entry, and the slot's messages with its FRP (R430). -/
def State.keepSave (s : State) (l : Launch) (t : Nat) : State :=
  let x := s.slotAt t
  let core := coreOf t
  let mine (m : Msg) : Bool := m.tid = t && m.lid = l.lid
  let ms := ((s.coreAt core).inbox.filter mine).map fun m => (x.frp, m.bytes)
  let e : QEntry := { pc := x.pc.toNat, prio := l.prio, kind := 1, counted := false, frame := x.frp, moved := true }
  let s1 := s.modLaunch l.lid fun y => { y with
    saved := y.saved ++ [(x.frp, s.saveArea t)], savedEntries := y.savedEntries ++ [e], messages := y.messages ++ ms }
  (s1.modCore core fun c => { c with inbox := c.inbox.filter fun m => !mine m }).setFrState x.frp frIDLE

/-- A taken entry that has not started goes back into the image. -/
def State.keepEntry (s : State) (l : Launch) (e : QEntry) : State :=
  s.modLaunch l.lid fun y => { y with savedEntries := y.savedEntries ++ [e] }

/-- The entry that a slot has taken and not started. -/
def State.takenEntry (s : State) (t : Nat) : Option QEntry :=
  match (s.slotAt t).mode with
  | .starting e _ => some e
  | _ => match s.waitOf t with
    | some w => (match w.op with | .start e _ => some e | _ => none)
    | none => none

/-- Save one slot (R430). A slot in a supervisor handler is not saved. -/
def State.saveSlot (s : State) (l : Launch) (t : Nat) : State :=
  match s.takenEntry t with
  | some e => ((s.keepEntry l e).stopSlot t).servePool (coreOf t)
  | none =>
    if (s.slotAt t).sh then s
    else
      let s1 := ((s.ungive t).settleForSave t).flushResiduals (coreOf t) l.lid
      let s2 := (s1.slotAt t).binds.foldl
        (fun s b => (s.finishWrites (coreOf t) b.2).finishPart (coreOf t) b.2) s1
      ((s2.keepSave l t).stopSlot t).servePool (coreOf t)

/-- FORCED_SAVE of slot `a` (R429, R430). -/
def execForcedSave (s : State) : Out :=
  let t := s.ev.a
  .next (match s.launches.find? fun l => (s.remaining l.lid).contains t with
    | some l => if s.mayForce l then s.saveSlot l t else s
    | none => s)

/-- DRAIN_LIMIT_EXPIRY of launch `a` (R428, R429). -/
def execDrainLimitExpiry (s : State) : Out :=
  let mark (c : Command) : Command := if c.limit ≤ s.clk then { c with expired := true } else c
  .next (s.modLaunch s.ev.a fun l => { l with drain := l.drain.map mark })

/-! ### The launch image (R431) -/

/-- The entries of an image: those of the launch's queues, then those of saved slots. -/
def State.imageEntries (s : State) (l : Launch) : List QEntry := s.entriesOf l.lid ++ l.savedEntries

/-- The two words of an entry (R132). -/
def QEntry.bytes (e : QEntry) : List Byte :=
  leBytes 8 (e.pc + e.prio * 2 ^ 56 + e.kind * 2 ^ 58 + b2n e.counted * 2 ^ 59) ++ leBytes 8 e.frame
def QEntry.ofBytes (b : List Byte) : QEntry :=
  let w := recField b 0 8
  { pc := w % 2 ^ 56, prio := bitsOf w 57 56, kind := bitsOf w 58 58, counted := bitOf w 59, frame := recField b 8 8
    moved := true }

/-- The tile block of a frame (R431). -/
def State.tileBlock (s : State) (fa : Nat) : Memory :=
  let ts := (s.frInfo fa).tiles.map fun x => FMap.getD (s.coreAt x.1).tas x.2 {}
  putAll [] ([(0, leBytes 8 1), (8, leBytes 8 ts.length), (16, ts.map fun x => BitVec.ofNat 8 x.tag)] ++
    ts.zipIdx.map (fun x => (64 + 4096 * x.2, Memory.readN x.1.data 0 4096)) ++
    ts.zipIdx.map fun x => (16448 + 256 * x.2, Memory.readN x.1.side 0 256))

/-- The scratch of a launch in a cluster: its bytes, then the full bits of its words. -/
def State.scratchImage (s : State) (l : Launch) (k : Nat) : List Byte :=
  let c := s.cluAt k
  let S := l.scratch
  (List.range S).map (fun i => Memory.read c.sram (c.scratchAt l.lid i)) ++
    (List.range (S / 64)).map fun i => BitVec.ofNat 8 ((List.range 8).foldl (fun a j =>
      if (FMap.find c.empty (c.scratchAt l.lid (8 * (8 * i + j)))).isSome then a else a + 2 ^ j) 0)

/-- The header of an image. -/
def imageHeader (l : Launch) (state size ne nm ns nt : Nat) : List Byte :=
  leBytes 4 0x474D494C ++ leBytes 2 1 ++ leBytes 2 state ++ leBytes 4 l.lid ++ leBytes 2 l.asid ++ leBytes 2 0 ++
    leBytes 8 size ++ leBytes 4 ne ++ leBytes 4 nm ++ leBytes 4 ns ++ leBytes 4 nt ++ leBytes 8 l.domain ++
    leBytes 8 l.scratch ++ leBytes 200 0 ++ (l.record ++ List.replicate 256 0).take 256

/-- Write the image of a launch, and point the saved frames at their blocks (R429 step 5, R430). -/
def State.writeImage (s : State) (l : Launch) (image state : Nat) : State :=
  let es := s.imageEntries l
  let fs := s.tileFrames l.lid
  let ks := setBits l.domain 64
  let p := imagePlan es.length l.messages.length l.saved.length fs.length ks.length l.scratch
  let s1 := s.homeWrite image (imageHeader l state p.size es.length l.messages.length l.saved.length fs.length)
  let s2 := s1.homeWrite (image + 512) (es.flatMap QEntry.bytes)
  let s3 := s2.homeWrite (image + p.msgs) (l.messages.flatMap fun m => leBytes 8 m.1 ++ leBytes 8 0 ++ (m.2 ++ List.replicate 80 0).take 80)
  let s4 := l.saved.zipIdx.foldl (fun s x =>
    let a := image + p.saves + 98304 * x.2
    (s.homeWrite a (Memory.readN x.1.2 0 98304)).frWr x.1.1 40 8 a) s3
  let s5 := fs.zipIdx.foldl (fun s x =>
    let a := image + p.tiles + 17472 * x.2
    let ts := (s.frInfo x.1).tiles
    let s1 := ((s.homeWrite a (Memory.readN (s.tileBlock x.1) 0 17472)).frWr x.1 40 8 a).modFrInfo x.1 fun f =>
      { f with tiles := [] }
    ts.foldl (fun s y => s.freeTile y.1 y.2) s1) s4
  ks.zipIdx.foldl (fun s x => s.homeWrite (image + p.scratch + roundUp64 (l.scratch + l.scratch / 64) * x.2) (s.scratchImage l x.1)) s5

/-- Every cluster of the domain releases the launch's writes (R429 steps 4 and 7). -/
def State.releaseDomain (s : State) (l : Launch) : State :=
  (setBits l.domain 64).foldl (fun s k =>
    let cs := (List.range 16).map fun i => k * 16 + i
    let s1 := cs.foldl (fun s c => (s.drainAmo c).drainStores c |>.flushResiduals c l.lid) s
    cs.foldl (fun s c => s.drainRemote c) (s1.writeBackCluster k)) s

/-- A drain can finish: every slot of the launch is at a boundary, and its copies and swaps are complete (R429). -/
def State.drainDone (s : State) (l : Launch) : Bool :=
  l.drain.isSome && (s.remaining l.lid).isEmpty && !s.swaps.any (fun x => x.lid = l.lid) &&
    s.copiesDone l.lid

/-- Continuations of a launch leave their deques for the image: each is counted at its frame, which stays IDLE (R123,
R129, R429 step 5). -/
def State.countDeques (s : State) (lid : Nat) : State :=
  let due (e : QEntry) : Bool := s.entryOf lid e && e.kind = 0 && !e.counted
  let s1 := ((s.slots.flatMap fun p => p.2.deque).filter due).foldl
    (fun s e => s.frWr e.frame 16 4 ((s.frRd e.frame 16 4 + 1) % 2 ^ 32)) s
  { s1 with slots := s1.slots.map fun p =>
      (p.1, { p.2 with deque := p.2.deque.map fun e => if due e then { e with counted := true } else e }) }

/-- The end of a drain (R429 steps 4 to 7). -/
def State.finishDrain (s : State) (l : Launch) (c : Command) : State :=
  let state := if l.saved.isEmpty && l.savedEntries.isEmpty then jDRAINED else jSAVED
  let s1 := (s.releaseDomain l).countDeques l.lid
  let s2 := (s1.writeImage l c.image state).dropEntries l.lid
  let bs := s2.slotsOf l.lid
  let s3 := bs.foldl State.stopSlot s2
  let s4 := { s3 with clusters := s3.clusters.map fun k => (k.1, k.2.freeScratch l.lid) }
  let s5 := (bs.map coreOf).eraseDups.foldl State.servePool s4
  let s6 := (s5.releaseDomain l).modLaunch l.lid fun x =>
    { x with drain := none, saved := [], savedEntries := [], messages := [], image := c.image }
  (s6.jLaunch l state).endKept (some c) jCOMPLETE 0

/-- DRAIN_FINISH of launch `a` (R429). -/
def execDrainFinish (s : State) : Out :=
  .next (match s.launch? s.ev.a with
    | some l => (match l.drain with
      | some c => if s.drainDone l then s.finishDrain l c else s
      | none => s)
    | none => s)

/-! ### RESUME_RELOAD (R432) -/

/-- Restore the scratch of a launch in a cluster from its image. -/
def State.restoreScratch (s : State) (l : Launch) (k a : Nat) : State :=
  s.modClu k fun c =>
    (List.range l.scratch).foldl (fun (c : Cluster) i =>
      let off := c.scratchAt l.lid i
      let full := bitOf (s.homeNat (a + l.scratch + i / 64) 1) (i / 8 % 8)
      { c with
        sram := Memory.write c.sram off (s.physByte (a + i))
        empty := if i % 8 != 0 then c.empty else if full then FMap.del c.empty off else FMap.put c.empty off true }) c

/-- A frame is allocated to a launch. -/
def State.frLive (s : State) (lid fa : Nat) : Bool := (s.framesOf lid).contains fa

/-- Reload an image: scratch, entries, messages; the journal entry goes to PLACED (R432). -/
def State.reload (s : State) (l : Launch) (c : Command) : State :=
  let im := c.image
  let ne := s.homeNat (im + 24) 4
  let nm := s.homeNat (im + 28) 4
  let ks := setBits l.domain 64
  let p := imagePlan ne nm (s.homeNat (im + 32) 4) (s.homeNat (im + 36) 4) ks.length l.scratch
  let s1 := ks.zipIdx.foldl (fun s x => s.restoreScratch l x.1 (im + p.scratch + roundUp64 (l.scratch + l.scratch / 64) * x.2)) s
  let s2 := ((List.range ne).map fun i => QEntry.ofBytes (s.homeRead (im + 512 + 16 * i) 16)).foldl
    (fun s e => s.pushDie (dieOfClu (frameClu e.frame)) e) s1
  let ms := ((List.range nm).map fun i => s.homeRead (im + p.msgs + 96 * i) 96).map fun b => (recField b 0 8, (b.drop 16).take 80)
  let s3 := s2.modLaunch l.lid fun x =>
    { x with resume := none, messages := ms.filter fun m => s.frLive l.lid m.1 }
  ((s3.jLaunch l jPLACED).endKept (some c) jCOMPLETE 0).clearHold l.lid

/-- RESUME_RELOAD of launch `a`: it waits until every cluster of the domain can supply scratch (R432). -/
def execResumeReload (s : State) : Out :=
  .next (match s.launch? s.ev.a with
    | some l => (match l.resume, s.placeScratch l with
      | some c, some s1 => s1.reload l c
      | _, _ => s)
    | none => s)

/-! ### WIN_DEADLOCK (R182, R433) -/

/-- A thief parked with a task taken (R139). -/
def Wait.isThief (w : Wait) : Bool :=
  match w.op with
  | .start _ _ => true
  | _ => false

/-- Every slot of a core that holds pool space is parked on a window request; a thief parked with a task taken counts as
such a slot (R182). -/
def State.deadlocked (s : State) (core : Nat) : Bool :=
  let ws := s.poolWaits core
  let holders := (coreSlots core).filter fun t => (s.slotAt t).holdsPool
  (!holders.isEmpty || ws.any Wait.isThief) && !ws.isEmpty && holders.all fun t => ws.any fun w => w.tid = t

/-- Bytes short in bits <31:0> and tiles short in bits <39:32> (R417). -/
def shortBits (bytes tiles : Nat) : Nat := bytes % 2 ^ 32 + tiles % 2 ^ 8 * 2 ^ 32

/-- What a window request of a slot lacks (R417). -/
def State.shortfall (s : State) (t : Nat) (op : WaitOp) : Nat :=
  let x := s.slotAt t
  let core := coreOf t
  match op with
  | .vwin src count cls =>
    let q := x.vwinAsks src count cls
    shortBits (winBytes q.1 q.2 - (s.poolFree core + winBytes x.vcount x.vclass)) 0
  | .twin src count => shortBits 0 (x.twinAsks src count - x.tcount - s.tasFree core)
  | .start e _ => let n := s.startNeeds t e; shortBits (n.1 - s.poolFree core) (n.2 - s.tasFree core)
  | _ => 0

/-- A parked slot that takes WIN_DEADLOCK or QWAIT is withdrawn from its place. A thief has no task that runs: it takes the
trap with the level, launch and frame of the task it has taken, and the saved pc is where that task would start (R433,
R434, DESIGN CHOICE: log 60). -/
def State.withdraw (s : State) (w : Wait) : State :=
  let s1 := s.wakeSlot w
  match w.op with
  | .start e fromDeque =>
    let fa := e.frame
    s1.modSlot w.tid fun x =>
      { x.begin (s.launch? (s.frLid fa)) fa e.pc (s.frLid fa) (s.frRd fa 52 4 % 2 ^ 14) x.prc.toNat with
        taken := some (e, fromDeque) }
  | _ => s1

/-- The slot at the head of a deadlocked core's pool order takes WIN_DEADLOCK (R433): `again` after the core has
shown it and granted nothing since. A deferred fault of the slot comes first (R73). -/
def State.raiseDeadlock (s : State) (core : Nat) (again : Bool) : State :=
  match s.poolWaits core with
  | [] => s
  | w :: _ =>
    let c := s.coreAt core
    let due := if again then c.deadlockShown && c.poolAt + 1024 ≤ s.clk else !c.deadlockShown
    if !s.deadlocked core || !due then s
    else
      let r := (s.withdraw w).trapSlot w.tid (trapBits cWINDEADLOCK 0) (BitVec.ofNat 64 (s.shortfall w.tid w.op))
      if r.2 then r.1.modCore core fun c => { c with deadlockShown := true, poolAt := s.clk } else r.1

/-- WIN_DEADLOCK of core `a` (R433). -/
def execWinDeadlock (s : State) : Out := .next (s.raiseDeadlock s.ev.a false)
/-- WIN_DEADLOCK_RETRY of core `a` (R433). -/
def execWinDeadlockRetry (s : State) : Out := .next (s.raiseDeadlock s.ev.a true)

/-! ### QWAIT (R434) -/

/-- The number of a place in TVAL (R434). -/
def Place.code : Place → Nat
  | .word _ _ => 1
  | .block _ => 2
  | .page _ _ => 3
  | .pool _ => 4
  | .barrier _ _ => 5
  | .inbox _ => 6
  | .donation _ => 7
  | .event => 9
  | .stream _ _ => 2
  | _ => 8

/-- Every slot of a die is halted (R439). -/
def State.dieHalted (s : State) (d : Nat) : Bool :=
  4096 ≤ (s.slots.filter fun p => dieOf p.1 = d && p.2.halted).length

/-- Some die is halted. -/
def State.anyDieHalted (s : State) : Bool := (List.range 4).any s.dieHalted

/-- Some slot of a launch's usable clusters has no task and is not halted. -/
def State.someFree (s : State) (l : Launch) : Bool :=
  (setBits (l.domain &&& s.usable) 64).any fun k =>
    (s.slots.filter fun p => cluOf p.1 = k && !((p.2.mode = .idle || p.2.mode = .resting) && !p.2.halted)).length < 256

/-- Eligible entries of a launch in some queue: entries that a slot of its domain is free to take (R378, R434). -/
def State.hasEntries (s : State) (l : Launch) : Bool :=
  s.someFree l && (s.slots.any (fun t => t.2.deque.any (s.entryOf l.lid)) ||
    s.clusters.any (fun k => k.2.cq.any (s.entryOf l.lid)) || s.dies.any fun d => d.2.dq.any (s.entryOf l.lid))

/-- A read stream waits on an EMPTY block and would still wait (R49, R325). -/
def State.streamWaits (s : State) (core e : Nat) : Bool :=
  match FMap.find ((s.streamFetch core e).coreAt core).streams e with
  | some st => (match st.waiting with | some (.block _) => st.buf.isEmpty | _ => false)
  | none => false

/-- The slot counts as parked for quiescence: it is parked at a place of R398 or in wfi, or it stalls at a stream that waits
on an EMPTY block (R325, R434). -/
def State.restsAt (s : State) (t : Nat) : Bool :=
  (s.waitOf t).any fun w => w.place.parks || match w.place with | .stream c e => s.streamWaits c e | _ => false

/-- The launch is quiescent (R434). -/
def State.quiescent (s : State) (l : Launch) : Bool :=
  let ts := s.slotsOf l.lid
  (l.state = jPLACED || l.state = jRUNNING) && l.drain.isNone && l.ending.isNone && !l.quiet &&
    l.busy + 70000 ≤ s.clk && !s.outstanding l.lid && !s.hasEntries l && !ts.isEmpty && ts.all s.restsAt && !s.anyDieHalted

/-- The slot of a launch that parked earliest, of several the one of the lowest TID (R434). -/
def State.quietHead (s : State) (lid : Nat) : Option Wait :=
  (s.waits.filter fun w => s.slotOf lid w.tid).foldl (fun a w =>
    match a with
    | some v => if w.since < v.since || (w.since = v.since && w.tid < v.tid) then some w else a
    | none => some w) none

/-- QWAIT on a slot whose access p is withdrawn: its other earlier instructions complete, and a fault of one comes first;
what of them would park waits for the handler's return. The user record gets the access (R73, R420, R434). -/
def State.qwaitAccess (s : State) (t : Nat) (p : Pend) (tval : Word) : State × Bool :=
  let s1 := s.drainWide t
  let s2 := s1.settleRest t (some p) [] (s1.slotAt t).pend
  let x := s2.slotAt t
  match x.firstDue with
  | some (i, d) => (s2.enterDue t d (x.without i d), false)
  | none =>
    let s3 := (s2.setAside t (x.pend.erase p)).modSlot t fun y =>
      y.setDef false fun _ => { dfp := p.iaddr, dfv := p.va, dfi := dfiOf cQWAIT p.dest p.iword }
    (s3.enterTrap t (trapBits cQWAIT 0 + 2 ^ 8) tval (s3.slotAt t).pc, true)

/-- QWAIT on a parked slot: its operation is withdrawn, a long-latency access into the deferred-fault record of the user
(R434). A deferred fault of the slot comes first, and then the answer is false (R73). -/
def State.raiseQwait (s : State) (w : Wait) : State × Bool :=
  let s1 := s.withdraw w
  let tval : Word := BitVec.ofNat 64 w.place.code
  match (s1.slotAt w.tid).waitsFor with
  | some (_, p) => s1.qwaitAccess w.tid p tval
  | none => s1.trapSlot w.tid (trapBits cQWAIT 0) tval

/-- QWAIT of launch `a` (R434). -/
def execQwait (s : State) : Out :=
  .next (match s.launch? s.ev.a with
    | some l => (match s.quietHead l.lid with
      | some w =>
        if s.quiescent l then
          let r := s.raiseQwait w
          if r.2 then r.1.modLaunch l.lid fun x => { x with quiet := true } else r.1
        else s
      | none => s)
    | none => s)

/-! ### LAUNCH_RETIRE (R456) -/

/-- LAUNCH_RETIRE of launch `a` (R455 to R457). -/
def execLaunchRetire (s : State) : Out := .next (s.retire s.ev.a)

end Sys2Proof.Machine
end

