-- ==== Sys2Proof/Machine/Agents.lean ====
section
/-!
DEFINITION. Steps of the device's own agents: steal engines, shadows, fetch and walkers, leases, copy, stream and swap
engines, homes, directories, peers and stores. A step reads its place from `ev`: `a`, and `b` where it needs two. A step
whose condition does not hold changes nothing.
-/
namespace Sys2Proof.Machine

/-- A step of an agent at its place. -/
def State.at2 (s : State) (f : State → Nat → Nat → State) : Out := .next (f s s.ev.a s.ev.b)

/-! ### Steal engines (R136, R139) -/

/-- PROBE_PASS of slot `a` (R136). -/
def execProbePass (s : State) : Out := .next (s.probePass s.ev.a)
/-- THIEF_RESUME of slot `a` (R139). -/
def execThiefResume (s : State) : Out := .next (s.thiefResume s.ev.a)

/-- The wait after a fruitless pass ends. -/
def Slot.wakeEngine (x : Slot) : Slot := { x with mode := .idle, notice := false }

/-- WORK_NOTICE reaches slot `a` (R139). -/
def execWorkNotice (s : State) : Out :=
  let x := s.slotAt s.ev.a
  .next (if x.mode = .resting && x.notice then s.modSlot s.ev.a Slot.wakeEngine else s)

/-- STEAL_WAIT_EXPIRY of slot `a` (R139). -/
def execStealWaitExpiry (s : State) : Out :=
  let x := s.slotAt s.ev.a
  .next (if x.mode = .resting && x.restAt + 1024 ≤ s.clk then s.modSlot s.ev.a Slot.wakeEngine else s)

/-! ### Pending results and fetch (R160, R169, R192, R194, R420) -/

/-- What the first ended shadow of a running slot holds, once it has arrived. -/
def Slot.due (x : Slot) : Option PendOut :=
  match x.ended with
  | some (_, p) => if x.mode = .running && p.arrived then some p.out else none
  | none => none

/-- A deferred fault of the slot is due: its shadow has ended. An ldx that an accumulate fault awaits takes that one (R194,
R357). -/
def Slot.faultDue (x : Slot) : Bool :=
  match x.due with
  | some (.fault _ _ _) => true
  | some (.full true) => x.accFault.isSome
  | _ => false

/-- TRAP_ENTRY of slot `a`: its deferred fault is taken (R194, R420). -/
def execTrapEntry (s : State) : Out := .next (if (s.slotAt s.ev.a).faultDue then s.deferTrap s.ev.a else s)

/-- The first pending result that has not arrived arrives. -/
def arriveFirst : List Pend → List Pend
  | [] => []
  | p :: ps => if p.arrived then p :: arriveFirst ps else { p with arrived := true } :: ps

/-- SHADOW_RESULT_ARRIVAL at slot `a` (R192). -/
def execShadowResultArrival (s : State) : Out :=
  let t := s.ev.a
  let s1 := s.modSlot t fun x => { x with pend := arriveFirst x.pend }
  .next (if (s.slotAt t).mode = .running then s1.settle t else s1)

/-- WIDE_COMPLETION at core `a` (R195). -/
def execWideCompletion (s : State) : Out := .next (s.stepWide s.ev.a)

/-- How the fetch of a slot whose line is missing goes on. -/
def fetchDone (t : Nat) (hit : Bool) : Run Unit → State
  | .ok _ s1 => if hit then s1.modSlot t fun x => { x with fetchMiss := false } else s1
  | .stop (.trap c a v) s1 => State.takeTrap { (s1.modSlot t fun x => { x with fetchMiss := false }) with cur := t } c a v
  | .stop (.park p op) s1 => (s1.modSlot t fun x => { x with fetchMiss := false }).parkAt t p op

/-- The slot waits for a line. -/
def Slot.awaitsLine (x : Slot) : Bool := x.mode = .running && x.fetchMiss

/-- WALK_COMPLETION for the fetch of slot `a`: the final PTE is classified (R160). -/
def execWalkCompletion (s : State) : Out :=
  let t := s.ev.a
  if !(s.slotAt t).awaitsLine then .next s
  else
    let asid := (s.slotAt t).asid
    match s.missAddr t with
    | none => .next s
    | some va =>
      .next (fetchDone t false (match s.xlate t asid accFetch va with
        | (s1, .page) => trapAt cPAGE accFetch va s1
        | (s1, .wait) => .stop (.park (.page asid (va / 2 ^ 16)) .reissue) s1
        | (s1, .held has) => .stop (.park (.walker (dieOf t) has) .reissue) s1
        | (s1, .poison) => trapAt cPOISON accFetch va s1
        | (s1, .ok _ _ _) => .ok () s1))

/-- INSTRUCTION_CACHE_FILL for slot `a` (R169). A slot whose line a sibling's fill has brought goes on. -/
def execInstructionCacheFill (s : State) : Out :=
  let t := s.ev.a
  .next (if (s.slotAt t).awaitsLine then
      fetchDone t true (match s.missAddr t with | some va => s.fillLine t va | none => .ok () s)
    else s)

/-- The slot is neither parked nor without a task: it runs, or its access is held (R165, R197). -/
def Slot.awake (x : Slot) : Bool := x.mode = .running || x.mode = .held

/-- CORE_SLEEP of core `a`: while every slot of it is parked, idle or resting it enters the depth of CSLP (R197). -/
def execCoreSleep (s : State) : Out :=
  let c := s.ev.a
  let busy := (coreSlots c).any fun t => (s.slotAt t).awake
  .next (s.modCore c fun k => { k with depth := if busy then 0 else k.cslp })

/-! ### Leases and residuals (R360, R364, R435, R436) -/

/-- Clk of a lease period. -/
def State.period (s : State) : Nat := 700 * s.lease

/-- LEASE_HEARTBEAT of cluster `a`: every period all its leases, write and read, are renewed at every home (R435). -/
def execLeaseHeartbeat (s : State) : Out :=
  let k := s.ev.a
  let renew (l : Lease) : Lease := if l.cl = k && !l.dead then { l with beat := s.clk } else l
  .next (if (s.cluAt k).beatAt + s.period ≤ s.clk && bitOf s.usable k then
      { (s.modClu k fun c => { c with beatAt := s.clk }) with
        homes := s.homes.map fun h => (h.1, { h.2 with leases := h.2.leases.map renew }) }
    else s)

/-- A lease has had no heartbeat for 16 periods; while a die is halted none expires (R435, R439). -/
def State.lapsed (s : State) (l : Lease) : Bool := !l.dead && l.beat + 16 * s.period ≤ s.clk && !s.anyDieHalted

/-- WRITE_LEASE_EXPIRY at home `a` for the grain at `b`: it keeps the value last written back, poisoned (R436). The
agent of a cluster that is in use has sent its heartbeats. -/
def execWriteLeaseExpiry (s : State) : Out :=
  s.at2 fun s h pa =>
    match (s.homeAt h).leases.find? fun l => !l.read && l.pa = pa && s.lapsed l && !bitOf s.usable l.cl with
    | some l => (s.poisonGrain pa l.size l.desc).modHome h fun x =>
        { x with leases := x.leases.map fun y => if y = l then { y with dead := true } else y }
    | none => s

/-- READ_LEASE_EXPIRY at home `a` for the remote grain `b`: the home drops it (R436). The agent of a cluster that is in use
has sent its heartbeats. -/
def execReadLeaseExpiry (s : State) : Out :=
  s.at2 fun s h key =>
    match (s.homeAt h).leases.find? fun l => l.read && l.pa = key && s.lapsed l && !bitOf s.usable l.cl with
    | some l => s.modHome h fun x => { x with remote := FMap.del x.remote key, leases := x.leases.filter fun y => y != l }
    | none => s

/-- The age at which a residual is sent: the smallest RAGE among its slots that run its launch, else the launch's
(R364). -/
def State.ageLimit (s : State) (r : Residual) : Nat :=
  let rs := (r.req.slots.filter fun t => s.slotOf r.req.lid t).map fun t => (s.slotAt t).rage
  match rs with
  | x :: xs => xs.foldl min x
  | [] => (s.launch? r.req.lid).elim 1024 Launch.rage

/-- A residual is due. -/
def State.residualDue (s : State) (r : Residual) : Bool := s.ageLimit r ≤ s.clk - r.born

/-- RESIDUAL_AGE_EXPIRY at core `a` for the unit `b` (R364). -/
def execResidualAgeExpiry (s : State) : Out :=
  s.at2 fun s c pa =>
    match (s.coreAt c).residuals.find? fun r => r.req.pa = pa && s.residualDue r with
    | some r => s.sendResidual c r
    | none => s

/-- QUOTA_WINDOW_START: every home counts afresh, under the QUOTA of the moment (R359, R360). -/
def execQuotaWindowStart (s : State) : Out :=
  .next (if s.clk / 256 = s.window then s
    else
      { s with
        window := s.clk / 256, quotaNow := s.hqota
        homes := s.homes.map fun h => (h.1, { h.2 with quota := [] }) })

/-! ### Swap, copy and stream engines -/

/-- PAGE_NOTICE at C-die `a`: ASID `b`, page number `v` (R167). -/
def execPageNotice (s : State) : Out :=
  let n := (s.ev.a, s.ev.b, s.ev.v.toNat)
  .next (if s.notices.contains n then s.pageNotice n.1 n.2.1 n.2.2 else s)

/-- SWAP_OUT: the swap at index `a` (R299). -/
def execSwapOut (s : State) : Out := .next (s.swapOutStep s.ev.a)
/-- SWAP_IN: the swap at index `a` (R300). -/
def execSwapIn (s : State) : Out := .next (s.swapInStep s.ev.a)
/-- NVME_COMPLETION: the drive answers the swap at index `a`; `b` = 1 says without error (R301). -/
def execNvmeCompletion (s : State) : Out := .next (s.nvmeDone s.ev.a (s.ev.b = 1))

/-- COPY_ARRIVAL: the copy at index `b` of core `a` moves on (R333 to R335). -/
def execCopyArrival (s : State) : Out := s.at2 State.copyStep
/-- COPY_COMPLETION: the copy at index `b` of core `a` ends (R336). -/
def execCopyCompletion (s : State) : Out := s.at2 State.completeCopy

/-- STREAM_FETCH by engine `b` of core `a` (R325). -/
def execStreamFetch (s : State) : Out := s.at2 State.streamFetch
/-- STREAM_WRITE by engine `b` of core `a` (R324, R325). -/
def execStreamWrite (s : State) : Out := s.at2 State.streamWrite

/-! ### Homes: accumulates, atomics, markers (R348, R360, R362, R369, R293) -/

/-- The oldest request of a core to a place, with its place in the list of those on their way (R15). -/
def Core.oldestTo (c : Core) (p : Nat) : Option (Nat × HomeReq) :=
  match c.out.findIdx? fun r => r.place = p with
  | some i => c.out[i]?.map fun r => (i, r)
  | none => none

/-- The oldest request of core `a` to place `b` is served there, if it is of the kind asked for and, as a release, may be
(R15, R369). -/
def State.serveOldest (s : State) (core p : Nat) (amo : Bool) : State :=
  match (s.coreAt core).oldestTo p with
  | some (i, .acc _) => if amo then s else s.serveAt core i
  | some (i, .amo a) => if amo && s.relReady core a then s.serveAt core i else s
  | none => s

/-- ACCUMULATE_REQUEST: the oldest request of core `a` to home `b` arrives (R15, R360). -/
def execAccumulateRequest (s : State) : Out := s.at2 fun s c h => s.serveOldest c h false
/-- ACCUMULATE_ANSWER: the oldest answer of home `b` reaches core `a` (R362, R366). -/
def execAccumulateAnswer (s : State) : Out := s.at2 fun s c h => s.stepAnswer c fun a => a.req.home = h
/-- REMAP_RETURN at core `a` (R293). -/
def execRemapReturn (s : State) : Out := .next (s.reissue s.ev.a)

/-- No earlier entry of the queue has the grain of entry i: entries of one grain are applied in order (R360). -/
def Home.mayApply (h : Home) (i : Nat) : Bool :=
  match h.wq[i]? with
  | some e => (h.wq.take i).all fun f => f.grains.all fun g => !e.grains.contains g
  | none => false

/-- WRITE_QUEUE_APPLY: entry `b` of home `a` (R360). -/
def execWriteQueueApply (s : State) : Out :=
  s.at2 fun s h i => if (s.homeAt h).mayApply i then s.applyEntry h i else s

/-- ATOMIC_REQUEST: the oldest posted atomic of core `a` to place `b` is performed (R348, R349). -/
def execAtomicRequest (s : State) : Out := s.at2 fun s c p => s.serveOldest c p true

/-- RELEASE_MARKER of core `b` at home `a`: the home confirms the counts that it has reached (R369). -/
def execReleaseMarker (s : State) : Out := s.at2 fun s h c => s.modHome h fun x => x.confirm c

/-! ### Clusters: stores, directory, write-backs (R283 to R285, R291, R387) -/

/-- STORE_BUFFER_LEAVE of core `a`: the store at index `b` leaves once the core owns what it writes, and nothing orders it
behind an older one (R386 to R388). -/
def execStoreBufferLeave (s : State) : Out := s.at2 fun s c i => if s.mayLeave c i then s.leaveAt c i else s

/-- The grains that a buffered store writes, and that its core must own first (R284, R388). -/
def SBEntry.wanted (e : SBEntry) : List Spot :=
  match e.loc with
  | .phys pa ck g _ dom => (grainBases g pa e.bytes.length).map fun b => { key := b, ck := ck, g := g, dom := dom }
  | _ => []

/-- The grains that the buffered stores of a core write. -/
def Core.wanted (c : Core) : List Spot := (c.storeBuf.flatMap SBEntry.wanted).eraseDups

/-- A core may ask for ownership of a grain: it does not own it, and no request for it is in progress, but for one of its own
that every core has answered (R284). -/
def State.mayAsk (s : State) (core : Nat) (x : Spot) : Bool :=
  !s.owns core x && ((FMap.find (s.cluAt (cluOfCore core)).dir x.key).elim true fun d =>
    d.request.isNone || d.request = some (core % 16, []))

/-- OWNERSHIP_REQUEST by core `a` for the grain at `b`, for a buffered store: invalidations go to every other core that the
entry names, and the data comes with the grant (R284). -/
def execOwnershipRequest (s : State) : Out :=
  s.at2 fun s core base =>
    match (s.coreAt core).wanted.find? fun x => x.key = base with
    | some x => if s.mayAsk core x then (s.openDir (cluOfCore core) x []).askDir core x else s
    | none => s

/-- INVALIDATION_ACK by core `a` for the grain at `b`: dirty data travels with it (R284). -/
def execInvalidationAck (s : State) : Out := s.at2 fun s core base => s.ackDir (cluOfCore core) (core % 16) base

/-- EVICTION_NOTICE of core `a` for the grain at `b`: its L1 gives the grain up (R283). -/
def execEvictionNotice (s : State) : Out := s.at2 State.l1Notice

/-- WRITE_BACK of the grain or line at `b`: with `c` = 0 it leaves the cluster cache of cluster `a` for its home, with
`c` = 1 the dirty bytes of the L1 of core `a` reach the cluster cache, with `c` = 2 it leaves home slice `a` for HBM (R285,
R291). -/
def execWriteBack (s : State) : Out :=
  s.at2 fun s a key =>
    if s.ev.c = 0 then s.cluOut (a * 16) a key
    else if s.ev.c = 1 then s.l1Push a key
    else s.lineDrop a key

/-! ### Peers (R96, R151, R296) -/

/-- PEER_READ_REQUEST: the line at key `b` of a peer is served by its owner and cached at home `a` for cluster `v`; with `c` = 1 a peer
reads `b` bytes of this device at `a`, as the host would (R96, R296). -/
def execPeerReadRequest (s : State) : Out :=
  let e := s.ev
  .next (if e.c = 1 then { s with hostData := (List.range e.b).map fun i => s.deviceByte (e.a + i) }
    else if isPeerKey e.b then s.remoteIn e.a (lineBase e.b) (e.v.toNat % 64)
    else s)

/-- PEER_WRITE: the oldest write that home `a` passes on reaches its owner; with `c` = 1 a peer writes `bytes` at `a` of
this device, and with `c` = 2 the memory of peer `b` changes at `a` (R296). -/
def execPeerWrite (s : State) : Out :=
  let e := s.ev
  .next (if e.c = 1 then s.homeWrite e.a (e.bytes.take (s.memBytes - e.a))
    else if e.c = 2 then s.performRemote e.b e.a e.bytes
    else s.stepRemote e.a)

/-- REMOTE_WRITE_ACK at core `a` (R296). -/
def execRemoteWriteAck (s : State) : Out :=
  .next (s.modCore s.ev.a fun c => { c with remoteAcks := c.remoteAcks - 1 })

/-- ACQUIRE_DROP_NOTICE at home `a`: it drops every remote grain (R296). -/
def execAcquireDropNotice (s : State) : Out := .next (s.modHome s.ev.a Home.dropRemote)

/-- A descriptor reaches a device's queues: 0 accepted, 1 rejected, 2 busy (R151). A device that the fabric does not know
rejects it, and a peer answers as it will. -/
def State.donationAnswer (s : State) (handle : Nat) : Nat :=
  if bitsOf handle 43 32 = Config.deviceId % 2 ^ 12 then s.donqAnswer handle
  else if !Config.knownDevice (bitsOf handle 43 32) then 1
  else Config.peerAnswer s.tick % 3

/-- An accepted descriptor of this device enters its queue. -/
def State.donationEnter (s : State) (handle answer : Nat) (desc : List Byte) : State :=
  if answer = 0 && bitsOf handle 43 32 = Config.deviceId % 2 ^ 12 then s.donqPut (bitsOf handle 27 24) desc else s

/-- DONATION_RECEIVE: descriptor `a` of those sent reaches its device; with `c` = 1 a peer's descriptor `bytes` with
handle `v` reaches this one (R151). -/
def execDonationReceive (s : State) : Out :=
  let e := s.ev
  .next (if e.c = 1 then
      let h := e.v.toNat
      s.donationEnter h (if bitsOf h 43 32 = Config.deviceId % 2 ^ 12 then s.donqAnswer h else 1) (fitBytes 64 e.bytes)
    else match s.donOut[e.a]? with
      | none => s
      | some (t, lid, h, d) =>
        let n := s.donationAnswer h
        let s1 := { s with donOut := dropIdx s.donOut e.a }
        if n = 0 then s1.donationEnter h 0 d else { s1 with donIn := s1.donIn ++ [(n, t, lid, h, d)] })
where
  /-- Bytes cut or filled to a length. -/
  fitBytes (n : Nat) (bs : List Byte) : List Byte := (bs ++ List.replicate n 0).take n

/-- DONATION_REPLY: reply `a` reaches the sender's inbox, when it has room (R151, R339). -/
def execDonationReply (s : State) : Out :=
  .next (match s.donIn[s.ev.a]? with
    | none => s
    | some (n, t, lid, h, d) =>
      if 256 ≤ (s.coreAt (coreOf t)).inbox.length then s
      else State.postMsg { s with donIn := dropIdx s.donIn s.ev.a } t lid (msgBytes (n + 1) 0 0 0 h d))

end Sys2Proof.Machine
end

