-- ==== Sys2Proof/Machine/Control.lean ====
section
/-!
DEFINITION. Branches, jumps (R209 to R211) and the access to special registers (R212 to R215).
-/
namespace Sys2Proof.Machine

/-- Go to the target if the condition holds, else to PC + 4 (R209). -/
def State.branch (s : State) (taken : Bool) (off : BitVec 12) : State :=
  if taken then s.jump (relTarget s.me.pc off) else s.advance 4

/-- beq (R209). -/
def execBeq (a b : BitVec 5) (off : BitVec 12) (s : State) : Out := .next (s.branch (s.reg a = s.reg b) off)
/-- bne (R209). -/
def execBne (a b : BitVec 5) (off : BitVec 12) (s : State) : Out := .next (s.branch (s.reg a ≠ s.reg b) off)
/-- blt (R209). -/
def execBlt (a b : BitVec 5) (off : BitVec 12) (s : State) : Out := .next (s.branch ((s.reg a).slt (s.reg b)) off)
/-- bge (R209). -/
def execBge (a b : BitVec 5) (off : BitVec 12) (s : State) : Out := .next (s.branch (!(s.reg a).slt (s.reg b)) off)
/-- bltu (R209). -/
def execBltu (a b : BitVec 5) (off : BitVec 12) (s : State) : Out := .next (s.branch ((s.reg a).ult (s.reg b)) off)
/-- bgeu (R209). -/
def execBgeu (a b : BitVec 5) (off : BitVec 12) (s : State) : Out := .next (s.branch (!(s.reg a).ult (s.reg b)) off)

/-- jal (R210). -/
def execJal (d : BitVec 5) (off : BitVec 20) (s : State) : Out :=
  .next ((s.setReg d (s.me.pc + 4)).jump (relTarget s.me.pc off))
/-- jalr (R210): s[a] is read before s[d] is written, and bit 0 of the target is cleared. -/
def execJalr (d a : BitVec 5) (imm : BitVec 15) (s : State) : Out :=
  .next ((s.setReg d (s.me.pc + 4)).jump ((s.reg a + sx imm) &&& 0xFFFFFFFFFFFFFFFE))

/-- The id may not be reached at the slot's level (R70, R213). -/
def State.sprBad (s : State) (sr : BitVec 12) : Bool :=
  !srDefined sr.toNat || (0x100 ≤ sr.toNat && !s.me.sup)

/-- The wait of R215: PRC and FLG wait for the slot's earlier wide instructions. -/
def State.sprWait (s : State) (sr : BitVec 12) : State := if sr.toNat < 2 then s.drainWide s.cur else s

/-- A write of a value to a special register, ILL when the register refuses it (R213). -/
def State.sprWrite (s : State) (i : Instr) (sr : BitVec 12) (v : Word) : State :=
  match s.writeSpr s.cur s.me.sup sr.toNat v with
  | some s1 => s1.advance 4
  | none => s.ill i

/-- mfs (R213). -/
def execMfs (d : BitVec 5) (sr : BitVec 12) (s : State) : Out :=
  if s.sprBad sr then .next (s.ill (.mfs d sr))
  else
    let s1 := s.sprWait sr
    .next ((s1.setReg d (s1.readSpr s1.cur s1.me.sup sr.toNat)).advance 4)

/-- mts (R213). -/
def execMts (a : BitVec 5) (sr : BitVec 12) (s : State) : Out :=
  if s.sprBad sr then .next (s.ill (.mts a sr))
  else
    let s1 := s.sprWait sr
    .next (s1.sprWrite (.mts a sr) sr (s1.reg a))

/-- mtsset (R213). -/
def execMtsset (a : BitVec 5) (sr : BitVec 12) (s : State) : Out :=
  if s.sprBad sr then .next (s.ill (.mtsset a sr))
  else
    let s1 := s.sprWait sr
    .next (s1.sprWrite (.mtsset a sr) sr (s1.readSpr s1.cur s1.me.sup sr.toNat ||| s1.reg a))

/-- mtsclr (R213). -/
def execMtsclr (a : BitVec 5) (sr : BitVec 12) (s : State) : Out :=
  if s.sprBad sr then .next (s.ill (.mtsclr a sr))
  else
    let s1 := s.sprWait sr
    .next (s1.sprWrite (.mtsclr a sr) sr (s1.readSpr s1.cur s1.me.sup sr.toNat &&& ~~~(s1.reg a)))

end Sys2Proof.Machine
end

