-- ==== Sys2Proof/Machine/Mailbox.lean ====
section
/-!
DEFINITION. The commands of the mailbox and of the management side-band (R108 to R111, R141, R437, R438, R462 to R464).
A command that runs through the mailbox reads its arguments from the data area; with `c` = 1 it comes over the side-band,
with its arguments in `bytes`.
-/
namespace Sys2Proof.Machine

/-! ### Arguments and answers (R109, R110) -/

/-- The arguments of a command, when it is this command that runs. The side-band carries it in every state of the device,
RECOVERY and BOOT_FAIL among them (R118, R462). -/
def State.mbArgs (s : State) (code : Nat) : Option (List Byte) :=
  if s.ev.c = 1 then (if s.sideOn then some s.ev.bytes else none)
  else if s.barOn && s.mbRun = code then some (Memory.readN s.mbData 0 (min s.mbLen 1024)) else none

/-- Status codes of MBSTS (R109). -/
def mbDone : Nat := 1
def mbRefused : Nat := 2
def mbBusy : Nat := 3

/-- A command ends: its status, and its response in place of the data area (R109). -/
def State.answer (s : State) (st : Nat) (resp : List Byte) : State :=
  if s.ev.c = 1 then { s with sideband := (BitVec.ofNat 8 st :: resp) :: s.sideband }
  else
    { s with
      mbSts := st, mbResp := resp.length, mbRun := 0
      mbData := if resp.isEmpty then s.mbData else Memory.writeN [] 0 resp }

/-- How a command ended. -/
inductive MbEnd where
  | done (s : State) (resp : List Byte)
  | refused
  | busy

/-- A command whose arguments are at least `need` bytes long (R110): a refused or busy one has no effect. -/
def State.command (s : State) (code need : Nat) (f : List Byte → MbEnd) : Out :=
  .next (match s.mbArgs code with
    | none => s
    | some a =>
      if a.length < need then s.answer mbRefused []
      else match f a with
        | .done s1 resp => s1.answer mbDone resp
        | .refused => s.answer mbRefused []
        | .busy => s.answer mbBusy [])

/-- Bytes cut or filled to a length. -/
def fitTo (n : Nat) (bs : List Byte) : List Byte := (bs ++ List.replicate n 0).take n

/-! ### Attestation and keys (R108, R109) -/

/-- GET_CERT. -/
def execGetCert (s : State) : Out :=
  s.command 0x10 4 fun a =>
    let part := (Config.certChain.drop (recField a 0 4)).take 1016
    .done s (leBytes 4 Config.certChain.length ++ leBytes 4 part.length ++ part)

/-- The report that ATTEST signs. The firmware's digest is that of the image it was started from (DESIGN CHOICE, log 81). -/
def State.report (s : State) (nonce : List Byte) : List Byte :=
  sha256 s.fwImage ++ leBytes 4 (Config.imageSvn s.fwImage) ++ leBytes 12 0 ++ serialBytes ++
    sha256 s.capRecord ++ nonce

/-- ATTEST. -/
def execAttest (s : State) : Out :=
  s.command 0x11 32 fun a =>
    let r := s.report (a.take 32)
    .done s (r ++ fitTo 384 (Config.pssSign r))

/-- Storage key of a sealed ASID (R109). -/
def storageKey (secret : List Byte) (asid : Nat) : List Byte :=
  hkdf256 secret serialBytes (ascii "swap" ++ leBytes 2 asid)

/-- An ASID that an argument may name. -/
def asidArg (n : Nat) : Bool := 1 ≤ n && n < 2 ^ 14

/-- SEAL: a ciphertext that does not decrypt to 32 bytes is refused. -/
def execSealCmd (s : State) : Out :=
  s.command 0x12 392 fun a =>
    let n := recField a 0 2
    if !asidArg n || !zeroBytes a 2 6 then .refused
    else match Config.oaepDecrypt ((a.drop 8).take 384) with
      | some secret =>
        if secret.length != 32 then .refused
        else .done (s.modAsid n fun x => { x with secret := some secret, key := storageKey secret n, nonce := 0 }) []
      | none => .refused

/-- An ASID has a live launch (R104). -/
def State.asidBusy (s : State) (n : Nat) : Bool := s.launches.any fun l => l.asid = n && jPLACED ≤ l.state

/-- A region of 2 MiB is recalled from every cluster and zeroed at its homes (R111). -/
def State.zeroRegion (s : State) (r : Nat) : State :=
  let pa := r * 2 ^ 21
  let s1 := s.recall pa (2 ^ 21)
  let s2 := ((List.range 16).foldl (fun s h => s.applyWhere h fun q => q.pa / 2 ^ 21 = r) s1).homesDrop pa (2 ^ 21)
  { s2 with mem := s2.mem.filter fun c => c.1 / 2 ^ 21 != r, poison := clearPoison s2.poison pa (2 ^ 21), mended := s2.mended.filter fun g => g.1 / 2 ^ 21 != r }

/-- Every region that an ASID owns is zeroed, and then released (R111). -/
def State.releaseRegions (s : State) (n : Nat) : State :=
  let rs := (s.owned.filter fun r => r.2 = n).map fun r => r.1
  let s1 := rs.foldl State.zeroRegion s
  { s1 with owned := s1.owned.filter fun r => r.2 != n }

/-- UNSEAL. -/
def execUnsealCmd (s : State) : Out :=
  s.command 0x13 2 fun a =>
    let n := recField a 0 2
    if !asidArg n then .refused
    else if s.asidBusy n then .busy
    else .done ((s.releaseRegions n).modAsid n fun x =>
      { x with secret := none, key := fitTo 32 (Config.randomKey s.tick) }) []

/-- SEAL_RANGE (R111). -/
def execSealRange (s : State) : Out :=
  s.command 0x14 16 fun a =>
    let n := recField a 0 2
    let count := recField a 4 4
    let base := recField a 8 8
    let r0 := base / 2 ^ 21
    let mine (r : Nat) : Bool := r0 ≤ r && r < r0 + count
    if !zeroBytes a 2 2 || count = 0 || base % 2 ^ 21 != 0 || (s.asidAt n).secret.isNone || 2 ^ 14 ≤ n ||
        s.memBytes < base + count * 2 ^ 21 || s.owned.any fun r => mine r.1 && r.2 != n then .refused
    else
      let owned := (List.range count).foldl (fun m i => FMap.put m (r0 + i) n) s.owned
      let hide (w : Nat) : Nat := if mine (windowBase w / 2 ^ 21) then withBit w 0 false else w
      .done { s with owned := owned, windows := s.windows.map fun w => (w.1, hide w.2) } []

/-- The root argument is a PTBR value that firmware accepts (R157). -/
def rootOk (v : Nat) : Bool :=
  9 ≤ bitsOf v 4 0 && bitsOf v 4 0 ≤ 20 && bitsOf v 51 12 * 2 ^ 12 % (8 * 2 ^ bitsOf v 4 0) = 0

/-- ASID_SET: the storage key is drawn when the ASID becomes live (R109). -/
def execAsidSet (s : State) : Out :=
  s.command 0x20 16 fun a =>
    let n := recField a 0 2
    let root := recField a 8 8
    if !asidArg n || !zeroBytes a 2 6 || !rootOk root then .refused
    else if s.asidBusy n then .busy
    else .done (s.modAsid n fun x =>
      { x with
        live := true, ptbr := BitVec.ofNat 64 (ptbrStored root)
        key := if x.live then x.key else fitTo 32 (Config.randomKey s.tick) }) []

/-- ASID_CLEAR (R109, R111). -/
def execAsidClear (s : State) : Out :=
  s.command 0x21 2 fun a =>
    let n := recField a 0 2
    if !asidArg n then .refused
    else if s.asidBusy n then .busy
    else .done ((s.releaseRegions n).modAsid n fun x => { x with live := false }) []

/-- STVEC_SET (R464). -/
def execStvecSet (s : State) : Out :=
  s.command 0x22 8 fun a =>
    let v := recField a 0 8
    if v % 2 = 1 || 2 ^ 56 ≤ v then .refused else .done { s with stvec := BitVec.ofNat 64 v } []

/-! ### Donation queues (R141) -/

/-- The handle of an open queue. -/
def donHandle (q gen : Nat) : Nat := gen % 2 ^ 24 + q * 2 ^ 24 + Config.deviceId % 2 ^ 12 * 2 ^ 32

/-- DQ_OPEN: a queue that is closed opens for a launch that is PLACED or RUNNING. -/
def execDqOpen (s : State) : Out :=
  s.command 0x30 8 fun a =>
    let q := recField a 0 1
    match s.launch? (recField a 4 4) with
    | none => .refused
    | some l =>
      if 16 ≤ q || !zeroBytes a 1 3 || !(l.state = jPLACED || l.state = jRUNNING) || (s.donqAt q).lid.isSome then .refused
      else .done (s.modDonq q fun d => { d with lid := some l.lid, descs := [] }) (leBytes 8 (donHandle q (s.donqAt q).gen))

/-- DQ_CLOSE. -/
def execDqClose (s : State) : Out :=
  s.command 0x31 1 fun a =>
    let q := recField a 0 1
    if 16 ≤ q then .refused else .done (s.closeDonq q) []

/-- FENCE_STATUS (R437). -/
def execFenceStatus (s : State) : Out :=
  s.command 0x40 0 fun _ =>
    .done s (leBytes 8 s.fencedClusters ++ leBytes 1 s.fencedDies ++ leBytes 1 0 ++ leBytes 2 s.fencedMdies ++
      leBytes 1 s.fencedFlash ++ leBytes 3 0 ++ leBytes 4 s.fencedLinks)

/-! ### Debug (R438) -/

/-- The slots that a TID argument of DBG_HALT and DBG_RUN names (R110). -/
def dbgSlots (n : Nat) : List Nat :=
  if n % 4096 = 4095 then (List.range 4096).map fun i => n / 4096 * 4096 + i else [n]

/-- DBG_HALT (R438). -/
def execDbgHalt (s : State) : Out :=
  s.command 0x50 2 fun a =>
    let n := recField a 0 2
    if 2 ^ 14 ≤ n then .refused
    else .done ((dbgSlots n).foldl (fun s t => s.haltSlot t) s) []

/-- DBG_RUN. -/
def execDbgRun (s : State) : Out :=
  s.command 0x51 2 fun a =>
    let n := recField a 0 2
    if 2 ^ 14 ≤ n then .refused
    else .done ((dbgSlots n).foldl (fun s t => s.modSlot t fun x => { x with halted := false, stepOne := false }) s) []

/-- DBG_STEP: one instruction of a halted slot may issue. -/
def execDbgStep (s : State) : Out :=
  s.command 0x52 2 fun a =>
    let n := recField a 0 2
    if 2 ^ 14 ≤ n || !(s.slotAt n).halted then .refused
    else .done (s.modSlot n fun x => { x with stepOne := true }) []

/-- A TID and an aperture offset that a debugger may name. -/
def dbgPlaceOk (a : List Byte) : Bool :=
  recField a 0 2 < 2 ^ 14 && zeroBytes a 2 6 && recField a 8 8 < 2 ^ 17 && recField a 8 8 % 8 = 0

/-- How the debugger finds the slot: as a sibling slot would (R191). -/
def State.dbgState (s : State) (t : Nat) : Nat := s.apState (coreOf t * 16 + (t + 1) % 16) t

/-- DBG_READ: an idle slot reads as zero, a running one is refused. -/
def execDbgRead (s : State) : Out :=
  s.command 0x53 16 fun a =>
    let t := recField a 0 2
    if !dbgPlaceOk a || s.dbgState t = 2 then .refused
    else if s.dbgState t = 1 then .done s (leBytes 8 0)
    else
      let r := s.apRead t (s.slotAt t).sup (recField a 8 8) 8
      .done r.2 r.1

/-- DBG_WRITE: a write that would raise a trap is refused. The deferred-fault record that a write of DFP, DFV or DFI reaches
is that of the target slot's level (R421 names the executing level, and a debugger has none, log 87). -/
def execDbgWrite (s : State) : Out :=
  s.command 0x54 24 fun a =>
    let t := recField a 0 2
    if !dbgPlaceOk a || s.dbgState t = 2 then .refused
    else if s.dbgState t = 1 then .done s []
    else match s.apWrite t t (s.slotAt t).sup (recField a 8 8) 0 ((a.drop 16).take 8) with
      | .ok _ s1 => .done s1 []
      | .stop _ _ => .refused

/-- DBG_CFG. -/
def execDbgCfg (s : State) : Out :=
  s.command 0x55 4 fun a =>
    if 2 ≤ recField a 0 4 then .refused else .done { s with breakHalt := recField a 0 4 = 1 } []

/-! ### Telemetry and power (R460 to R463) -/

/-- The fields of the telemetry record: size and value. Readings of sensors are free values. -/
def State.telemFields (s : State) : List (Nat × Nat) :=
  let sense (n i : Nat) : Nat × Nat := (n, Config.sensor s.tick i % 2 ^ (8 * n))
  sense 4 0 :: ((List.range 24).map fun i => sense 2 (1 + i)) ++
    ((List.range 4).map fun d => (1, (s.dieAt d).duty)) ++ ((List.range 4).map fun d => (4, (s.dieAt d).steps)) ++
    [(4, s.trips), (4, s.dstat)]

/-- The telemetry record (R463). -/
def State.telemetry (s : State) : List Byte := (s.telemFields.flatMap fun f => leBytes f.1 f.2) ++ leBytes 48 0

/-- TELEM: the side-band answers it in every state of the device, after a thermal trip too (R118, R461). -/
def execTelem (s : State) : Out :=
  s.command 0x60 0 fun _ => .done s s.telemetry

/-- THR_SET (R462): the cap of a die's duty. -/
def execThrSet (s : State) : Out :=
  s.command 0x61 2 fun a =>
    let k := recField a 0 1
    let d := recField a 1 1
    if 4 ≤ k || d < 4 || 16 < d then .refused
    else .done (s.modDie k fun x => { x with cap := d, duty := min x.duty d }) []

/-- FN_RESET (R462): a device that is not READY has nothing to reset. -/
def execFnReset (s : State) : Out :=
  .next (match s.mbArgs 0x70 with
    | none => s
    | some _ => if s.dstate = 2 then (s.answer mbDone []).functionReset else s.answer mbDone [])

/-- DEV_RESET (R462): the side-band carries it in every state of the device. -/
def execDevReset (s : State) : Out :=
  .next (match s.mbArgs 0x71 with
    | none => s
    | some _ => (if s.ev.c = 1 then s.answer mbDone [] else s).devReset)

/-- PLDM_DISCOVERY: the PLDM types that the side-band carries. -/
def execPldmDiscovery (s : State) : Out :=
  .next (if s.sideOn then { s with sideband := [0, 2, 5] :: s.sideband } else s)

/-- PLDM_SENSOR_READ: the sensor of field `a` of the telemetry record. -/
def execPldmSensorRead (s : State) : Out :=
  .next (if !s.sideOn then s
    else match s.telemFields[s.ev.a]? with
      | some f => { s with sideband := leBytes f.1 f.2 :: s.sideband }
      | none => { s with sideband := [] :: s.sideband })

end Sys2Proof.Machine
end

