-- ==== Sys2Proof/Machine/Scalar.lean ====
section
/-!
DEFINITION. The scalar integer instructions of majors 0x00 to 0x0B (R199 to R208).
-/
namespace Sys2Proof.Machine

/-- A result written before the slot's next issue (R200, R201). -/
def State.put (s : State) (d : BitVec 5) (v : Word) : State := (s.setReg d v).advance 4

/-- A result of the multiply-high and divide family: pending through its shadow (R202). -/
def State.putLate (s : State) (i : Instr) (la : BitVec 4) (d : BitVec 5) (v : Word) : State :=
  (s.pushValue i la.toNat d.toNat v).advance 4

/-- A Bool as a register value. -/
def boolWord (b : Bool) : Word := if b then 1 else 0

/-! ### Values -/

/-- Shift amount: the low six bits (R203). -/
def sh6 (y : Word) : Nat := y.toNat % 64

def mulHigh (x y : Word) : Word := (x.signExtend 128 * y.signExtend 128).extractLsb' 64 64
def mulHighU (x y : Word) : Word := (x.setWidth 128 * y.setWidth 128).extractLsb' 64 64

/-- Signed quotient (R204). -/
def quotS (x y : Word) : Word :=
  if y = 0 then 0xFFFFFFFFFFFFFFFF
  else if x = 0x8000000000000000 && y = 0xFFFFFFFFFFFFFFFF then 0x8000000000000000
  else BitVec.ofInt 64 (x.toInt.tdiv y.toInt)
/-- Unsigned quotient (R204). -/
def quotU (x y : Word) : Word := if y = 0 then 0xFFFFFFFFFFFFFFFF else BitVec.ofNat 64 (x.toNat / y.toNat)
/-- Signed remainder (R204). -/
def remS (x y : Word) : Word :=
  if y = 0 then x
  else if x = 0x8000000000000000 && y = 0xFFFFFFFFFFFFFFFF then 0
  else BitVec.ofInt 64 (x.toInt.tmod y.toInt)
/-- Unsigned remainder (R204). -/
def remU (x y : Word) : Word := if y = 0 then x else BitVec.ofNat 64 (x.toNat % y.toNat)

/-- Leading and trailing zero bits, 64 for zero (R203). -/
def leadZeros (x : Word) : Word := BitVec.ofNat 64 (64 - bitLen x.toNat)
def trailZeros (x : Word) : Word := BitVec.ofNat 64 (trailingZeros 64 x.toNat)
/-- Bits in reverse order (R203). -/
def revBits (x : Word) : Word :=
  BitVec.ofNat 64 ((List.range 64).foldl (fun a i => a + b2n (x.getLsbD (63 - i)) * 2 ^ i) 0)
/-- Bytes in reverse order (R203). -/
def revBytes (x : Word) : Word := BitVec.ofNat 64 (natOfBytes (leBytes 8 x.toNat).reverse)

/-- A field of len bits at pos, zero-extended (R207). -/
def extractField (x : Word) (pos len : Nat) : Word := BitVec.ofNat 64 (x.toNat / 2 ^ pos % 2 ^ len)
/-- t with the len bits at pos replaced by the low bits of x (R207). -/
def insertField (t x : Word) (pos len : Nat) : Word :=
  let m : Word := BitVec.ofNat 64 ((2 ^ len - 1) * 2 ^ pos)
  (t &&& ~~~m) ||| ((x <<< pos) &&& m)

/-! ### Major 0x00 (R203, R204) -/

/-- add (R203). -/
def execAdd (d a b : BitVec 5) (s : State) : Out := .next (s.put d (s.reg a + s.reg b))
/-- sub (R203). -/
def execSub (d a b : BitVec 5) (s : State) : Out := .next (s.put d (s.reg a - s.reg b))
/-- and (R203). -/
def execAnd (d a b : BitVec 5) (s : State) : Out := .next (s.put d (s.reg a &&& s.reg b))
/-- or (R203). -/
def execOr (d a b : BitVec 5) (s : State) : Out := .next (s.put d (s.reg a ||| s.reg b))
/-- xor (R203). -/
def execXor (d a b : BitVec 5) (s : State) : Out := .next (s.put d (s.reg a ^^^ s.reg b))
/-- andn (R203). -/
def execAndn (d a b : BitVec 5) (s : State) : Out := .next (s.put d (s.reg a &&& ~~~(s.reg b)))
/-- orn (R203). -/
def execOrn (d a b : BitVec 5) (s : State) : Out := .next (s.put d (s.reg a ||| ~~~(s.reg b)))
/-- shl (R203). -/
def execShl (d a b : BitVec 5) (s : State) : Out := .next (s.put d (s.reg a <<< sh6 (s.reg b)))
/-- shr (R203). -/
def execShr (d a b : BitVec 5) (s : State) : Out := .next (s.put d (s.reg a >>> sh6 (s.reg b)))
/-- sar (R203). -/
def execSar (d a b : BitVec 5) (s : State) : Out := .next (s.put d ((s.reg a).sshiftRight (sh6 (s.reg b))))
/-- rol (R203). -/
def execRol (d a b : BitVec 5) (s : State) : Out := .next (s.put d ((s.reg a).rotateLeft (sh6 (s.reg b))))
/-- ror (R203). -/
def execRor (d a b : BitVec 5) (s : State) : Out := .next (s.put d ((s.reg a).rotateRight (sh6 (s.reg b))))
/-- mul (R203). -/
def execMul (d a b : BitVec 5) (s : State) : Out := .next (s.put d (s.reg a * s.reg b))
/-- mulh (R203). -/
def execMulh (d a b : BitVec 5) (la : BitVec 4) (s : State) : Out :=
  .next (s.putLate (.mulh d a b la) la d (mulHigh (s.reg a) (s.reg b)))
/-- mulhu (R203). -/
def execMulhu (d a b : BitVec 5) (la : BitVec 4) (s : State) : Out :=
  .next (s.putLate (.mulhu d a b la) la d (mulHighU (s.reg a) (s.reg b)))
/-- div (R204). -/
def execDiv (d a b : BitVec 5) (la : BitVec 4) (s : State) : Out :=
  .next (s.putLate (.div d a b la) la d (quotS (s.reg a) (s.reg b)))
/-- divu (R204). -/
def execDivu (d a b : BitVec 5) (la : BitVec 4) (s : State) : Out :=
  .next (s.putLate (.divu d a b la) la d (quotU (s.reg a) (s.reg b)))
/-- rem (R204). -/
def execRem (d a b : BitVec 5) (la : BitVec 4) (s : State) : Out :=
  .next (s.putLate (.rem d a b la) la d (remS (s.reg a) (s.reg b)))
/-- remu (R204). -/
def execRemu (d a b : BitVec 5) (la : BitVec 4) (s : State) : Out :=
  .next (s.putLate (.remu d a b la) la d (remU (s.reg a) (s.reg b)))
/-- min (R203). -/
def execMin (d a b : BitVec 5) (s : State) : Out :=
  .next (s.put d (if (s.reg a).slt (s.reg b) then s.reg a else s.reg b))
/-- max (R203). -/
def execMax (d a b : BitVec 5) (s : State) : Out :=
  .next (s.put d (if (s.reg a).slt (s.reg b) then s.reg b else s.reg a))
/-- minu (R203). -/
def execMinu (d a b : BitVec 5) (s : State) : Out :=
  .next (s.put d (if (s.reg a).ult (s.reg b) then s.reg a else s.reg b))
/-- maxu (R203). -/
def execMaxu (d a b : BitVec 5) (s : State) : Out :=
  .next (s.put d (if (s.reg a).ult (s.reg b) then s.reg b else s.reg a))
/-- slt (R203). -/
def execSlt (d a b : BitVec 5) (s : State) : Out := .next (s.put d (boolWord ((s.reg a).slt (s.reg b))))
/-- sltu (R203). -/
def execSltu (d a b : BitVec 5) (s : State) : Out := .next (s.put d (boolWord ((s.reg a).ult (s.reg b))))
/-- seq (R203). -/
def execSeq (d a b : BitVec 5) (s : State) : Out := .next (s.put d (boolWord (s.reg a = s.reg b)))
/-- sel (R203): d is read as the condition. -/
def execSel (d a b : BitVec 5) (s : State) : Out :=
  .next (s.put d (if s.reg d = 0 then s.reg b else s.reg a))
/-- clz (R203). -/
def execClz (d a : BitVec 5) (s : State) : Out := .next (s.put d (leadZeros (s.reg a)))
/-- ctz (R203). -/
def execCtz (d a : BitVec 5) (s : State) : Out := .next (s.put d (trailZeros (s.reg a)))
/-- popc (R203). -/
def execPopc (d a : BitVec 5) (s : State) : Out := .next (s.put d (BitVec.ofNat 64 (popcount (s.reg a).toNat 64)))
/-- brev (R203). -/
def execBrev (d a : BitVec 5) (s : State) : Out := .next (s.put d (revBits (s.reg a)))
/-- bswap (R203). -/
def execBswap (d a : BitVec 5) (s : State) : Out := .next (s.put d (revBytes (s.reg a)))
/-- sextb (R203). -/
def execSextb (d a : BitVec 5) (s : State) : Out := .next (s.put d (((s.reg a).setWidth 8).signExtend 64))
/-- sexth (R203). -/
def execSexth (d a : BitVec 5) (s : State) : Out := .next (s.put d (((s.reg a).setWidth 16).signExtend 64))
/-- sextw (R203). -/
def execSextw (d a : BitVec 5) (s : State) : Out := .next (s.put d (((s.reg a).setWidth 32).signExtend 64))

/-! ### Immediates (R205 to R208) -/

/-- addi (R205). -/
def execAddi (d a : BitVec 5) (imm : BitVec 15) (s : State) : Out := .next (s.put d (s.reg a + sx imm))
/-- andi (R205). -/
def execAndi (d a : BitVec 5) (imm : BitVec 15) (s : State) : Out := .next (s.put d (s.reg a &&& zx imm))
/-- ori (R205). -/
def execOri (d a : BitVec 5) (imm : BitVec 15) (s : State) : Out := .next (s.put d (s.reg a ||| zx imm))
/-- xori (R205). -/
def execXori (d a : BitVec 5) (imm : BitVec 15) (s : State) : Out := .next (s.put d (s.reg a ^^^ zx imm))
/-- slti (R205). -/
def execSlti (d a : BitVec 5) (imm : BitVec 15) (s : State) : Out :=
  .next (s.put d (boolWord ((s.reg a).slt (sx imm))))
/-- sltiu (R205): against the pattern of the sign-extended immediate. -/
def execSltiu (d a : BitVec 5) (imm : BitVec 15) (s : State) : Out :=
  .next (s.put d (boolWord ((s.reg a).ult (sx imm))))
/-- muli (R205). -/
def execMuli (d a : BitVec 5) (imm : BitVec 15) (s : State) : Out := .next (s.put d (s.reg a * sx imm))
/-- shli (R206). -/
def execShli (d a : BitVec 5) (amt : BitVec 6) (s : State) : Out := .next (s.put d (s.reg a <<< amt.toNat))
/-- shri (R206). -/
def execShri (d a : BitVec 5) (amt : BitVec 6) (s : State) : Out := .next (s.put d (s.reg a >>> amt.toNat))
/-- sari (R206). -/
def execSari (d a : BitVec 5) (amt : BitVec 6) (s : State) : Out :=
  .next (s.put d ((s.reg a).sshiftRight amt.toNat))
/-- bext (R207). -/
def execBext (d a : BitVec 5) (len1 pos : BitVec 6) (s : State) : Out :=
  .next (s.put d (extractField (s.reg a) pos.toNat (len1.toNat + 1)))
/-- bins (R207). -/
def execBins (d a : BitVec 5) (len1 pos : BitVec 6) (s : State) : Out :=
  .next (s.put d (insertField (s.reg d) (s.reg a) pos.toNat (len1.toNat + 1)))
/-- lui (R208). -/
def execLui (d : BitVec 5) (imm : BitVec 20) (s : State) : Out := .next (s.put d (sx imm * 4096))
/-- adpc (R208). -/
def execAdpc (d : BitVec 5) (imm : BitVec 20) (s : State) : Out := .next (s.put d (s.me.pc + sx imm * 4096))

end Sys2Proof.Machine
end

