-- ==== Sys2Proof/Machine/Dispatch.lean ====
section
/-!
DEFINITION. Which meaning each instruction has: one arm per constructor of the syntax.
-/
namespace Sys2Proof.Machine

def exec (i : Instr) (s : State) : Host.Outcome State Fault Refusal :=
  match i with
  | .add d a b => Sys2Proof.Machine.execAdd d a b s
  | .sub d a b => Sys2Proof.Machine.execSub d a b s
  | .and d a b => Sys2Proof.Machine.execAnd d a b s
  | .or d a b => Sys2Proof.Machine.execOr d a b s
  | .xor d a b => Sys2Proof.Machine.execXor d a b s
  | .andn d a b => Sys2Proof.Machine.execAndn d a b s
  | .orn d a b => Sys2Proof.Machine.execOrn d a b s
  | .shl d a b => Sys2Proof.Machine.execShl d a b s
  | .shr d a b => Sys2Proof.Machine.execShr d a b s
  | .sar d a b => Sys2Proof.Machine.execSar d a b s
  | .rol d a b => Sys2Proof.Machine.execRol d a b s
  | .ror d a b => Sys2Proof.Machine.execRor d a b s
  | .mul d a b => Sys2Proof.Machine.execMul d a b s
  | .mulh d a b la => Sys2Proof.Machine.execMulh d a b la s
  | .mulhu d a b la => Sys2Proof.Machine.execMulhu d a b la s
  | .div d a b la => Sys2Proof.Machine.execDiv d a b la s
  | .divu d a b la => Sys2Proof.Machine.execDivu d a b la s
  | .rem d a b la => Sys2Proof.Machine.execRem d a b la s
  | .remu d a b la => Sys2Proof.Machine.execRemu d a b la s
  | .min d a b => Sys2Proof.Machine.execMin d a b s
  | .max d a b => Sys2Proof.Machine.execMax d a b s
  | .minu d a b => Sys2Proof.Machine.execMinu d a b s
  | .maxu d a b => Sys2Proof.Machine.execMaxu d a b s
  | .slt d a b => Sys2Proof.Machine.execSlt d a b s
  | .sltu d a b => Sys2Proof.Machine.execSltu d a b s
  | .seq d a b => Sys2Proof.Machine.execSeq d a b s
  | .sel d a b => Sys2Proof.Machine.execSel d a b s
  | .clz d a => Sys2Proof.Machine.execClz d a s
  | .ctz d a => Sys2Proof.Machine.execCtz d a s
  | .popc d a => Sys2Proof.Machine.execPopc d a s
  | .brev d a => Sys2Proof.Machine.execBrev d a s
  | .bswap d a => Sys2Proof.Machine.execBswap d a s
  | .sextb d a => Sys2Proof.Machine.execSextb d a s
  | .sexth d a => Sys2Proof.Machine.execSexth d a s
  | .sextw d a => Sys2Proof.Machine.execSextw d a s
  | .addi d a imm => Sys2Proof.Machine.execAddi d a imm s
  | .andi d a imm => Sys2Proof.Machine.execAndi d a imm s
  | .ori d a imm => Sys2Proof.Machine.execOri d a imm s
  | .xori d a imm => Sys2Proof.Machine.execXori d a imm s
  | .slti d a imm => Sys2Proof.Machine.execSlti d a imm s
  | .sltiu d a imm => Sys2Proof.Machine.execSltiu d a imm s
  | .muli d a imm => Sys2Proof.Machine.execMuli d a imm s
  | .shli d a amt => Sys2Proof.Machine.execShli d a amt s
  | .shri d a amt => Sys2Proof.Machine.execShri d a amt s
  | .sari d a amt => Sys2Proof.Machine.execSari d a amt s
  | .bext d a len1 pos => Sys2Proof.Machine.execBext d a len1 pos s
  | .bins d a len1 pos => Sys2Proof.Machine.execBins d a len1 pos s
  | .lui d imm => Sys2Proof.Machine.execLui d imm s
  | .adpc d imm => Sys2Proof.Machine.execAdpc d imm s
  | .beq a b off => Sys2Proof.Machine.execBeq a b off s
  | .bne a b off => Sys2Proof.Machine.execBne a b off s
  | .blt a b off => Sys2Proof.Machine.execBlt a b off s
  | .bge a b off => Sys2Proof.Machine.execBge a b off s
  | .bltu a b off => Sys2Proof.Machine.execBltu a b off s
  | .bgeu a b off => Sys2Proof.Machine.execBgeu a b off s
  | .jal d off => Sys2Proof.Machine.execJal d off s
  | .jalr d a imm => Sys2Proof.Machine.execJalr d a imm s
  | .mfs d sr => Sys2Proof.Machine.execMfs d sr s
  | .mts a sr => Sys2Proof.Machine.execMts a sr s
  | .mtsset a sr => Sys2Proof.Machine.execMtsset a sr s
  | .mtsclr a sr => Sys2Proof.Machine.execMtsclr a sr s
  | .ldb d a la imm => Sys2Proof.Machine.execLdb d a la imm s
  | .ldbu d a la imm => Sys2Proof.Machine.execLdbu d a la imm s
  | .ldh d a la imm => Sys2Proof.Machine.execLdh d a la imm s
  | .ldhu d a la imm => Sys2Proof.Machine.execLdhu d a la imm s
  | .ldw d a la imm => Sys2Proof.Machine.execLdw d a la imm s
  | .ldwu d a la imm => Sys2Proof.Machine.execLdwu d a la imm s
  | .ldd d a la imm => Sys2Proof.Machine.execLdd d a la imm s
  | .stb d a imm => Sys2Proof.Machine.execStb d a imm s
  | .sth d a imm => Sys2Proof.Machine.execSth d a imm s
  | .stw d a imm => Sys2Proof.Machine.execStw d a imm s
  | .std d a imm => Sys2Proof.Machine.execStd d a imm s
  | .ldaD d a scope la => Sys2Proof.Machine.execLdaD d a scope la s
  | .ldaW d a scope la => Sys2Proof.Machine.execLdaW d a scope la s
  | .stlD a b scope => Sys2Proof.Machine.execStlD a b scope s
  | .stlW a b scope => Sys2Proof.Machine.execStlW a b scope s
  | .lde d a la => Sys2Proof.Machine.execLde d a la s
  | .ldx d a la => Sys2Proof.Machine.execLdx d a la s
  | .stf a b => Sys2Proof.Machine.execStf a b s
  | .sto a b => Sys2Proof.Machine.execSto a b s
  | .ldeTry d a b => Sys2Proof.Machine.execLdeTry d a b s
  | .ldxTry d a b => Sys2Proof.Machine.execLdxTry d a b s
  | .stfTry d a b => Sys2Proof.Machine.execStfTry d a b s
  | .amoAdd d a b scope ord sz => Sys2Proof.Machine.execAmoAdd d a b scope ord sz s
  | .amoAnd d a b scope ord sz => Sys2Proof.Machine.execAmoAnd d a b scope ord sz s
  | .amoOr d a b scope ord sz => Sys2Proof.Machine.execAmoOr d a b scope ord sz s
  | .amoXor d a b scope ord sz => Sys2Proof.Machine.execAmoXor d a b scope ord sz s
  | .amoMin d a b scope ord sz => Sys2Proof.Machine.execAmoMin d a b scope ord sz s
  | .amoMax d a b scope ord sz => Sys2Proof.Machine.execAmoMax d a b scope ord sz s
  | .amoMinu d a b scope ord sz => Sys2Proof.Machine.execAmoMinu d a b scope ord sz s
  | .amoMaxu d a b scope ord sz => Sys2Proof.Machine.execAmoMaxu d a b scope ord sz s
  | .amoSwp d a b scope ord sz => Sys2Proof.Machine.execAmoSwp d a b scope ord sz s
  | .cas d a b scope ord sz => Sys2Proof.Machine.execCas d a b scope ord sz s
  | .accsI32 a b => Sys2Proof.Machine.execAccsI32 a b s
  | .accsI64 a b => Sys2Proof.Machine.execAccsI64 a b s
  | .accsF32 a b => Sys2Proof.Machine.execAccsF32 a b s
  | .accsF64 a b => Sys2Proof.Machine.execAccsF64 a b s
  | .fence scope kind => Sys2Proof.Machine.execFence scope kind s
  | .wbr d a scope => Sys2Proof.Machine.execWbr d a scope s
  | .invr d a scope => Sys2Proof.Machine.execInvr d a scope s
  | .flr d a scope => Sys2Proof.Machine.execFlr d a scope s
  | .drain kind => Sys2Proof.Machine.execDrain kind s
  | .barInit a b => Sys2Proof.Machine.execBarInit a b s
  | .barArv d a => Sys2Proof.Machine.execBarArv d a s
  | .barDrop d a => Sys2Proof.Machine.execBarDrop d a s
  | .barExp a b => Sys2Proof.Machine.execBarExp a b s
  | .barWait a b => Sys2Proof.Machine.execBarWait a b s
  | .barWaitTry d a b => Sys2Proof.Machine.execBarWaitTry d a b s
  | .fpub a b => Sys2Proof.Machine.execFpub a b s
  | .spawn a b => Sys2Proof.Machine.execSpawn a b s
  | .syncTry d => Sys2Proof.Machine.execSyncTry d s
  | .launch d a => Sys2Proof.Machine.execLaunch d a s
  | .donate a b => Sys2Proof.Machine.execDonate a b s
  | .dtake d a b => Sys2Proof.Machine.execDtake d a b s
  | .dtakeTry d a b => Sys2Proof.Machine.execDtakeTry d a b s
  | .dqstat d a => Sys2Proof.Machine.execDqstat d a s
  | .trap code => Sys2Proof.Machine.execTrap code s
  | .brk code => Sys2Proof.Machine.execBrk code s
  | .tlbi a => Sys2Proof.Machine.execTlbi a s
  | .tlbia a => Sys2Proof.Machine.execTlbia a s
  | .vadd d a b k => Sys2Proof.Machine.execVadd d a b k s
  | .vsub d a b k => Sys2Proof.Machine.execVsub d a b k s
  | .vmul d a b k => Sys2Proof.Machine.execVmul d a b k s
  | .vmulh d a b k => Sys2Proof.Machine.execVmulh d a b k s
  | .vand d a b k => Sys2Proof.Machine.execVand d a b k s
  | .vor d a b k => Sys2Proof.Machine.execVor d a b k s
  | .vxor d a b k => Sys2Proof.Machine.execVxor d a b k s
  | .vandn d a b k => Sys2Proof.Machine.execVandn d a b k s
  | .vshl d a b k => Sys2Proof.Machine.execVshl d a b k s
  | .vshr d a b k => Sys2Proof.Machine.execVshr d a b k s
  | .vsar d a b k => Sys2Proof.Machine.execVsar d a b k s
  | .vmin d a b k => Sys2Proof.Machine.execVmin d a b k s
  | .vmax d a b k => Sys2Proof.Machine.execVmax d a b k s
  | .vminu d a b k => Sys2Proof.Machine.execVminu d a b k s
  | .vmaxu d a b k => Sys2Proof.Machine.execVmaxu d a b k s
  | .vsel d a b k => Sys2Proof.Machine.execVsel d a b k s
  | .vcmpEq d a b k => Sys2Proof.Machine.execVcmpEq d a b k s
  | .vcmpNe d a b k => Sys2Proof.Machine.execVcmpNe d a b k s
  | .vcmpLt d a b k => Sys2Proof.Machine.execVcmpLt d a b k s
  | .vcmpGe d a b k => Sys2Proof.Machine.execVcmpGe d a b k s
  | .vcmpLtu d a b k => Sys2Proof.Machine.execVcmpLtu d a b k s
  | .vcmpGeu d a b k => Sys2Proof.Machine.execVcmpGeu d a b k s
  | .vredadd d a k => Sys2Proof.Machine.execVredadd d a k s
  | .vredmin d a k => Sys2Proof.Machine.execVredmin d a k s
  | .vredmax d a k => Sys2Proof.Machine.execVredmax d a k s
  | .vperm d a b k => Sys2Proof.Machine.execVperm d a b k s
  | .vslideup d a b k => Sys2Proof.Machine.execVslideup d a b k s
  | .vslidedn d a b k => Sys2Proof.Machine.execVslidedn d a b k s
  | .vbcast d a cv => Sys2Proof.Machine.execVbcast d a cv s
  | .vins d a b cv => Sys2Proof.Machine.execVins d a b cv s
  | .vext d a b cv => Sys2Proof.Machine.execVext d a b cv s
  | .vmov d a k => Sys2Proof.Machine.execVmov d a k s
  | .fadd d a b k => Sys2Proof.Machine.execFadd d a b k s
  | .fsub d a b k => Sys2Proof.Machine.execFsub d a b k s
  | .fmul d a b k => Sys2Proof.Machine.execFmul d a b k s
  | .fdiv d a b k => Sys2Proof.Machine.execFdiv d a b k s
  | .fsqrt d b k => Sys2Proof.Machine.execFsqrt d b k s
  | .fmin d a b k => Sys2Proof.Machine.execFmin d a b k s
  | .fmax d a b k => Sys2Proof.Machine.execFmax d a b k s
  | .fabs d b k => Sys2Proof.Machine.execFabs d b k s
  | .fneg d b k => Sys2Proof.Machine.execFneg d b k s
  | .fcmpEq d a b k => Sys2Proof.Machine.execFcmpEq d a b k s
  | .fcmpLt d a b k => Sys2Proof.Machine.execFcmpLt d a b k s
  | .fcmpLe d a b k => Sys2Proof.Machine.execFcmpLe d a b k s
  | .fcmpUn d a b k => Sys2Proof.Machine.execFcmpUn d a b k s
  | .fclass d b k => Sys2Proof.Machine.execFclass d b k s
  | .fscl d a b k => Sys2Proof.Machine.execFscl d a b k s
  | .fround d b k => Sys2Proof.Machine.execFround d b k s
  | .fcvtFi d a k => Sys2Proof.Machine.execFcvtFi d a k s
  | .fcvtIf d a k => Sys2Proof.Machine.execFcvtIf d a k s
  | .fredsum d a k => Sys2Proof.Machine.execFredsum d a k s
  | .fredmax d a k => Sys2Proof.Machine.execFredmax d a k s
  | .fredmin d a k => Sys2Proof.Machine.execFredmin d a k s
  | .fdot d a b k => Sys2Proof.Machine.execFdot d a b k s
  | .kand d a b => Sys2Proof.Machine.execKand d a b s
  | .kor d a b => Sys2Proof.Machine.execKor d a b s
  | .kxor d a b => Sys2Proof.Machine.execKxor d a b s
  | .knot d a => Sys2Proof.Machine.execKnot d a s
  | .kfs d a => Sys2Proof.Machine.execKfs d a s
  | .ksf d a => Sys2Proof.Machine.execKsf d a s
  | .vwinImm count cls => Sys2Proof.Machine.execVwinImm count cls s
  | .vwinReg d a => Sys2Proof.Machine.execVwinReg d a s
  | .ffma d a b c k1en => Sys2Proof.Machine.execFfma d a b c k1en s
  | .ffms d a b c k1en => Sys2Proof.Machine.execFfms d a b c k1en s
  | .fnma d a b c k1en => Sys2Proof.Machine.execFnma d a b c k1en s
  | .vldUnit v base k ty => Sys2Proof.Machine.execVldUnit v base k ty s
  | .vldStrided v base x k ty => Sys2Proof.Machine.execVldStrided v base x k ty s
  | .vldGather v base x k ty => Sys2Proof.Machine.execVldGather v base x k ty s
  | .vstUnit v base k ty => Sys2Proof.Machine.execVstUnit v base k ty s
  | .vstStrided v base x k ty => Sys2Proof.Machine.execVstStrided v base x k ty s
  | .vstScatter v base x k ty => Sys2Proof.Machine.execVstScatter v base x k ty s
  | .vldd v base x k => Sys2Proof.Machine.execVldd v base x k s
  | .vstd v base x k => Sys2Proof.Machine.execVstd v base x k s
  | .vstdp v base x k => Sys2Proof.Machine.execVstdp v base x k s
  | .vqntPeb7 v base => Sys2Proof.Machine.execVqntPeb7 v base s
  | .vqntPeb3 v base => Sys2Proof.Machine.execVqntPeb3 v base s
  | .acc v base k ty => Sys2Proof.Machine.execAcc v base k ty s
  | .accD v base x k => Sys2Proof.Machine.execAccD v base x k s
  | .sbind v a => Sys2Proof.Machine.execSbind v a s
  | .sunbind v => Sys2Proof.Machine.execSunbind v s
  | .sstat v a => Sys2Proof.Machine.execSstat v a s
  | .mma d a b => Sys2Proof.Machine.execMma d a b s
  | .mmaDc d a b h => Sys2Proof.Machine.execMmaDc d a b h s
  | .mmab d a b part => Sys2Proof.Machine.execMmab d a b part s
  | .mmas d a b c => Sys2Proof.Machine.execMmas d a b c s
  | .maddt d a b => Sys2Proof.Machine.execMaddt d a b s
  | .msubt d a b => Sys2Proof.Machine.execMsubt d a b s
  | .mscl d a base => Sys2Proof.Machine.execMscl d a base s
  | .mzero d tag => Sys2Proof.Machine.execMzero d tag s
  | .mcvt d a h tag => Sys2Proof.Machine.execMcvt d a h tag s
  | .mtrn d a h => Sys2Proof.Machine.execMtrn d a h s
  | .mchol d a => Sys2Proof.Machine.execMchol d a s
  | .mtrsv v a mode => Sys2Proof.Machine.execMtrsv v a mode s
  | .mstat d a => Sys2Proof.Machine.execMstat d a s
  | .twinImm count => Sys2Proof.Machine.execTwinImm count s
  | .twinReg a => Sys2Proof.Machine.execTwinReg a s
  | .mldt d base stride tag => Sys2Proof.Machine.execMldt d base stride tag s
  | .mstt d base stride tag => Sys2Proof.Machine.execMstt d base stride tag s
  | .cpy d a b c => Sys2Proof.Machine.execCpy d a b c s
  | .cpyt d a b c => Sys2Proof.Machine.execCpyt d a b c s
  | .cpym d a b c => Sys2Proof.Machine.execCpym d a b c s
  | .ibxRecv d a => Sys2Proof.Machine.execIbxRecv d a s
  | .ibxTry d a => Sys2Proof.Machine.execIbxTry d a s
  | .swpout d a b c => Sys2Proof.Machine.execSwpout d a b c s
  | .swpin d a b c => Sys2Proof.Machine.execSwpin d a b c s
  | .swpstat d a b => Sys2Proof.Machine.execSwpstat d a b s
  | .cVadd d b m => Sys2Proof.Machine.execCVadd d b m s
  | .cVsub d b m => Sys2Proof.Machine.execCVsub d b m s
  | .cVand d b m => Sys2Proof.Machine.execCVand d b m s
  | .cVor d b m => Sys2Proof.Machine.execCVor d b m s
  | .cVxor d b m => Sys2Proof.Machine.execCVxor d b m s
  | .cVshl d b m => Sys2Proof.Machine.execCVshl d b m s
  | .cVshr d b m => Sys2Proof.Machine.execCVshr d b m s
  | .cVmin d b m => Sys2Proof.Machine.execCVmin d b m s
  | .cVmax d b m => Sys2Proof.Machine.execCVmax d b m s
  | .cFadd d b m => Sys2Proof.Machine.execCFadd d b m s
  | .cFsub d b m => Sys2Proof.Machine.execCFsub d b m s
  | .cFmul d b m => Sys2Proof.Machine.execCFmul d b m s
  | .cFmin d b m => Sys2Proof.Machine.execCFmin d b m s
  | .cFmax d b m => Sys2Proof.Machine.execCFmax d b m s
  | .cFneg d b m => Sys2Proof.Machine.execCFneg d b m s
  | .cFabs d b m => Sys2Proof.Machine.execCFabs d b m s
  | .flushr => Sys2Proof.Machine.execFlushr s
  | .ifence => Sys2Proof.Machine.execIfence s
  | .sync => Sys2Proof.Machine.execSync s
  | .tend => Sys2Proof.Machine.execTend s
  | .yield => Sys2Proof.Machine.execYield s
  | .rett => Sys2Proof.Machine.execRett s
  | .replay => Sys2Proof.Machine.execReplay s
  | .wfi => Sys2Proof.Machine.execWfi s
  | .launchCommand => Sys2Proof.Machine.execLaunchCommand s
  | .drainCommand => Sys2Proof.Machine.execDrainCommand s
  | .resumeCommand => Sys2Proof.Machine.execResumeCommand s
  | .abortCommand => Sys2Proof.Machine.execAbortCommand s
  | .admissionGrant => Sys2Proof.Machine.execAdmissionGrant s
  | .resumeReload => Sys2Proof.Machine.execResumeReload s
  | .qpiWrite => Sys2Proof.Machine.execQpiWrite s
  | .qcfgWrite => Sys2Proof.Machine.execQcfgWrite s
  | .jrelWrite => Sys2Proof.Machine.execJrelWrite s
  | .hostWindowWrite => Sys2Proof.Machine.execHostWindowWrite s
  | .registerWrite => Sys2Proof.Machine.execRegisterWrite s
  | .bankcfgWrite => Sys2Proof.Machine.execBankcfgWrite s
  | .domWrite => Sys2Proof.Machine.execDomWrite s
  | .hselWrite => Sys2Proof.Machine.execHselWrite s
  | .ptbrWrite => Sys2Proof.Machine.execPtbrWrite s
  | .hostBar2Read => Sys2Proof.Machine.execHostBar2Read s
  | .hostBar2Write => Sys2Proof.Machine.execHostBar2Write s
  | .getCert => Sys2Proof.Machine.execGetCert s
  | .attest => Sys2Proof.Machine.execAttest s
  | .sealCmd => Sys2Proof.Machine.execSealCmd s
  | .unsealCmd => Sys2Proof.Machine.execUnsealCmd s
  | .sealRange => Sys2Proof.Machine.execSealRange s
  | .asidSet => Sys2Proof.Machine.execAsidSet s
  | .asidClear => Sys2Proof.Machine.execAsidClear s
  | .stvecSet => Sys2Proof.Machine.execStvecSet s
  | .dqOpen => Sys2Proof.Machine.execDqOpen s
  | .dqClose => Sys2Proof.Machine.execDqClose s
  | .fenceStatus => Sys2Proof.Machine.execFenceStatus s
  | .dbgHalt => Sys2Proof.Machine.execDbgHalt s
  | .dbgRun => Sys2Proof.Machine.execDbgRun s
  | .dbgStep => Sys2Proof.Machine.execDbgStep s
  | .dbgRead => Sys2Proof.Machine.execDbgRead s
  | .dbgWrite => Sys2Proof.Machine.execDbgWrite s
  | .dbgCfg => Sys2Proof.Machine.execDbgCfg s
  | .telem => Sys2Proof.Machine.execTelem s
  | .thrSet => Sys2Proof.Machine.execThrSet s
  | .fnReset => Sys2Proof.Machine.execFnReset s
  | .devReset => Sys2Proof.Machine.execDevReset s
  | .firmwareUpdate => Sys2Proof.Machine.execFirmwareUpdate s
  | .recoveryImage => Sys2Proof.Machine.execRecoveryImage s
  | .pldmDiscovery => Sys2Proof.Machine.execPldmDiscovery s
  | .pldmSensorRead => Sys2Proof.Machine.execPldmSensorRead s
  | .conventionalReset => Sys2Proof.Machine.execConventionalReset s
  | .functionLevelReset => Sys2Proof.Machine.execFunctionLevelReset s
  | .thermalTrip => Sys2Proof.Machine.execThermalTrip s
  | .throttleTest => Sys2Proof.Machine.execThrottleTest s
  | .throttleRelax => Sys2Proof.Machine.execThrottleRelax s
  | .containmentFence => Sys2Proof.Machine.execContainmentFence s
  | .homeSoftError => Sys2Proof.Machine.execHomeSoftError s
  | .leaseHeartbeat => Sys2Proof.Machine.execLeaseHeartbeat s
  | .writeLeaseExpiry => Sys2Proof.Machine.execWriteLeaseExpiry s
  | .readLeaseExpiry => Sys2Proof.Machine.execReadLeaseExpiry s
  | .residualAgeExpiry => Sys2Proof.Machine.execResidualAgeExpiry s
  | .quotaWindowStart => Sys2Proof.Machine.execQuotaWindowStart s
  | .qwait => Sys2Proof.Machine.execQwait s
  | .winDeadlock => Sys2Proof.Machine.execWinDeadlock s
  | .winDeadlockRetry => Sys2Proof.Machine.execWinDeadlockRetry s
  | .drainLimitExpiry => Sys2Proof.Machine.execDrainLimitExpiry s
  | .forcedSave => Sys2Proof.Machine.execForcedSave s
  | .drainFinish => Sys2Proof.Machine.execDrainFinish s
  | .launchRetire => Sys2Proof.Machine.execLaunchRetire s
  | .probePass => Sys2Proof.Machine.execProbePass s
  | .thiefResume => Sys2Proof.Machine.execThiefResume s
  | .workNotice => Sys2Proof.Machine.execWorkNotice s
  | .stealWaitExpiry => Sys2Proof.Machine.execStealWaitExpiry s
  | .trapEntry => Sys2Proof.Machine.execTrapEntry s
  | .shadowResultArrival => Sys2Proof.Machine.execShadowResultArrival s
  | .wideCompletion => Sys2Proof.Machine.execWideCompletion s
  | .walkCompletion => Sys2Proof.Machine.execWalkCompletion s
  | .pageNotice => Sys2Proof.Machine.execPageNotice s
  | .swapOut => Sys2Proof.Machine.execSwapOut s
  | .swapIn => Sys2Proof.Machine.execSwapIn s
  | .nvmeCompletion => Sys2Proof.Machine.execNvmeCompletion s
  | .copyArrival => Sys2Proof.Machine.execCopyArrival s
  | .copyCompletion => Sys2Proof.Machine.execCopyCompletion s
  | .streamFetch => Sys2Proof.Machine.execStreamFetch s
  | .streamWrite => Sys2Proof.Machine.execStreamWrite s
  | .accumulateRequest => Sys2Proof.Machine.execAccumulateRequest s
  | .accumulateAnswer => Sys2Proof.Machine.execAccumulateAnswer s
  | .writeQueueApply => Sys2Proof.Machine.execWriteQueueApply s
  | .atomicRequest => Sys2Proof.Machine.execAtomicRequest s
  | .releaseMarker => Sys2Proof.Machine.execReleaseMarker s
  | .writeBack => Sys2Proof.Machine.execWriteBack s
  | .ownershipRequest => Sys2Proof.Machine.execOwnershipRequest s
  | .invalidationAck => Sys2Proof.Machine.execInvalidationAck s
  | .evictionNotice => Sys2Proof.Machine.execEvictionNotice s
  | .remapReturn => Sys2Proof.Machine.execRemapReturn s
  | .peerReadRequest => Sys2Proof.Machine.execPeerReadRequest s
  | .peerWrite => Sys2Proof.Machine.execPeerWrite s
  | .remoteWriteAck => Sys2Proof.Machine.execRemoteWriteAck s
  | .acquireDropNotice => Sys2Proof.Machine.execAcquireDropNotice s
  | .donationReceive => Sys2Proof.Machine.execDonationReceive s
  | .donationReply => Sys2Proof.Machine.execDonationReply s
  | .storeBufferLeave => Sys2Proof.Machine.execStoreBufferLeave s
  | .coreSleep => Sys2Proof.Machine.execCoreSleep s
  | .instructionCacheFill => Sys2Proof.Machine.execInstructionCacheFill s
  | .powerLoss => Sys2Proof.Machine.execPowerLoss s
  | .unknownKindCommand => Sys2Proof.Machine.execUnknownKindCommand s
  | .ringReadFailure => Sys2Proof.Machine.execRingReadFailure s

end Sys2Proof.Machine
end

