-- ==== Sys2Proof/Machine/Events.lean ====
section
/-!
DEFINITION. Which steps the device's own agents can take now. Of these, and of issuing on a ready slot, any may come
next (log 3).
-/
namespace Sys2Proof.Machine

/-- A step and its place. -/
abbrev Event := Instr × EventArgs

/-- A step at a place. -/
def eventAt (i : Instr) (a b : Nat) : Event := (i, { a := a, b := b })
/-- A step when a condition holds. -/
def eventIf (p : Bool) (i : Instr) (a b : Nat) : List Event := if p then [eventAt i a b] else []

/-! ### Slots -/

/-- A slot's ended pending result can be delivered now. -/
def Slot.resultDue (x : Slot) : Bool := x.due.isSome && !x.faultDue

/-- Steps that concern one slot. -/
def State.slotEvents (s : State) (t : Nat) (x : Slot) : List Event :=
  eventIf (x.mode = .resting && x.notice) .workNotice t 0 ++
    eventIf (x.mode = .resting && x.restAt + 1024 ≤ s.clk) .stealWaitExpiry t 0 ++
    eventIf (match x.mode with | .starting _ _ => true | _ => false) .thiefResume t 0 ++
    eventIf x.faultDue .trapEntry t 0 ++
    eventIf (x.pend.any (fun p => !p.arrived) || x.resultDue) .shadowResultArrival t 0 ++
    eventIf x.awaitsLine .instructionCacheFill t 0 ++
    eventIf (x.awaitsLine && (s.missAddr t).any fun va => (s.tlbHit (coreOf t) x.asid va).isNone) .walkCompletion t 0

/-- There is something that a steal engine might take. -/
def State.hasWork (s : State) : Bool :=
  s.slots.any (fun t => !t.2.deque.isEmpty) || s.clusters.any (fun k => !k.2.cq.isEmpty) ||
    s.dies.any (fun d => !d.2.dq.isEmpty) || s.donqs.any fun q => !q.2.descs.isEmpty

/-- Probe passes: by the idle slots that the table lists, and by some slot of all. -/
def State.probeEvents (s : State) : List Event :=
  if s.hasWork then
    let ts := (s.slots.filter fun p => p.2.mode = .idle).map fun p => p.1
    let any := Config.placeHint s.tick % 2 ^ 14
    (if (FMap.find s.slots any).isNone then any :: ts else ts).map fun t => eventAt .probePass t 0
  else []

/-! ### Cores -/

/-- The home or place numbers of some requests, each once. -/
def places {α : Type} (l : List α) (f : α → Nat) : List Nat := (l.map f).eraseDups

/-- An engine can fetch: a waiting one tries again. -/
def Stream.mayFetch (st : Stream) : Bool :=
  st.rcd.dir = 0 && st.fault.isNone && st.buf.length < 8 && st.pos < st.rcd.total

/-- An engine has an appended vector to write. -/
def Stream.mayWrite (st : Stream) : Bool := st.rcd.dir = 1 && st.fault.isNone && !st.buf.isEmpty

/-- Steps of the copies of a core. -/
def copyEvents (c : Nat) (k : Core) : List Event :=
  (k.copies.zipIdx.filter fun x => !x.1.finished).map fun x =>
    eventAt (if x.1.over then .copyCompletion else .copyArrival) c x.2

/-- A write-back of the grain or line at `b` of place `a`, by what holds it (R285, R291). -/
def writeBackAt (a b c : Nat) : Event := (.writeBack, { a := a, b := b, c := c })

/-- Steps of a core's L1 and store buffer: a cache may give up or clean a grain at any time (R283 to R285, R387). -/
def State.l1Events (s : State) (c : Nat) (k : Core) : List Event :=
  ((List.range k.storeBuf.length).filter (s.mayLeave c)).map (eventAt .storeBufferLeave c) ++
    (k.wanted.filter (s.mayAsk c)).map (fun x => eventAt .ownershipRequest c x.key) ++
    k.l1.map (fun g => eventAt .evictionNotice c g.1) ++
    (k.l1.filter fun g => g.2.isDirty).map fun g => writeBackAt c g.1 1

/-- The step that serves the oldest request of a core to a place (R15, R369). -/
def State.requestEvent (s : State) (c : Nat) (k : Core) (p : Nat) : List Event :=
  match k.oldestTo p with
  | some (_, .acc _) => [eventAt .accumulateRequest c p]
  | some (_, .amo a) => eventIf (s.relReady c a) .atomicRequest c p
  | none => []

/-- Steps that concern one core. -/
def State.coreEvents (s : State) (c : Nat) (k : Core) : List Event :=
  let running := (coreSlots c).any fun t => (s.slotAt t).awake
  eventIf (!k.wideq.isEmpty) .wideCompletion c 0 ++ s.l1Events c k ++
    (places k.out HomeReq.place).flatMap (s.requestEvent c k) ++
    (places k.accAns fun a => a.req.home).map (eventAt .accumulateAnswer c) ++
    eventIf (s.nextReissue c).isSome .remapReturn c 0 ++ eventIf (k.remoteAcks != 0) .remoteWriteAck c 0 ++
    (k.residuals.filter s.residualDue).map (fun r => eventAt .residualAgeExpiry c r.req.pa) ++ copyEvents c k ++
    (k.streams.filter fun e => e.2.mayFetch).map (fun e => eventAt .streamFetch c e.1) ++
    (k.streams.filter fun e => e.2.mayWrite).map (fun e => eventAt .streamWrite c e.1) ++
    eventIf (!running && k.depth != k.cslp) .coreSleep c 0 ++
    (if s.deadlocked c then [eventAt .winDeadlock c 0, eventAt .winDeadlockRetry c 0] else [])

/-! ### Clusters, homes, dies -/

/-- Steps of a cluster's cache and directory: the cache may give up a grain at any time. -/
def clusterEvents (k : Nat) (c : Cluster) : List Event :=
  c.grains.map (fun g => writeBackAt k g.1 0) ++
    c.dir.flatMap fun d => d.2.outstanding.map fun i => eventAt .invalidationAck (k * 16 + i) d.1

/-- Heartbeats that are due: of clusters with a lease (R435). -/
def State.beatEvents (s : State) : List Event :=
  let ks := places ((s.homes.flatMap fun h => h.2.leases).filter fun l => !l.dead) Lease.cl
  (ks.filter fun k => bitOf s.usable k && (s.cluAt k).beatAt + s.period ≤ s.clk).map fun k => eventAt .leaseHeartbeat k 0

/-- Steps of a home slice. -/
def State.homeEvents (s : State) (h : Nat) (x : Home) : List Event :=
  ((List.range x.wq.length).filter x.mayApply).map (eventAt .writeQueueApply h) ++
    (x.markers.filter fun m => countGe (FMap.getD x.received m.1 0) m.2).map (fun m => eventAt .releaseMarker h m.1) ++
    x.cache.map (fun l => writeBackAt h l.1 2) ++ eventIf (!x.remoteOut.isEmpty) .peerWrite h 0 ++
    (x.leases.filter fun l => s.lapsed l && !bitOf s.usable l.cl).map fun l =>
      eventAt (if l.read then .readLeaseExpiry else .writeLeaseExpiry) h l.pa

/-- Steps of the swap engine and its drives. -/
def swapEvents (i : Nat) (x : Swap) : List Event :=
  if x.phase = 1 || x.phase = 4 then [eventAt .nvmeCompletion i 1, eventAt .nvmeCompletion i 0]
  else [eventAt (if x.out then .swapOut else .swapIn) i 0]

/-! ### Launches, queues, mailbox -/

/-- A drain's limit is over. -/
def Launch.limitOver (l : Launch) (clk : Nat) : Bool :=
  match l.drain with
  | some c => !c.expired && c.limit ≤ clk
  | none => false

/-- Steps that concern one launch. -/
def State.launchEvents (s : State) (l : Launch) : List Event :=
  eventIf l.endsFirst .launchRetire l.lid 0 ++ eventIf (l.limitOver s.clk) .drainLimitExpiry l.lid 0 ++
    (if s.mayForce l then (s.remaining l.lid).map fun t => eventAt .forcedSave t 0 else []) ++
    eventIf (s.drainDone l) .drainFinish l.lid 0 ++
    eventIf (l.resume.isSome && (s.placeScratch l).isSome) .resumeReload l.lid 0 ++
    eventIf (s.quiescent l) .qwait l.lid 0

/-- The step that takes the head command of a queue, by its kind (R102). -/
def State.commandEvent (s : State) (q : Nat) : Event :=
  let x := s.queueAt q
  let kind := recField (s.homeRead x.headAddr 1) 0 1
  eventAt (if !s.ringOk x then .ringReadFailure else if kind = 1 then .launchCommand else if kind = 2 then .drainCommand
    else if kind = 3 then .resumeCommand else if kind = 4 then .abortCommand else .unknownKindCommand) q 0

/-- The queues are served in turn, from the one after the last (R101); a queue that holds a launch waits for its
resources (R105). -/
def State.queueEvents (s : State) : List Event :=
  if s.queues.isEmpty then []
  else
    let next := ((List.range 16).map fun i => (s.lastQueue + 1 + i) % 16).find? s.queueReady
    (match next with | some q => [s.commandEvent q] | none => []) ++
      ((List.range 16).filter fun q => (s.queueAt q).hold.isSome).map fun q => eventAt .admissionGrant q 0

/-- The command that runs in the mailbox. -/
def mailboxInstr (code : Nat) : Option Instr :=
  [(0x10, Instr.getCert), (0x11, .attest), (0x12, .sealCmd), (0x13, .unsealCmd), (0x14, .sealRange), (0x20, .asidSet),
    (0x21, .asidClear), (0x22, .stvecSet), (0x30, .dqOpen), (0x31, .dqClose), (0x40, .fenceStatus), (0x50, .dbgHalt),
    (0x51, .dbgRun), (0x52, .dbgStep), (0x53, .dbgRead), (0x54, .dbgWrite), (0x55, .dbgCfg), (0x60, .telem),
    (0x61, .thrSet), (0x70, .fnReset), (0x71, .devReset)].lookup code

/-! ### All -/

/-- The steps that agents of the device can take in a state. -/
def State.pendingEvents (s : State) : List Event :=
  s.slots.flatMap (fun p => s.slotEvents p.1 p.2) ++ s.probeEvents ++ s.cores.flatMap (fun p => s.coreEvents p.1 p.2) ++
    s.clusters.flatMap (fun p => clusterEvents p.1 p.2) ++ s.beatEvents ++ s.homes.flatMap (fun p => s.homeEvents p.1 p.2) ++
    s.swaps.zipIdx.flatMap (fun p => swapEvents p.2 p.1) ++
    s.notices.map (fun n => ((.pageNotice : Instr), ({ a := n.1, b := n.2.1, v := BitVec.ofNat 64 n.2.2 } : EventArgs))) ++
    (List.range s.donOut.length).map (fun i => eventAt .donationReceive i 0) ++
    (List.range s.donIn.length).map (fun i => eventAt .donationReply i 0) ++ s.launches.flatMap s.launchEvents ++
    s.queueEvents ++ (match mailboxInstr s.mbRun with | some i => [eventAt i 0 0] | none => []) ++
    (s.dies.filter fun d => d.2.duty < min 16 d.2.cap && d.2.trig + tenMs ≤ s.clk).map fun d => eventAt .throttleRelax d.1 0

/-- The agents' step that happens next, or none, so that a slot issues. -/
def State.nextEvent (s : State) : Option Event :=
  match s.pendingEvents with
  | [] => none
  | e :: es =>
    let n := es.length + 1 + (if s.readySlots.isEmpty then 0 else 1)
    (e :: es)[Config.choose s.tick % n]?

end Sys2Proof.Machine
end

