-- ==== Sys2Proof/Machine/Step.lean ====
section
/-!
DEFINITION. One step of the package: a step that the outside world has asked for, else the clearing of the homes'
quota counts when their window is over, else a step of one of the device's agents, else an instruction of a ready slot.
-/
namespace Sys2Proof.Machine

/-- Time passes after a step that has an answer. -/
def after (o : Out) (f : State → State) : Out :=
  match o with
  | .next s => .next (f s).tickOn
  | .fault r => .fault r
  | .refused r => .refused r

/-- A step of an agent, or of the outside world. -/
def State.event (s : State) (i : Instr) (a : EventArgs) : Out := after (exec i { s with ev := a }) id

/-- A slot issues an instruction (R174): a line that is not cached holds the slot (R169), bits that are no instruction
raise ILL (R69). -/
def State.issue (s : State) (t : Nat) : Out :=
  match s.fetchInstr t with
  | .miss => .next (s.modSlot t fun x => { x with fetchMiss := true }).tickOn
  | .trap c va => .next (((s.beginIssue t).takeTrap c accFetch (BitVec.ofNat 64 va)).endIssue t).tickOn
  | .halves hs =>
    match decodeHalves hs with
    | .error _ => .next (((s.beginIssue t).takeTrap cILL 0 (BitVec.ofNat 64 (halvesNum hs))).endIssue t).tickOn
    | .ok (i, _) => after (exec i (s.beginIssue t)) (s.afterIssue t)

/-- What the side-band serves while the clocks are stopped (R461, R462). -/
def sideCommand (i : Instr) : Bool := i = .telem || i = .devReset || i = .pldmDiscovery || i = .pldmSensorRead

/-- One step. -/
def step (s : State) : Host.Outcome State Fault Refusal :=
  match s.inputs with
  | (i, a) :: rest =>
    if s.power || i = .conventionalReset || (s.sideOn && a.c = 1 && sideCommand i) then { s with inputs := rest }.event i a else .fault .clockStopped
  | [] =>
    if !s.power then .fault .clockStopped
    else if s.dstate = 1 then s.event .conventionalReset {}
    else if s.clk / 256 != s.window then s.event .quotaWindowStart {}
    else
      match s.nextEvent with
      | some (i, a) => s.event i a
      | none =>
        match s.nextSlot with
        | some t => s.issue t
        | none => .next s.tickOn

/-- The bytes of a cache line with some bytes at an offset. -/
def lineWith (off : Nat) (bs : List Byte) : List Byte :=
  (List.replicate off 0 ++ bs ++ List.replicate 64 0).take 64

/-- The state with an instruction where slot 0.0.0.0 fetches its next one: the package is ready, the slot runs a task at
supervisor level, and its fetch buffer holds the line of its pc, which is the start of a line (log 11). -/
def State.withFetchWord (s : State) (nbits w : Nat) : State :=
  let x := s.slotAt 0
  let pc := x.pc.toNat / 64 * 64
  let line : ILine := { asid := x.asid, glob := false, user := false, line := pc / 64, size := 16
                        bytes := lineWith 0 (tableBytes nbits w) }
  let y : Slot := { x with
    mode := .running, halted := false, pc := BitVec.ofNat 64 pc, sup := true, pend := [], fetchMiss := false
    fetchBuf := some line, issuedAt := none }
  { (s.setSlot 0 y) with power := true, dstate := 2, inputs := [], window := s.clk / 256 }

end Sys2Proof.Machine
end

