-- ==== Sys2Proof/Safety.lean ====
section
/-!
DEFINITION. What statements about the machine speak of: what one step changes and what it leaves, and what the tables of
the manual say that an instruction does. The tables here are written from the manual's rules a second time, in exact
integers and single bits where the meanings use word operations, and they do not call the meanings.
-/
namespace Sys2Proof.Machine

/-- A step goes on: it neither faults nor is refused. -/
def goesOn (s : State) : Prop := ∃ s', step s = .next s'

/-- The memories of the package, of its clusters, of its drives and of its peers are in canonical form. -/
def State.canonical (s : State) : Prop :=
  Memory.wf s.mem = true ∧ (∀ k ∈ s.clusters, Memory.wf k.2.sram = true) ∧ (∀ d ∈ s.drives, Memory.wf d.2 = true) ∧
    ∀ d ∈ s.peers, Memory.wf d.2 = true

/-! ### Frames -/

/-- Nothing outside slot t differs between two states: not another slot, not a core, a cluster, a home, memory, a queue
or a register of the device. -/
def onlySlot (t : Nat) (s s' : State) : Prop :=
  (∀ u, u ≠ t → s'.slotAt u = s.slotAt u) ∧ { s' with slots := s.slots } = s

/-- Every byte of package memory, of every cluster's SRAM, of every peer and of every drive reads as before. -/
def bytesKept (s s' : State) : Prop :=
  (∀ a, Memory.read s'.mem a = Memory.read s.mem a) ∧
  (∀ k a, Memory.read (s'.cluAt k).sram a = Memory.read (s.cluAt k).sram a) ∧
  (∀ d a, Memory.read (FMap.getD s'.peers d []) a = Memory.read (FMap.getD s.peers d []) a) ∧
  (∀ d a, Memory.read (FMap.getD s'.drives d []) a = Memory.read (FMap.getD s.drives d []) a)

/-- The current slot has written v to scalar register d (nothing when d is 0) and gone on n bytes; nothing else of the
device has changed. -/
def wroteReg (s s' : State) (d : Nat) (v : Word) (n : Nat) : Prop :=
  (∀ r, s'.me.reg r = if r = d ∧ r ≠ 0 then v else s.me.reg r) ∧
  s'.me.pc = s.me.pc + BitVec.ofNat 64 n ∧
  { s'.me with regs := s.me.regs, pc := s.me.pc } = s.me ∧
  onlySlot s.cur s s' ∧ bytesKept s s'

/-- The current slot has gone to an address; nothing else of the device has changed. -/
def wentTo (s s' : State) (pc : Word) : Prop :=
  { s'.me with pc := s.me.pc } = s.me ∧ s'.me.pc = pc ∧ onlySlot s.cur s s' ∧ bytesKept s s'

/-! ### Scalar results (R203 to R208) -/

/-- The number of elements below n that a test selects. -/
def countBelow (n : Nat) (p : Nat → Bool) : Nat := ((List.range n).filter p).length

/-- The word whose bit i is `f i`. -/
def wordOfBits (f : Nat → Bool) : Word := BitVec.ofNat 64 ((List.range 64).foldr (fun i n => b2n (f i) + 2 * n) 0)

/-- Destination and value of the scalar instructions whose result is written before the slot's next issue. -/
def scalarValue : Instr → State → Option (BitVec 5 × Word)
  | .add d a b, s => some (d, BitVec.ofNat 64 ((s.reg a).toNat + (s.reg b).toNat))
  | .sub d a b, s => some (d, BitVec.ofInt 64 ((s.reg a).toNat - (s.reg b).toNat))
  | .and d a b, s => some (d, s.reg a &&& s.reg b)
  | .or d a b, s => some (d, s.reg a ||| s.reg b)
  | .xor d a b, s => some (d, s.reg a ^^^ s.reg b)
  | .andn d a b, s => some (d, s.reg a &&& ~~~s.reg b)
  | .orn d a b, s => some (d, s.reg a ||| ~~~s.reg b)
  | .shl d a b, s => some (d, BitVec.ofNat 64 ((s.reg a).toNat * 2 ^ ((s.reg b).toNat % 64)))
  | .shr d a b, s => some (d, BitVec.ofNat 64 ((s.reg a).toNat / 2 ^ ((s.reg b).toNat % 64)))
  | .sar d a b, s => some (d, BitVec.ofInt 64 ((s.reg a).toInt / 2 ^ ((s.reg b).toNat % 64)))
  | .rol d a b, s =>
    let x := s.reg a
    let n := (s.reg b).toNat % 64
    some (d, if n = 0 then x else (x <<< n) ||| (x >>> (64 - n)))
  | .ror d a b, s =>
    let x := s.reg a
    let n := (s.reg b).toNat % 64
    some (d, if n = 0 then x else (x >>> n) ||| (x <<< (64 - n)))
  | .mul d a b, s => some (d, BitVec.ofInt 64 ((s.reg a).toInt * (s.reg b).toInt))
  | .min d a b, s => some (d, BitVec.ofInt 64 (min (s.reg a).toInt (s.reg b).toInt))
  | .max d a b, s => some (d, BitVec.ofInt 64 (max (s.reg a).toInt (s.reg b).toInt))
  | .minu d a b, s => some (d, BitVec.ofNat 64 (min (s.reg a).toNat (s.reg b).toNat))
  | .maxu d a b, s => some (d, BitVec.ofNat 64 (max (s.reg a).toNat (s.reg b).toNat))
  | .slt d a b, s => some (d, if (s.reg a).toInt < (s.reg b).toInt then 1 else 0)
  | .sltu d a b, s => some (d, if (s.reg a).toNat < (s.reg b).toNat then 1 else 0)
  | .seq d a b, s => some (d, if (s.reg a).toNat = (s.reg b).toNat then 1 else 0)
  | .sel d a b, s => some (d, if s.reg d ≠ 0 then s.reg a else s.reg b)
  | .clz d a, s => some (d, BitVec.ofNat 64 (countBelow 64 fun i => (s.reg a).toNat < 2 ^ i))
  | .ctz d a, s => some (d, BitVec.ofNat 64 (countBelow 64 fun i => (s.reg a).toNat % 2 ^ (i + 1) = 0))
  | .popc d a, s => some (d, BitVec.ofNat 64 (countBelow 64 fun i => (s.reg a).getLsbD i))
  | .brev d a, s => some (d, (s.reg a).reverse)
  | .bswap d a, s =>
    let byte (i : Nat) : BitVec 8 := (s.reg a).extractLsb' (8 * i) 8
    some (d, byte 0 ++ byte 1 ++ byte 2 ++ byte 3 ++ byte 4 ++ byte 5 ++ byte 6 ++ byte 7)
  | .sextb d a, s => some (d, BitVec.ofInt 64 ((s.reg a).extractLsb' 0 8).toInt)
  | .sexth d a, s => some (d, BitVec.ofInt 64 ((s.reg a).extractLsb' 0 16).toInt)
  | .sextw d a, s => some (d, BitVec.ofInt 64 ((s.reg a).extractLsb' 0 32).toInt)
  | .addi d a imm, s => some (d, BitVec.ofInt 64 ((s.reg a).toInt + imm.toInt))
  | .andi d a imm, s => some (d, s.reg a &&& BitVec.ofNat 64 imm.toNat)
  | .ori d a imm, s => some (d, s.reg a ||| BitVec.ofNat 64 imm.toNat)
  | .xori d a imm, s => some (d, s.reg a ^^^ BitVec.ofNat 64 imm.toNat)
  | .slti d a imm, s => some (d, if (s.reg a).toInt < imm.toInt then 1 else 0)
  | .sltiu d a imm, s => some (d, if (s.reg a).toNat < (BitVec.ofInt 64 imm.toInt).toNat then 1 else 0)
  | .muli d a imm, s => some (d, BitVec.ofInt 64 ((s.reg a).toInt * imm.toInt))
  | .shli d a amt, s => some (d, BitVec.ofNat 64 ((s.reg a).toNat * 2 ^ amt.toNat))
  | .shri d a amt, s => some (d, BitVec.ofNat 64 ((s.reg a).toNat / 2 ^ amt.toNat))
  | .sari d a amt, s => some (d, BitVec.ofInt 64 ((s.reg a).toInt / 2 ^ amt.toNat))
  | .bext d a len1 pos, s =>
    some (d, ((s.reg a).extractLsb' pos.toNat (len1.toNat + 1)).setWidth 64)
  | .bins d a len1 pos, s =>
    some (d, wordOfBits fun i =>
      if pos.toNat ≤ i ∧ i ≤ pos.toNat + len1.toNat then (s.reg a).getLsbD (i - pos.toNat) else (s.reg d).getLsbD i)
  | .lui d imm, _ => some (d, BitVec.ofInt 64 (imm.toInt * 4096))
  | .adpc d imm, s => some (d, BitVec.ofInt 64 (s.me.pc.toInt + imm.toInt * 4096))
  | _, _ => none

/-- Shadow, destination and value of the multiply-high and divide family (R203, R204). -/
def lateValue : Instr → State → Option (BitVec 4 × BitVec 5 × Word)
  | .mulh d a b la, s => some (la, d, BitVec.ofInt 64 ((s.reg a).toInt * (s.reg b).toInt / 2 ^ 64))
  | .mulhu d a b la, s => some (la, d, BitVec.ofNat 64 ((s.reg a).toNat * (s.reg b).toNat / 2 ^ 64))
  | .div d a b la, s =>
    some (la, d, BitVec.ofInt 64 (if s.reg b = 0 then -1 else (s.reg a).toInt.tdiv (s.reg b).toInt))
  | .divu d a b la, s =>
    some (la, d, BitVec.ofInt 64 (if s.reg b = 0 then -1 else (((s.reg a).toNat / (s.reg b).toNat : Nat) : Int)))
  | .rem d a b la, s =>
    some (la, d, BitVec.ofInt 64 (if s.reg b = 0 then (s.reg a).toInt else (s.reg a).toInt.tmod (s.reg b).toInt))
  | .remu d a b la, s => some (la, d, BitVec.ofNat 64 ((s.reg a).toNat % (s.reg b).toNat))
  | _, _ => none

/-- The record of a long-latency instruction that the current slot issues. -/
def newPend (s : State) (i : Instr) (la : BitVec 4) (d : BitVec 5) (va : Word) (out : PendOut) : Pend :=
  { left := la.toNat, dest := d.toNat, iaddr := s.me.pc, iword := instrBits i, va := va, out := out
    arrived := false, fresh := true }

/-- The current slot has left a result pending and gone on four bytes; nothing else of the device has changed. -/
def leftPending (s s' : State) (p : Pend) : Prop :=
  s'.me.pend = s.me.pend ++ [p] ∧ s'.me.pc = s.me.pc + 4 ∧
  { s'.me with pend := s.me.pend, pc := s.me.pc } = s.me ∧
  onlySlot s.cur s s' ∧ bytesKept s s'

/-! ### Branches (R209, R210) -/

/-- Whether a conditional branch is taken, and its offset in halfwords. -/
def branchTaken : Instr → State → Option (Bool × BitVec 12)
  | .beq a b off, s => some ((s.reg a).toNat = (s.reg b).toNat, off)
  | .bne a b off, s => some ((s.reg a).toNat ≠ (s.reg b).toNat, off)
  | .blt a b off, s => some ((s.reg a).toInt < (s.reg b).toInt, off)
  | .bge a b off, s => some ((s.reg b).toInt ≤ (s.reg a).toInt, off)
  | .bltu a b off, s => some ((s.reg a).toNat < (s.reg b).toNat, off)
  | .bgeu a b off, s => some ((s.reg b).toNat ≤ (s.reg a).toNat, off)
  | _, _ => none

/-- Destination and target of a jump. -/
def jumpTarget : Instr → State → Option (BitVec 5 × Word)
  | .jal d off, s => some (d, BitVec.ofInt 64 (s.me.pc.toInt + 2 * off.toInt))
  | .jalr d a imm, s => some (d, BitVec.ofInt 64 (((s.reg a).toInt + imm.toInt) / 2 * 2))
  | _, _ => none

/-- The current slot has written v to register d and gone to an address; nothing else of the device has changed. -/
def linkedTo (s s' : State) (d : Nat) (v pc : Word) : Prop :=
  (∀ r, s'.me.reg r = if r = d ∧ r ≠ 0 then v else s.me.reg r) ∧ s'.me.pc = pc ∧
  { s'.me with regs := s.me.regs, pc := s.me.pc } = s.me ∧
  onlySlot s.cur s s' ∧ bytesKept s s'

/-! ### Special registers (R185, R212 to R215) -/

/-- The id is defined and may be reached at the slot's level. -/
def sprReachable (s : State) (sr : BitVec 12) : Prop :=
  srDefined sr.toNat = true ∧ (sr.toNat < 0x100 ∨ s.me.sup = true)

/-- The state in which a special register is accessed: PRC and FLG wait for the slot's wide instructions (R215). -/
def sprState (s : State) (sr : BitVec 12) : State := if sr.toNat < 2 then s.drainWide s.cur else s

/-- The value that an instruction writes to a special register. -/
def sprWritten : Instr → State → Option (BitVec 12 × Word)
  | .mts a sr, s => some (sr, s.reg a)
  | .mtsset a sr, s => some (sr, s.readSpr s.cur s.me.sup sr.toNat ||| s.reg a)
  | .mtsclr a sr, s => some (sr, s.readSpr s.cur s.me.sup sr.toNat &&& ~~~s.reg a)
  | _, _ => none

/-- The special register that an instruction names. -/
def sprNamed : Instr → Option (BitVec 12)
  | .mfs _ sr => some sr
  | .mts _ sr => some sr
  | .mtsset _ sr => some sr
  | .mtsclr _ sr => some sr
  | _ => none

/-- What a register of R185 that one slot holds reads as after a write of v, by id. -/
def sprReadBack (id : Nat) (v : Word) : Option Word :=
  if id = 0x001 then some (v &&& 0xFF)
  else if id = 0x008 then some v
  else if id = 0x009 then some (v &&& 0xFFFFFFFF)
  else if id = 0x00A then some (v &&& 0xFFFFFFFF)
  else if id = 0x00B then some (v &&& 0x13F3F)
  else if id = 0x010 then some v
  else if id = 0x011 then some v
  else if id = 0x012 then some (v &&& 0xFFF)
  else if id = 0x013 then some v
  else if id = 0x014 then some v
  else if id = 0x015 then some v
  else if id = 0x016 then some (v &&& 0xFFFFFFFF00007FFF)
  else if id = 0x01B then some (v &&& 0x7FFF)
  else if id = 0x100 then some v
  else if id = 0x101 then some v
  else if id = 0x102 then some (v &&& 0xFFFF)
  else if id = 0x103 then some v
  else if id = 0x10A then some (v &&& 0x7F)
  else if id = 0x10B then some (v &&& 0x3FFF)
  else if id = 0x10C then some (v &&& 0x3)
  else if id = 0x10D then some (v &&& 0x7FF)
  else none

/-! ### Traps (R416 to R420) -/

/-- The trap is delivered at user level: its cause does not belong to the supervisor, and the slot runs at user level
outside every handler with a vector set (R417, R419, R420). -/
def entersUser (x : Slot) (cause : Nat) : Prop :=
  cause ≠ 0x03 ∧ cause ≠ 0x04 ∧ cause ≠ 0x0B ∧ x.sup = false ∧ x.uh = false ∧ x.sh = false ∧ x.tvec ≠ 0

/-- What user trap entry leaves: TPC, TCAU, TVAL, UH and the pc are written, an interrupted atomic or drain starts
afresh, nothing else changes. -/
def enteredUser (s s' : State) (bits : Nat) (tval : Word) : Prop :=
  s'.me = { s.me with
    tpc := s.me.pc, tcau := BitVec.ofNat 64 bits, tval := tval, uh := true, pc := s.me.tvec, kept := none, drains := none } ∧
  onlySlot s.cur s s' ∧ bytesKept s s'

/-- The trap is delivered at supervisor level: the slot runs no supervisor handler, STVEC is set, and the cause is the
supervisor's, or the slot runs at supervisor level or in a user handler (R417, R419, R420). -/
def entersSuper (s : State) (x : Slot) (cause : Nat) : Prop :=
  x.sh = false ∧ s.stvec ≠ 0 ∧ (cause = 0x03 ∨ cause = 0x04 ∨ cause = 0x0B ∨ x.sup = true ∨ x.uh = true)

/-- What supervisor trap entry leaves: SEPC, SCAU with PL, PUH and NEST, SVAL, the level, SH, UH and the pc are
written, an interrupted atomic or drain starts afresh, nothing else changes. -/
def enteredSuper (s s' : State) (cause bits : Nat) (tval : Word) : Prop :=
  s'.me = { s.me with
    sepc := s.me.pc, sval := tval, sup := true, sh := true, uh := false, pc := s.stvec, kept := none, drains := none
    scau := BitVec.ofNat 64 (bits + (if s.me.sup then 2 ^ 12 else 0) + (if s.me.uh then 2 ^ 13 else 0) +
      (if cause ≠ 0x03 ∧ cause ≠ 0x04 ∧ cause ≠ 0x0B ∧ s.me.sup = false then 2 ^ 14 else 0)) } ∧
  onlySlot s.cur s s' ∧ bytesKept s s'

/-- Every earlier instruction of the current slot completes without a deferred fault or a park. -/
def settles (s : State) : Prop :=
  (s.endShadows s.cur).me.pend = [] ∧ (s.endShadows s.cur).me.mode = .running ∧ (s.endShadows s.cur).cur = s.cur

/-- Results set aside come back once no handler runs any more (R73). -/
def broughtBack (x : Slot) : Slot :=
  if x.uh = true ∨ x.sh = true then x else { x with pend := x.pend ++ x.later, later := [] }

/-- The access of a record with PEND, a full/empty load that its level has still to perform (R425, R426). -/
def recordAccess (r : Deferred) : Pend :=
  { left := 0, dest := r.dfi.toNat / 2 ^ 8 % 2 ^ 5, iaddr := r.dfp, iword := r.dfi.toNat / 2 ^ 32, va := r.dfv
    out := .full (decide (redoWord (r.dfi.toNat / 2 ^ 32) = some (.full true))), arrived := true }

/-- The record of the level of a slot. -/
def levelRecord (x : Slot) : Deferred := if x.sup then x.sdef else x.udef

/-- A slot whose handler has returned, before what it has still to do: results set aside are back, and the access of a
record with PEND stands before them. One that was starting a task goes back to that (log 60). -/
def returned (x : Slot) : Slot :=
  let y := broughtBack x
  let z := if (levelRecord y).dfi.getLsbD 14 then { y with pend := recordAccess (levelRecord y) :: y.pend } else y
  match z.taken with
  | none => z
  | some (e, d) => { z with mode := .starting e d, taken := none }

/-! ### Scalar accesses (R302 to R306) -/

/-- Destination, base, shadow, offset, size and signedness of the scalar loads. -/
def loadForm : Instr → Option (BitVec 5 × BitVec 5 × BitVec 4 × BitVec 11 × Nat × Bool)
  | .ldb d a la imm => some (d, a, la, imm, 1, true)
  | .ldbu d a la imm => some (d, a, la, imm, 1, false)
  | .ldh d a la imm => some (d, a, la, imm, 2, true)
  | .ldhu d a la imm => some (d, a, la, imm, 2, false)
  | .ldw d a la imm => some (d, a, la, imm, 4, true)
  | .ldwu d a la imm => some (d, a, la, imm, 4, false)
  | .ldd d a la imm => some (d, a, la, imm, 8, false)
  | _ => none

/-- Source, base, offset and size of the scalar stores. -/
def storeForm : Instr → Option (BitVec 5 × BitVec 5 × BitVec 11 × Nat)
  | .stb d a imm => some (d, a, imm, 1)
  | .sth d a imm => some (d, a, imm, 2)
  | .stw d a imm => some (d, a, imm, 4)
  | .std d a imm => some (d, a, imm, 8)
  | _ => none

/-- s[a] + sext(imm11) × size (R303). -/
def accessAddr (s : State) (a : BitVec 5) (imm : BitVec 11) (n : Nat) : Word :=
  BitVec.ofInt 64 ((s.reg a).toInt + imm.toInt * n)

/-- Loaded bytes as a register value: little-endian, sign- or zero-extended (R2, R303). -/
def loadedValue (sgn : Bool) (bs : List Byte) : Word :=
  let w := natOfBytes bs
  BitVec.ofInt 64 (if sgn ∧ 2 ^ (8 * bs.length) ≤ 2 * w then (w : Int) - 2 ^ (8 * bs.length) else w)

/-- Byte of cluster SRAM that byte i of a scratch access of n bytes of the current slot reaches: an aligned access is one
unit, another is taken byte by byte (R154, R278, R384). -/
def scratchPlace (s : State) (va : Word) (n i : Nat) : Nat :=
  let u := if va.toNat % n = 0 then n else 1
  (s.cluAt s.myClu).scratchAt s.me.lid (va.toNat % 2 ^ 48 + i / u * u) + i % u

/-- A plain load that reads at the end of its shadow: an earlier load has still to read some of its bytes (R306, R385), or
the core lets later accesses to other places go before it (R386, log 84). -/
def delayedLoad (s : State) (va n : Nat) : Prop :=
  regionOf va ≠ .aperture ∧ (s.olderReads [(va, n)] = true ∨ Config.lateLoad s.tick = true)

/-- The core has no atomic or accumulate on its way, so that a plain access has nothing to wait for (R306, R385). -/
def noneOut (s : State) : Prop := (s.coreAt s.myCore).out = [] ∧ (s.coreAt s.myCore).remapped = []

/-- A byte of a cluster's SRAM as the current slot sees it: the youngest buffered store that it sees, its own or a sibling's
whose value it has taken, else the SRAM (R387). -/
def sramSeen (s : State) (k off : Nat) : Byte :=
  (bufByte ((s.coreAt s.myCore).storeBuf.filter fun e => e.sees s.cur) (k + 1) off).getD (Memory.read (s.cluAt k).sram off)

/-- The current slot after the first m parts of a scratch load of n bytes: an aligned load has one part, another reads byte
by byte. Before each part the slot may take siblings' buffered stores to it early (R304, R386, R387). -/
def tookEarly (s : State) (va : Word) (n : Nat) : Nat → State
  | 0 => s
  | m + 1 =>
    if va.toNat % n = 0 then s.forward s.cur (.sram s.myClu (scratchPlace s va n 0)) n
    else (tookEarly s va n m).forward s.cur (.sram s.myClu (scratchPlace s va n m)) 1

/-! ### Releases (R370, R389) -/

/-- The residuals of the slot's launch have been flushed from its core. -/
def flushed (s : State) : State := s.flushResiduals s.myCore s.me.lid

/-- Every earlier load of the current slot reads its value without a park or an accumulate fault (R389, R391). -/
def loadsRead (s : State) : Prop := s.readNow.2 = true

/-- The state in which they have read, or in which one has parked the slot or brought an accumulate fault. -/
def afterLoads (s : State) : State := s.readNow.1

/-- A pending load of the current slot has still to read one of some bytes (R306, R385). -/
def readsAwait (s : State) (rs : List (Nat × Nat)) : Prop := ∃ p ∈ s.me.pend, s.awaits s.cur p rs = true

/-- An instruction of the current slot may access some bytes: loads that have still to read one of them can read. -/
def mayAccess (s : State) (rs : List (Nat × Nat)) : Prop := readsAwait s rs → loadsRead s

/-- The state in which it accesses them. -/
def behindReads (s : State) (rs : List (Nat × Nat)) : State :=
  if s.olderReads rs then afterLoads s else s

/-- The state after what comes before a release of a scope: earlier loads have read, residuals are flushed (R370, R389). -/
def beforeRelease (s : State) (scope : Nat) : State :=
  if scope < 2 then afterLoads s else flushed (afterLoads s)

/-- A release of a scope can be made: earlier loads read, and no accumulate fault awaits the slot (R357, R370, R391). -/
def mayRelease (s : State) (scope : Nat) : Prop :=
  loadsRead s ∧ (scope < 2 ∨ (beforeRelease s scope).me.accFault = none)

/-- The state after the release actions of a scope. -/
def released (s : State) (scope : Nat) : State := (beforeRelease s scope).release (beforeRelease s scope).cur scope

/-- The state after those of a fence: at cluster scope earlier stores may stay buffered, before every later one (R389, log
84). -/
def fenced (s : State) (scope : Nat) : State :=
  let s1 := beforeRelease s scope
  if scope = 2 ∧ Config.lazyFence s1.tick = true
  then ((s1.drainAmo s1.myCore).flushResiduals s1.myCore s1.me.lid).setBefore s1.myCore
  else released s scope

/-! ### Ordered accesses, full/empty words, atomics (R307 to R311, R346 to R349) -/

/-- Destination, address register, scope, shadow and size of lda. -/
def ldaForm : Instr → Option (BitVec 5 × BitVec 5 × BitVec 3 × BitVec 4 × Nat)
  | .ldaD d a scope la => some (d, a, scope, la, 8)
  | .ldaW d a scope la => some (d, a, scope, la, 4)
  | _ => none

/-- Address register, data register, scope and size of stl. -/
def stlForm : Instr → Option (BitVec 5 × BitVec 5 × BitVec 3 × Nat)
  | .stlD a b scope => some (a, b, scope, 8)
  | .stlW a b scope => some (a, b, scope, 4)
  | _ => none

/-- Address register of the full/empty instructions, the ACC of a fault of theirs, and whether a handler may not issue
them (R309, R399, R418). -/
def feForm : Instr → Option (BitVec 5 × Nat × Bool)
  | .lde _ a _ => some (a, 0, true)
  | .ldx _ a _ => some (a, 3, true)
  | .stf a _ => some (a, 1, true)
  | .sto a _ => some (a, 1, false)
  | .ldeTry _ a _ => some (a, 0, false)
  | .ldxTry _ a _ => some (a, 3, false)
  | .stfTry _ a _ => some (a, 1, false)
  | _ => none

/-- An address that full/empty instructions accept: aligned to 8 and in scratch (R280, R309). -/
def feAddress (va : Word) : Prop := va.toNat % 8 = 0 ∧ regionOf va.toNat = .scratch

/-- The full/empty word that an address reaches. -/
def feWord (s : State) (va : Word) : Nat := s.scratchOff s.cur va.toNat

/-- The state in which an operation on n bytes of scratch acts: the slot's own posted atomics to them are performed
(R306, R385). -/
def inOrder (s : State) (va : Word) (n : Nat) : State := s.syncAmo s.cur (s.scratchChunks s.cur va.toNat n)

/-- The word is full in the current slot's cluster. -/
def isFull (s : State) (off : Nat) : Prop := (s.cluAt s.myClu).full off = true

/-- The word that an operation finds full: it is full, and the operation's own releases leave it so. -/
def findsFull (s : State) (off : Nat) (take : Bool) (v : Nat) (s' : State) : Prop :=
  isFull s off ∧
  (if take then mayRelease s 2 ∧ (beforeRelease s 2).feLoad (beforeRelease s 2).cur off true = some (v, s')
   else s.feLoad s.cur off false = some (v, s'))

/-- Function, operands, scope, order and size of the atomics. -/
def amoForm : Instr → Option (Nat × BitVec 5 × BitVec 5 × BitVec 5 × BitVec 3 × BitVec 2 × BitVec 1)
  | .amoAdd d a b scope ord sz => some (0, d, a, b, scope, ord, sz)
  | .amoAnd d a b scope ord sz => some (1, d, a, b, scope, ord, sz)
  | .amoOr d a b scope ord sz => some (2, d, a, b, scope, ord, sz)
  | .amoXor d a b scope ord sz => some (3, d, a, b, scope, ord, sz)
  | .amoMin d a b scope ord sz => some (4, d, a, b, scope, ord, sz)
  | .amoMax d a b scope ord sz => some (5, d, a, b, scope, ord, sz)
  | .amoMinu d a b scope ord sz => some (6, d, a, b, scope, ord, sz)
  | .amoMaxu d a b scope ord sz => some (7, d, a, b, scope, ord, sz)
  | .amoSwp d a b scope ord sz => some (8, d, a, b, scope, ord, sz)
  | .cas d a b scope ord sz => some (9, d, a, b, scope, ord, sz)
  | _ => none

/-- The low n bytes of a number as a signed integer. -/
def signedBytes (n w : Nat) : Int :=
  let r := w % 2 ^ (8 * n)
  if 2 ^ (8 * n) ≤ 2 * r then (r : Int) - 2 ^ (8 * n) else r

/-- New value of an atomic of n bytes from the old one, the operand and cas's expected value (R347). -/
def amoValue (fn n x y e : Nat) : Nat :=
  match fn with
  | 0 => (x + y) % 2 ^ (8 * n)
  | 1 => x &&& y
  | 2 => x ||| y
  | 3 => x ^^^ y
  | 4 => if signedBytes n x < signedBytes n y then x else y
  | 5 => if signedBytes n x < signedBytes n y then y else x
  | 6 => min x y
  | 7 => max x y
  | 8 => y
  | _ => if x = e then y else x

/-- The low n bytes of a register. -/
def lowBytes (n : Nat) (w : Word) : Nat := w.toNat % 2 ^ (8 * n)

/-- An atomic takes its operands from the registers: it does not execute again after a park (R350). -/
def freshOperands (x : Slot) : Prop := ∀ k, x.kept = some k → k.1 ≠ x.pc

/-- The state in which an atomic acts, released as its order says, with the counts that a release at a home carries (R349,
R369). -/
def amoReleased (s1 : State) (c : Chunk) (scope : BitVec 3) (ord : BitVec 2) : Option (FMap Nat) × State :=
  let s2 := s1.modMe fun x => { x with kept := none }
  let s3 := beforeRelease s2 scope.toNat
  if ord.getLsbD 1 = false then (none, s2)
  else if c.atHome then (some (s3.releaseByMarker s3.cur scope.toNat).1, (s3.releaseByMarker s3.cur scope.toNat).2)
  else (none, s3.release s3.cur scope.toNat)

/-- The state in which a waiting atomic reads its target: acquired, behind what its core has sent to the same place, with the
counts of its release met (R15, R348, R349, R369). -/
def amoState (s1 : State) (c : Chunk) (scope : BitVec 3) (ord : BitVec 2) : State :=
  let r := amoReleased s1 c scope ord
  let s2 := if ord.getLsbD 0 then r.2.acquire r.2.cur scope.toNat else r.2
  let s3 := s2.syncAmo s2.cur [c]
  if r.1.isSome then s3.confirmAll s3.myCore else s3.servePlace s3.myCore c.loc

/-- The release that an order asks for can be made. -/
def mayOrder (s1 : State) (scope : BitVec 3) (ord : BitVec 2) : Prop :=
  ord.getLsbD 1 = true → mayRelease (s1.modMe fun x => { x with kept := none }) scope.toNat

/-- Address register, data register, element size and floating of the scalar accumulates. -/
def accsForm : Instr → Option (BitVec 5 × BitVec 5 × Nat × Bool)
  | .accsI32 a b => some (a, b, 4, false)
  | .accsI64 a b => some (a, b, 8, false)
  | .accsF32 a b => some (a, b, 4, true)
  | .accsF64 a b => some (a, b, 8, true)
  | _ => none

/-! ### Accumulates at their homes (R355 to R366) -/

/-- The bytes of a request's unit at its home. -/
def unitAt (s : State) (r : AccReq) : List Byte := s.sliceSee (s.homeOf r.dom r.pa) r.pa (unitLen r.grain)

/-- What the home has pending for the unit aims at the same kind of target as a request (R360). -/
def sameKindPending (s : State) (r : AccReq) : Prop :=
  ∀ e ∈ (s.homeAt (s.homeOf r.dom r.pa)).wq, ∀ q ∈ e.reqs, q.pa = r.pa → sameTarget q r = true

/-- The target takes the addend of a request: a described one has its FMT or is EMPTY, and nothing there is poisoned (R356). -/
def targetFits (s : State) (r : AccReq) : Prop :=
  (∀ f, r.data.fmt = some f → Block.fmt (unitAt s r) = f ∨ Block.fmt (unitAt s r) = fmtEMPTY) ∧
  s.homePoisoned r.pa (unitLen r.grain) r.dom = false

/-- Accumulates of a request's core to its grain that the home has accepted in this window (R360). -/
def quotaUsed (s : State) (r : AccReq) : Nat :=
  FMap.getD (s.homeAt (s.homeOf r.dom r.pa)).quota (r.core * 2 ^ 52 + grainBase r.grain r.pa) 0

/-- A core has a request on its way, or holds it for reissue. -/
def hasSent (s : State) (core : Nat) (p : AccReq → Prop) : Prop :=
  ∃ r, p r ∧ (HomeReq.acc r ∈ (s.coreAt core).out ∨ HomeReq.acc r ∈ (s.coreAt core).remapped)

/-- Only the answers that wait for a core, and what a home counts for it, differ between two states; the newest answer is
the one given. -/
def answered (s t : State) (core : Nat) (a : AccAns) : Prop :=
  (t.coreAt core).accAns = (s.coreAt core).accAns ++ [a] ∧ (∀ u, t.slotAt u = s.slotAt u) ∧ bytesKept s t

/-! ### Barriers (R395 to R397) -/

/-- An address that barrier instructions accept: aligned to 16 and in scratch. -/
def barAddress (va : Word) : Prop := va.toNat % 16 = 0 ∧ regionOf va.toNat = .scratch

/-- The state in which a barrier instruction acts on the object at an address: the core's atomics on their way to the bank
are performed, and its stores to the object, and those that a release has set before what comes, have left its buffer (R15,
R385, R387, R391). -/
def barState (s : State) (va : Word) : State :=
  let l : Loc := .sram s.myClu (s.scratchOff s.cur va.toNat)
  ((s.servePlace s.myCore l).drainBefore s.myCore).drainOver s.myCore l 16

/-- Phase, pending and expected arrivals of the object at an SRAM offset of the current slot's cluster. -/
def phaseAt (s : State) (off : Nat) : Nat := s.wordAt s.myClu off % 2 ^ 12
def pendingAt (s : State) (off : Nat) : Nat := s.wordAt s.myClu off / 2 ^ 12 % 2 ^ 20
def expectedAt (s : State) (off : Nat) : Nat := s.wordAt s.myClu off / 2 ^ 32 % 2 ^ 20

/-- Word 0 of an object. -/
def objectWord (phase pending expected : Nat) : Nat :=
  phase % 2 ^ 12 + 2 ^ 12 * (pending % 2 ^ 20) + 2 ^ 32 * (expected % 2 ^ 20)

/-! ### Tasks (R124, R140, R147, R148, R399) -/

/-- The current slot reaches a task boundary: its earlier instructions complete, its residuals are flushed, and neither a
deferred nor an accumulate fault is found; s2 is the state there. -/
def atBoundary (s s2 : State) : Prop :=
  (s.endShadows s.cur).me.pend = [] ∧ s2 = flushed (s.endShadows s.cur) ∧ s2.me.accFault = none

/-- Where a task ends at a frame: its bindings are released, the tiles that its frame held are free of it, and its core's
stores have left (R148). -/
def taskSettled (s : State) (fa : Nat) : State := ((s.unbindAll s.cur).unholdTiles fa).drainStores s.myCore

/-- Then its windows are released, and its frame is free. -/
def taskReleased (s : State) (fa : Nat) : State := ((taskSettled s fa).releaseWindows s.cur).freeFrame fa

/-- No request of the current slot's core waits for its pools. -/
def poolIdle (s : State) : Prop := ∀ w ∈ s.waits, w.place ≠ .pool s.myCore

/-- A continuation that has left its deque is counted in the JOIN of its frame (R129). -/
def countedEntry (e : QEntry) : QEntry := if e.kind = 0 then { e with counted := true } else e

/-- The instructions that raise ILL in a trap handler (R399). -/
def forbiddenInHandler : Instr → Bool
  | .lde _ _ _ => true
  | .ldx _ _ _ => true
  | .stf _ _ => true
  | .barWait _ _ => true
  | .fpub _ _ => true
  | .spawn _ _ => true
  | .sync => true
  | .tend => true
  | .yield => true
  | .dtake _ _ _ => true
  | .wfi => true
  | .ibxRecv _ _ => true
  | _ => false

/-! ### Vector results (R218 to R243, R247) -/

/-- A vector instruction with a vector destination: its size, whether it needs integer lanes, the vector registers that
it reads with the lanes of each that it examines, its destination and mask, each active lane's element with its flags and the
class that an exact element needs, and whether exact mode applies to it. -/
structure VectorForm where
  size : Nat
  ints : Bool
  reads : List Nat
  act : Nat → BitVec 32
  dest : Nat
  mask : BitVec 32
  lane : Nat → LaneOut
  exact : Bool

/-- Flags over the active lanes. -/
def VectorForm.flags (f : VectorForm) : Flags :=
  (List.range 32).foldl (fun a i => if f.mask.getLsbD i then a ||| (f.lane i).2.1 else a) 0

/-- The class that the active lanes need. -/
def VectorForm.need (f : VectorForm) : Nat :=
  (List.range 32).foldl (fun a i => if f.mask.getLsbD i then max a (f.lane i).2.2 else a) 0

/-- Every lane is active. -/
def allLanes : BitVec 32 := 0xFFFFFFFF

/-- Lanes of a mask, rising, and the mask of some lanes. -/
def lanesOf (m : BitVec 32) : List Nat := (List.range 32).filter fun j => m.getLsbD j
def laneSet (p : Nat → Bool) : BitVec 32 := BitVec.ofNat 32 (((List.range 32).filter p).map fun j => 2 ^ j).sum

/-- Flags of lane results. -/
def flagsOver (js : List Nat) (f : Nat → LaneOut) : Flags := js.foldl (fun a j => a ||| (f j).2.1) 0

/-- An integer as a lane: the number modulo 2^32, every other bit 0 (R29). -/
def laneOfInt (n : Int) : Lane := BitVec.ofNat 76 (n % 2 ^ 32).toNat

/-- Low 32 bits of lane i of a vector. -/
def low32 (v : FMap Lane) (i : Nat) : BitVec 32 := (laneOf v i).setWidth 32

/-- An integer operation of two registers. -/
def intForm (size : Nat) (m : BitVec 32) (d a b : Nat) (v : Nat → FMap Lane) (f : BitVec 32 → BitVec 32 → Int) : VectorForm :=
  { size := size, ints := true, reads := [a, b], act := fun _ => m, dest := d, mask := m, exact := false
    lane := fun i => (laneOfInt (f (low32 (v a) i) (low32 (v b) i)), 0, 0) }

/-- The lanes that the lanes of a mask take from an operand; `src` are those that lane i takes. -/
def sourceLanes (m : BitVec 32) (src : Nat → List Nat) : BitVec 32 :=
  laneSet fun j => (lanesOf m).any fun i => (src i).contains j

/-- A movement of whole lanes; `src` are the lanes of its operands that lane i takes. -/
def moveForm (m : BitVec 32) (d : Nat) (reads : List Nat) (src : Nat → List Nat) (f : Nat → Lane) : VectorForm :=
  { size := 4, ints := false, reads := reads, act := fun _ => sourceLanes m src
    dest := d, mask := m, exact := false, lane := fun i => (f i, 0, 0) }

/-- An operation whose exact result each lane rounds once at the slot's precision. -/
def roundForm (size : Nat) (m : BitVec 32) (s : State) (d : Nat) (reads : List Nat) (f : Nat → Res) : VectorForm :=
  { size := size, ints := false, reads := reads, act := fun _ => m, dest := d, mask := m, exact := true
    lane := fun i => s.me.roundLane (f i) }

/-- An operation that selects a value and never rounds. -/
def pickForm (size : Nat) (m : BitVec 32) (s : State) (d : Nat) (reads : List Nat) (f : Nat → Val × Flags) : VectorForm :=
  { size := size, ints := false, reads := reads, act := fun _ => m, dest := d, mask := m, exact := false
    lane := fun i => (encodeLane s.me.vclass (f i).1, (f i).2, 0) }

/-- A result in lane 0 beside lanes of +0, from the lanes of a mask. -/
def lane0Form (ints exact : Bool) (d : Nat) (reads : List Nat) (m : BitVec 32) (o : LaneOut) : VectorForm :=
  { size := 4, ints := ints, reads := reads, act := fun _ => m, dest := d, mask := allLanes, exact := exact
    lane := fun i => if i = 0 then o else (0, 0, 0) }

/-- A node of the tree of R239 over 2^h leaves from leaf lo on: a missing side passes the other on. -/
def pairTree (f : Val → Val → Val × Flags) (leaf : Nat → Option Val) : Nat → Nat → Option Val × Flags
  | 0, lo => (leaf lo, 0)
  | h + 1, lo =>
    let x := pairTree f leaf h lo
    let y := pairTree f leaf h (lo + 2 ^ h)
    match x.1, y.1 with
    | some a, some b => (some (f a b).1, x.2 ||| y.2 ||| (f a b).2)
    | some a, none => (some a, x.2 ||| y.2)
    | none, b => (b, x.2 ||| y.2)

/-- The leaves of a reduction: the active lanes. -/
def activeLeaf (s : State) (v : FMap Lane) (m : BitVec 32) (i : Nat) : Option Val :=
  if m.getLsbD i then some (laneVal s.me.vclass v i) else none

/-- The sum of R239 at a fraction length. -/
def treeSum (s : State) (v : FMap Lane) (m : BitVec 32) (L : Nat) : Option Val × Flags :=
  pairTree (fun x y => (addRes s.me.rnd x y).deliver (fmtReg L) s.me.rnd) (activeLeaf s v m) 5 0

/-- The element of a reduction: the one active lane unchanged, the value of the tree, or the value of no lane. -/
def reduced (s : State) (v : FMap Lane) (m : BitVec 32) (r : Option Val) (none_ : Val) : Lane :=
  match (List.range 32).filter fun i => m.getLsbD i with
  | [i] => laneOf v i
  | _ => encodeLane s.me.vclass (r.getD none_)

/-- The sum of fredsum with its flags and the least class at which it is exact. -/
def sumForm (s : State) (d a : Nat) (m : BitVec 32) (v : FMap Lane) : VectorForm :=
  let r := treeSum s v m s.me.L
  lane0Form false true d [a] m
    (reduced s v m r.1 (.zero false), r.2,
      if r.2 &&& flNX = 0 then 0
      else ((List.range 16).find? fun c => decide ((treeSum s v m (classL c)).2 &&& flNX = 0)).getD 16)

/-- fredmax and fredmin. -/
def extremeForm (s : State) (d a : Nat) (m : BitVec 32) (v : FMap Lane) (f : Val → Val → Val) (none_ : Val) : VectorForm :=
  let r := pairTree (fun x y => (f x y, if x.snan || y.snan then flNV else 0)) (activeLeaf s v m) 5 0
  lane0Form false false d [a] m (reduced s v m r.1 none_, r.2, 0)

/-- NV for a signalling operand. -/
def sigFlag (x y : Val) : Flags := if x.snan || y.snan then flNV else 0

/-- The mask of a form with a mask bit: k1, or every lane. -/
def maskOrAll (s : State) (m : BitVec 1) : BitVec 32 := if m = 1 then s.me.mask 1 else allLanes

/-- What vbcast and vins place: the low bits of a scalar, or the binary64 value that it holds. -/
def placedLane (s : State) (cv : BitVec 3) (w : Word) : LaneOut :=
  if cv = 0 then (BitVec.ofNat 76 (w.toNat % 2 ^ min (16 + 4 * s.me.vclass) 64), 0, 0)
  else s.me.roundLane (plainDecode 64 52 w.toNat).toRes

/-- A NaN becomes the canonical one. -/
def quieted (x y : Val) : Val := if x.isNan then .nan false else y

/-- The form of each vector instruction with a vector destination in a state, with operands given by register number. -/
def vectorForm (i : Instr) (s : State) (v : Nat → FMap Lane) : Option VectorForm :=
  let kk (k : BitVec 3) : BitVec 32 := s.me.mask k.toNat
  let x (r : Nat) (j : Nat) : Val := laneVal s.me.vclass (v r) j
  let int4 (d a b : BitVec 6) (k : BitVec 3) (f : BitVec 32 → BitVec 32 → Int) : Option VectorForm :=
    some (intForm 4 (kk k) d.toNat a.toNat b.toNat v f)
  let int2 (d b : BitVec 5) (m : BitVec 1) (f : BitVec 32 → BitVec 32 → Int) : Option VectorForm :=
    some (intForm 2 (maskOrAll s m) d.toNat d.toNat b.toNat v f)
  let flt4 (d a b : BitVec 6) (k : BitVec 3) (f : Val → Val → Res) : Option VectorForm :=
    some (roundForm 4 (kk k) s d.toNat [a.toNat, b.toNat] fun j => f (x a.toNat j) (x b.toNat j))
  let flt2 (d b : BitVec 5) (m : BitVec 1) (f : Val → Val → Res) : Option VectorForm :=
    some (roundForm 2 (maskOrAll s m) s d.toNat [d.toNat, b.toNat] fun j => f (x d.toNat j) (x b.toNat j))
  let fused (d a b c : BitVec 6) (k1 : BitVec 1) (f : Val → Val → Val → Res) : Option VectorForm :=
    some (roundForm 4 (maskOrAll s k1) s d.toNat [a.toNat, b.toNat, c.toNat] fun j =>
      f (x a.toNat j) (x b.toNat j) (x c.toNat j))
  let best (size : Nat) (m : BitVec 32) (d a b : Nat) (f : Val → Val → Val) : Option VectorForm :=
    some (pickForm size m s d [a, b] fun j => (f (x a j) (x b j), sigFlag (x a j) (x b j)))
  let sign (size : Nat) (m : BitVec 32) (d b : Nat) (f : Val → Val) : Option VectorForm :=
    some (pickForm size m s d [b] fun j => (quieted (x b j) (f (x b j)), sigFlag (x b j) (x b j)))
  let rnd := s.me.rnd
  match i with
  | .vadd d a b k => int4 d a b k fun p q => p.toNat + q.toNat
  | .vsub d a b k => int4 d a b k fun p q => p.toNat - q.toNat
  | .vmul d a b k => int4 d a b k fun p q => p.toNat * q.toNat
  | .vmulh d a b k => int4 d a b k fun p q => p.toInt * q.toInt / 2 ^ 32
  | .vand d a b k => int4 d a b k fun p q => ((p.toNat &&& q.toNat : Nat) : Int)
  | .vor d a b k => int4 d a b k fun p q => ((p.toNat ||| q.toNat : Nat) : Int)
  | .vxor d a b k => int4 d a b k fun p q => ((p.toNat ^^^ q.toNat : Nat) : Int)
  | .vandn d a b k => int4 d a b k fun p q => ((p.toNat &&& (2 ^ 32 - 1 - q.toNat) : Nat) : Int)
  | .vshl d a b k => int4 d a b k fun p q => p.toNat * 2 ^ (q.toNat % 32)
  | .vshr d a b k => int4 d a b k fun p q => p.toNat / 2 ^ (q.toNat % 32)
  | .vsar d a b k => int4 d a b k fun p q => p.toInt / 2 ^ (q.toNat % 32)
  | .vmin d a b k => int4 d a b k fun p q => min p.toInt q.toInt
  | .vmax d a b k => int4 d a b k fun p q => max p.toInt q.toInt
  | .vminu d a b k => int4 d a b k fun p q => ((min p.toNat q.toNat : Nat) : Int)
  | .vmaxu d a b k => int4 d a b k fun p q => ((max p.toNat q.toNat : Nat) : Int)
  | .cVadd d b m => int2 d b m fun p q => p.toNat + q.toNat
  | .cVsub d b m => int2 d b m fun p q => p.toNat - q.toNat
  | .cVand d b m => int2 d b m fun p q => ((p.toNat &&& q.toNat : Nat) : Int)
  | .cVor d b m => int2 d b m fun p q => ((p.toNat ||| q.toNat : Nat) : Int)
  | .cVxor d b m => int2 d b m fun p q => ((p.toNat ^^^ q.toNat : Nat) : Int)
  | .cVshl d b m => int2 d b m fun p q => p.toNat * 2 ^ (q.toNat % 32)
  | .cVshr d b m => int2 d b m fun p q => p.toNat / 2 ^ (q.toNat % 32)
  | .cVmin d b m => int2 d b m fun p q => min p.toInt q.toInt
  | .cVmax d b m => int2 d b m fun p q => max p.toInt q.toInt
  | .vsel d a b k => some (moveForm allLanes d.toNat [a.toNat, b.toNat] (fun j => [j]) fun j =>
      if (kk k).getLsbD j then laneOf (v a.toNat) j else laneOf (v b.toNat) j)
  | .vredadd d a k =>
    let js := (List.range 32).filter fun j => (kk k).getLsbD j
    some (lane0Form true false d.toNat [a.toNat] (kk k)
      (laneOfInt ((js.map fun j => (low32 (v a.toNat) j).toInt).sum), 0, 0))
  | .vredmin d a k =>
    let js := (List.range 32).filter fun j => (kk k).getLsbD j
    some (lane0Form true false d.toNat [a.toNat] (kk k)
      (laneOfInt ((js.map fun j => (low32 (v a.toNat) j).toInt).foldr min (2 ^ 31 - 1)), 0, 0))
  | .vredmax d a k =>
    let js := (List.range 32).filter fun j => (kk k).getLsbD j
    some (lane0Form true false d.toNat [a.toNat] (kk k)
      (laneOfInt ((js.map fun j => (low32 (v a.toNat) j).toInt).foldr max (-(2 ^ 31))), 0, 0))
  | .vperm d a b k =>
    let src (j : Nat) : Nat := (laneOf (v b.toNat) j).toNat % 32
    some { moveForm (kk k) d.toNat [a.toNat, b.toNat] (fun j => [src j]) (fun j => laneOf (v a.toNat) (src j)) with
      act := fun r => (if r = a.toNat then sourceLanes (kk k) (fun j => [src j]) else 0) ||| if r = b.toNat then kk k else 0 }
  | .vslideup d a b k =>
    let n := (s.me.reg b.toNat).toNat
    some (moveForm (kk k) d.toNat [a.toNat] (fun j => if n ≤ j then [j - n] else []) fun j =>
      if n ≤ j then laneOf (v a.toNat) (j - n) else 0)
  | .vslidedn d a b k =>
    let n := (s.me.reg b.toNat).toNat
    some (moveForm (kk k) d.toNat [a.toNat] (fun j => if j + n ≤ 31 then [j + n] else []) fun j =>
      if j + n ≤ 31 then laneOf (v a.toNat) (j + n) else 0)
  | .vmov d a k => some (moveForm (kk k) d.toNat [a.toNat] (fun j => [j]) fun j => laneOf (v a.toNat) j)
  | .vbcast d a cv => some
      { size := 4, ints := false, reads := [], act := fun _ => allLanes, dest := d.toNat, mask := allLanes, exact := cv ≠ 0
        lane := fun _ => placedLane s cv (s.me.reg a.toNat) }
  | .vins d a b cv => some
      { size := 4, ints := false, reads := [], act := fun _ => allLanes, dest := d.toNat, exact := cv ≠ 0
        mask := BitVec.ofNat 32 (2 ^ ((s.me.reg b.toNat).toNat % 32))
        lane := fun _ => placedLane s cv (s.me.reg a.toNat) }
  | .fadd d a b k => flt4 d a b k (addRes rnd)
  | .fsub d a b k => flt4 d a b k fun p q => addRes rnd p q.neg
  | .fmul d a b k => flt4 d a b k mulRes
  | .fdiv d a b k => flt4 d a b k divRes
  | .fsqrt d b k => some (roundForm 4 (kk k) s d.toNat [b.toNat] fun j => sqrtRes (x b.toNat j))
  | .fscl d a b k => some (roundForm 4 (kk k) s d.toNat [a.toNat] fun j =>
      scaleRes (x a.toNat j) (max (-8192) (min 8191 (s.me.reg b.toNat).toInt)))
  | .fround d b k => some
      { size := 4, ints := false, reads := [b.toNat], act := fun _ => kk k, dest := d.toNat, mask := kk k, exact := true
        lane := fun j =>
          let r := froundVal rnd s.me.L (x b.toNat j)
          (encodeLane s.me.vclass r.1, r.2, 16) }
  | .fmin d a b k => best 4 (kk k) d.toNat a.toNat b.toNat fminVal
  | .fmax d a b k => best 4 (kk k) d.toNat a.toNat b.toNat fmaxVal
  | .fabs d b k => sign 4 (kk k) d.toNat b.toNat fun p => if p.sign then p.neg else p
  | .fneg d b k => sign 4 (kk k) d.toNat b.toNat Val.neg
  | .fclass d b k => some
      { size := 4, ints := false, reads := [b.toNat], act := fun _ => kk k, dest := d.toNat, mask := allLanes, exact := false
        lane := fun j => (if (kk k).getLsbD j then BitVec.ofNat 76 (classBit (x b.toNat j)) else 0, 0, 0) }
  | .fcvtFi d a k => some
      { size := 4, ints := true, reads := [a.toNat], act := fun _ => kk k, dest := d.toNat, mask := kk k, exact := true
        lane := fun j =>
          let r := toInt32 rnd (x a.toNat j)
          (laneOfInt r.1, r.2, if r.2 &&& flNX = 0 then 0 else 16) }
  | .fcvtIf d a k => some
      { size := 4, ints := true, reads := [a.toNat], act := fun _ => kk k, dest := d.toNat, mask := kk k, exact := true
        lane := fun j => s.me.roundLane (intVal (low32 (v a.toNat) j).toInt).toRes }
  | .fredsum d a k => some (sumForm s d.toNat a.toNat (kk k) (v a.toNat))
  | .fredmax d a k => some (extremeForm s d.toNat a.toNat (kk k) (v a.toNat) fmaxVal (.inf true))
  | .fredmin d a k => some (extremeForm s d.toNat a.toNat (kk k) (v a.toNat) fminVal (.inf false))
  | .fdot d a b k =>
    let js := (List.range 32).filter fun j => (kk k).getLsbD j
    some (lane0Form false true d.toNat [a.toNat, b.toNat]
      (kk k) (s.me.roundLane (dotRes (rnd = 2) (js.map fun j => (x a.toNat j, x b.toNat j)))))
  | .ffma d a b c k1 => fused d a b c k1 (fmaRes rnd)
  | .ffms d a b c k1 => fused d a b c k1 fun p q r => fmaRes rnd p q r.neg
  | .fnma d a b c k1 => fused d a b c k1 fun p q r => fmaRes rnd p.neg q r
  | .cFadd d b m => flt2 d b m (addRes rnd)
  | .cFsub d b m => flt2 d b m fun p q => addRes rnd p q.neg
  | .cFmul d b m => flt2 d b m mulRes
  | .cFmin d b m => best 2 (maskOrAll s m) d.toNat d.toNat b.toNat fminVal
  | .cFmax d b m => best 2 (maskOrAll s m) d.toNat d.toNat b.toNat fmaxVal
  | .cFneg d b m => sign 2 (maskOrAll s m) d.toNat b.toNat Val.neg
  | .cFabs d b m => sign 2 (maskOrAll s m) d.toNat b.toNat fun p => if p.sign then p.neg else p
  | _ => none

/-- The vector operands of an instruction pass the checks of R218 and are not bound to streams. -/
def windowHolds (x : Slot) (ints : Bool) (regs : List Nat) : Prop :=
  x.binds = [] ∧ x.vcount ≠ 0 ∧ (∀ r ∈ regs, r < x.vcount) ∧ (ints = true → 4 ≤ x.vclass)

/-- Exact mode lets a result with these flags through (R223). -/
def exactAllows (x : Slot) (exact : Bool) (fl : Flags) : Prop := x.exact = true → exact = true → fl &&& flNX = 0

/-- The active lanes of the destination hold the results, every other lane of every register as before; the flags join
FLG; the pc goes on; nothing else changes. -/
def wroteLanes (s s' : State) (f : VectorForm) : Prop :=
  (∀ r j, j < 32 → laneOf (s'.me.vreg r) j =
    if r = f.dest ∧ f.mask.getLsbD j = true then (f.lane j).1 else laneOf (s.me.vreg r) j) ∧
  s'.me.flg = s.me.flg ||| f.flags ∧ s'.me.pc = s.me.pc + BitVec.ofNat 64 f.size ∧
  { s'.me with vregs := s.me.vregs, flg := s.me.flg, pc := s.me.pc } = s.me ∧
  onlySlot s.cur s s' ∧ bytesKept s s'

/-- A compare: whether it needs integer lanes, the vector registers that it reads, the mask register that it writes, the
mask of active lanes, its test and the lanes that set NV. -/
structure CompareForm where
  ints : Bool
  reads : List Nat
  dest : Nat
  mask : BitVec 32
  holds : Nat → Bool
  invalid : Nat → Bool

/-- The form of each compare. -/
def compareForm (i : Instr) (s : State) (v : Nat → FMap Lane) : Option CompareForm :=
  let int (d a b : BitVec 6) (k : BitVec 3) (p : BitVec 32 → BitVec 32 → Bool) : Option CompareForm :=
    some { ints := true, reads := [a.toNat, b.toNat], dest := d.toNat, mask := s.me.mask k.toNat
           holds := fun j => p (low32 (v a.toNat) j) (low32 (v b.toNat) j), invalid := fun _ => false }
  let flt (d a b : BitVec 6) (k : BitVec 3) (quiet : Bool) (p : Val → Val → Bool) : Option CompareForm :=
    let x (j : Nat) := laneVal s.me.vclass (v a.toNat) j
    let y (j : Nat) := laneVal s.me.vclass (v b.toNat) j
    some { ints := false, reads := [a.toNat, b.toNat], dest := d.toNat, mask := s.me.mask k.toNat
           holds := fun j => p (x j) (y j)
           invalid := fun j => if quiet then (x j).snan || (y j).snan else (x j).isNan || (y j).isNan }
  match i with
  | .vcmpEq d a b k => int d a b k fun p q => decide (p.toNat = q.toNat)
  | .vcmpNe d a b k => int d a b k fun p q => decide (p.toNat ≠ q.toNat)
  | .vcmpLt d a b k => int d a b k fun p q => decide (p.toInt < q.toInt)
  | .vcmpGe d a b k => int d a b k fun p q => decide (q.toInt ≤ p.toInt)
  | .vcmpLtu d a b k => int d a b k fun p q => decide (p.toNat < q.toNat)
  | .vcmpGeu d a b k => int d a b k fun p q => decide (q.toNat ≤ p.toNat)
  | .fcmpEq d a b k => flt d a b k true Val.eqv
  | .fcmpLt d a b k => flt d a b k false Val.lt
  | .fcmpLe d a b k => flt d a b k false fun p q => Val.lt p q || Val.eqv p q
  | .fcmpUn d a b k => flt d a b k true fun p q => p.isNan || q.isNan
  | _ => none

/-- Mask register and value of the mask instructions. -/
def maskValue (i : Instr) (x : Slot) : Option (Nat × BitVec 32) :=
  match i with
  | .kand d a b => some (d.toNat, x.mask a.toNat &&& x.mask b.toNat)
  | .kor d a b => some (d.toNat, x.mask a.toNat ||| x.mask b.toNat)
  | .kxor d a b => some (d.toNat, x.mask a.toNat ^^^ x.mask b.toNat)
  | .knot d a => some (d.toNat, ~~~x.mask a.toNat)
  | .kfs d a => some (d.toNat, BitVec.ofNat 32 (x.reg a.toNat).toNat)
  | _ => none

/-- One mask register takes a value (none does when it is k0), flags join FLG, four bytes on; nothing else changes. -/
def wroteMask (s s' : State) (d : Nat) (v : BitVec 32) (fl : Flags) : Prop :=
  (∀ r, s'.me.mask r = if r = d ∧ r ≠ 0 then v else s.me.mask r) ∧ s'.me.flg = s.me.flg ||| fl ∧
  s'.me.pc = s.me.pc + 4 ∧ { s'.me with masks := s.me.masks, flg := s.me.flg, pc := s.me.pc } = s.me ∧
  onlySlot s.cur s s' ∧ bytesKept s s'

/-- The window accepts the registers, bound or not, and integer lanes if they are needed. -/
def windowTakes (x : Slot) (ints : Bool) (regs : List Nat) : Prop :=
  x.vcount ≠ 0 ∧ (∀ r ∈ regs, r < x.vcount) ∧ (ints = true → 4 ≤ x.vclass)

/-- Bindings of distinct engines; every bound operand has its head vector, a bound destination has room (R183, R325). -/
def streamsReady (s : State) (reads writes : List Nat) : Prop :=
  (s.me.binds.map Prod.snd).Nodup ∧
  (∀ r ∈ reads, ∀ e st, s.boundStream s.cur r = some (e, st) → st.rcd.dir = 0 ∧ st.buf ≠ []) ∧
  (∀ r ∈ writes, ∀ e st, s.boundStream s.cur r = some (e, st) → st.rcd.dir ≠ 0 ∧ st.fault = none ∧ st.buf.length < 8)

/-- Flags of the conversions of the head vectors that an instruction pops, in the lanes of each register that it examines
(R30, R34). -/
def headFlags (s : State) (reads : List Nat) (act : Nat → BitVec 32) : Flags :=
  reads.eraseDups.foldl (fun a r =>
    match s.boundStream s.cur r with
    | some (_, st) =>
      match st.buf with
      | v :: _ => a ||| flagsOver (lanesOf (act r)) (s.me.popLane st.rcd.fmt v)
      | [] => a
    | none => a) 0

/-- The greatest class that an inexact one of those conversions needs. -/
def headNeed (s : State) (reads : List Nat) (act : Nat → BitVec 32) : Nat :=
  reads.eraseDups.foldl (fun a r =>
    match s.boundStream s.cur r with
    | some (_, st) =>
      match st.buf with
      | v :: _ => (lanesOf (act r)).foldl (fun a j =>
          let o := s.me.popLane st.rcd.fmt v j
          if o.2.1 &&& flNX = 0 then a else max a o.2.2) a
      | [] => a
    | none => a) 0

/-- Exact mode lets operands with conversion flags h and a result through (R34, R223). -/
def exactTakes (x : Slot) (h : Flags) (exact : Bool) (fl : Flags) : Prop :=
  x.exact = true → h &&& flNX = 0 ∧ (exact = true → fl &&& flNX = 0)

/-- The read streams bound to some registers are popped once. -/
def popped (s s' : State) (reads : List Nat) : Prop :=
  ∀ r ∈ reads, ∀ e st, s.boundStream s.cur r = some (e, st) →
    FMap.find (s'.coreAt s.myCore).streams e = some { st with buf := st.buf.drop 1, vecs := st.vecs + 1 }

/-- The write stream bound to a register has one more vector: the active lanes and +0 in the others (R183, R219). -/
def appended (s s' : State) (d : Nat) (m : BitVec 32) (f : Nat → Lane) : Prop :=
  ∀ e st, s.boundStream s.cur d = some (e, st) →
    FMap.find (s'.coreAt s.myCore).streams e = some { st with
      vecs := st.vecs + 1
      buf := st.buf ++ [{ lanes := mkVec fun j => if m.getLsbD j then f j else 0
                          cls := (s.slotAt st.tid).vclass, aux := (s.slotAt st.tid).rnd }] }

/-- An instruction without a register result has popped its operands: flags join FLG, four bytes on; every other slot and
every byte is as before. -/
def poppedOn (s s' : State) (reads : List Nat) (fl : Flags) : Prop :=
  s'.me = { s.me with flg := s.me.flg ||| fl, pc := s.me.pc + 4 } ∧ (∀ u, u ≠ s.cur → s'.slotAt u = s.slotAt u) ∧
  bytesKept s s' ∧ popped s s' reads

/-! ### Vector accesses (R312 to R321, R353, R354) -/

/-- A vector load or store: vector register, mask field, type, index registers, address of each lane. -/
structure LaneAccess where
  v : Nat
  k : Nat
  ty : Nat
  idx : List Nat
  addr : Nat → Nat

/-- Bytes of an element by type: I32, F32, F64, BF16, I8, I16, U8, U16 (R66). -/
def elemBytes (ty : Nat) : Nat := [4, 4, 8, 2, 1, 2, 1, 2].getD ty 0
/-- Integer types, which need integer lanes. -/
def intType (ty : Nat) : Bool := ty = 0 || 4 ≤ ty

/-- The address of lane j in modes 0, 1 and 2. -/
def unitPlace (s : State) (b : BitVec 5) (n j : Nat) : Nat := ((s.reg b).toNat + j * n) % 2 ^ 64
def stridePlace (s : State) (b x : BitVec 5) (j : Nat) : Nat :=
  (((s.reg b).toNat + j * (s.reg x).toInt : Int) % 2 ^ 64).toNat
def indexPlace (s : State) (b x : BitVec 5) (n j : Nat) : Nat :=
  (((s.reg b).toNat + (low32 (s.vin x.toNat) j).toInt * n : Int) % 2 ^ 64).toNat

/-- The loads and the stores. -/
def vldForm (i : Instr) (s : State) : Option LaneAccess :=
  match i with
  | .vldUnit v b k ty => some
      { v := v.toNat, k := k.toNat, ty := ty.toNat, idx := [], addr := unitPlace s b (elemBytes ty.toNat) }
  | .vldStrided v b x k ty => some { v := v.toNat, k := k.toNat, ty := ty.toNat, idx := [], addr := stridePlace s b x }
  | .vldGather v b x k ty => some
      { v := v.toNat, k := k.toNat, ty := ty.toNat, idx := [x.toNat], addr := indexPlace s b x (elemBytes ty.toNat) }
  | _ => none
def vstForm (i : Instr) (s : State) : Option LaneAccess :=
  match i with
  | .vstUnit v b k ty => some
      { v := v.toNat, k := k.toNat, ty := ty.toNat, idx := [], addr := unitPlace s b (elemBytes ty.toNat) }
  | .vstStrided v b x k ty => some { v := v.toNat, k := k.toNat, ty := ty.toNat, idx := [], addr := stridePlace s b x }
  | .vstScatter v b x k ty => some
      { v := v.toNat, k := k.toNat, ty := ty.toNat, idx := [x.toNat], addr := indexPlace s b x (elemBytes ty.toNat) }
  | _ => none

/-- The core's wide queue takes one more entry of the current slot at once: fewer than 32, fewer than 8 of the slot
(R195). -/
def queueRoom (s : State) : Prop :=
  (s.coreAt s.myCore).wideq.length < 32 ∧ ((s.coreAt s.myCore).wideq.filter fun w => w.tid = s.cur).length < 8

/-- Vector data is on its way to register v, with results f for the active lanes and flags h of its operands: the newest
entry of the core's wide queue (R195, R246). Nothing else of the slot changes but the pc, no other slot and no byte of memory does. -/
def loadedWith (s s' : State) (v : Nat) (m : BitVec 32) (f : Nat → LaneOut) (h : Flags) : Prop :=
  s'.me.pc = s.me.pc + 4 ∧ { s'.me with pc := s.me.pc } = s.me ∧ (∀ u, u ≠ s.cur → s'.slotAt u = s.slotAt u) ∧
  bytesKept s s' ∧
  ∃ e, (s'.coreAt s.myCore).wideq = (s.coreAt s.myCore).wideq ++ [e] ∧ e.tid = s.cur ∧ e.vd = v ∧
    e.cls = s.me.vclass ∧ e.act = m ∧ e.flags = flagsOver (lanesOf m) f ||| h ∧
    ∀ j, j < 32 → m.getLsbD j = true → laneOf e.lanes j = (f j).1
/-- The same for operands without flags. -/
def loadedLanes (s s' : State) (v : Nat) (m : BitVec 32) (f : Nat → LaneOut) : Prop := loadedWith s s' v m f 0

/-- FLG takes flags and the slot goes on four bytes; nothing else changes. -/
def flaggedOn (s s' : State) (fl : Flags) : Prop :=
  s'.me = { s.me with flg := s.me.flg ||| fl, pc := s.me.pc + 4 } ∧ onlySlot s.cur s s' ∧ bytesKept s s'

/-- The operand word of described accesses: expected FMT in <7:0>, first element in <63:8> (R316). -/
def wantedFmt (w : Word) : Nat := w.toNat % 256
def firstElem (w : Word) : Nat := w.toNat / 256

/-- Blocks that some lanes reach, each once, and the address of a block. -/
def blocksOf (f i0 : Nat) (js : List Nat) : List Nat := (js.map fun j => (i0 + j) / fmtK f).eraseDups
def blockPlace (base : Word) (n : Nat) : Nat := (base.toNat / 64 * 64 + 64 * n) % 2 ^ 64

/-- The value of element slot n of block k in a whole-block store: that of the lane that reaches it, if it is active. -/
def slotValue (s : State) (v : Nat) (m : BitVec 32) (f i0 k n : Nat) : Val :=
  match (List.range 32).find? fun j => (i0 + j) / fmtK f = k && (i0 + j) % fmtK f = n with
  | some j => if m.getLsbD j then laneVal s.me.vclass (s.vin v) j else .zero false
  | none => .zero false

/-- The bytes that the blocks of the 32 elements from the first on take: addresses and lengths. -/
def blockBytes (w base : Word) : List (Nat × Nat) :=
  (blocksOf (wantedFmt w) (firstElem w) (List.range 32)).map fun n => (blockPlace base n, 64)

/-- The bytes that an instruction reads or writes, as addresses and lengths: those of the instructions that first let earlier
loads read them (R306, R385, log 89). A masked access names the bytes of all its lanes. -/
def accessSpans (i : Instr) (s : State) : Option (List (Nat × Nat)) :=
  let s1 := s.drainCore s.myCore
  match storeForm i, amoForm i, accsForm i, (vstForm i s1).orElse fun _ => vldForm i s1 with
  | some (_, a, imm, n), _, _, _ => some [((accessAddr s a imm n).toNat, n)]
  | _, some (_, _, a, _, _, _, sz), _, _ => some [((s.reg a).toNat, if sz = 1 then 8 else 4)]
  | _, _, some (a, _, n, _), _ => if (s.reg a).toNat % n = 0 then some [((s.reg a).toNat, n)] else none
  | _, _, _, some a => some ((List.range 32).map fun j => (a.addr j, elemBytes a.ty))
  | none, none, none, none =>
    match i with
    | .vldd _ b x _ => some (blockBytes (s.reg x) (s.reg b))
    | .vstd _ b x _ => some (blockBytes (s.reg x) (s.reg b))
    | .vstdp _ b x _ => some (blockBytes (s.reg x) (s.reg b))
    | .accD _ b x _ => some (blockBytes (s.reg x) (s.reg b))
    | .vqntPeb7 _ b => some [(blockPlace (s.reg b) 0, 64)]
    | .vqntPeb3 _ b => some [(blockPlace (s.reg b) 0, 64)]
    | .acc _ b _ ty => some [((s.reg b).toNat, 32 * if ty.toNat = 0 ∨ ty.toNat = 2 then 4 else 8)]
    | .sbind _ a => some [((s.reg a).toNat, 64)]
    | .lde _ a _ => some [((s.reg a).toNat, 8)]
    | .ldeTry _ a _ => some [((s.reg a).toNat, 8)]
    | .barWait a _ => some [((s.reg a).toNat, 16)]
    | .barWaitTry _ a _ => some [((s.reg a).toNat, 16)]
    | .mldt _ b stride tag => some ((List.range 32).map fun r => (s.rowAddr b stride tag.toNat r, 128))
    | .mstt _ b stride tag => some ((List.range 32).map fun r => (s.rowAddr b stride tag.toNat r, 128))
    | .barInit a _ => some [((s.reg a).toNat, 16)]
    | .barExp a _ => some [((s.reg a).toNat, 16)]
    | .dtake _ a _ => some [((s.reg a).toNat, 64)]
    | .dtakeTry _ a _ => some [((s.reg a).toNat, 64)]
    | .ibxRecv _ a => some [((s.reg a).toNat, 80)]
    | .ibxTry _ a => some [((s.reg a).toNat, 80)]
    | _ => none

/-- An instruction of the current slot that reads or writes bytes acts in s0: earlier loads that have still to read one of
them have read. Where none has, s0 is s. -/
def actsFrom (i : Instr) (s s0 : State) : Prop := ∃ rs, accessSpans i s = some rs ∧ mayAccess s rs ∧ s0 = behindReads s rs

/-- Places of some blocks. -/
def blockPlaces (s : State) (acc : Nat) (base : Word) (ks : List Nat) : Run (List (Nat × Loc)) :=
  Run.mapList (fun k s => (s.blockLoc s.cur acc cFORMAT (blockPlace base k)).bind fun l s2 => .ok (k, l) s2) ks s

/-- Stores of blocks in order. -/
def postAll (s : State) (bs : List (Loc × Block)) : State := bs.foldl (fun s b => s.postStore s.cur b.1 b.2) s

/-- An FMT that vldd accepts, and one that acc.d accepts (R317). -/
def loadableFmt (f : Nat) : Prop := fmtIsVlf f = true ∨ fmtIsInt f = true ∨ f = fmtPEB7 ∨ f = fmtPEB3 ∨ f = fmtXACC
def addableFmt (f : Nat) : Prop := fmtIsVlf f = true ∨ fmtIsInt f = true ∨ f = fmtXACC

/-- The value is a NaN or an infinity, which an integer target does not take. -/
def unfit (v : Val) : Bool := v.isNan || v = .inf false || v = .inf true

/-! ### Streams and windows (R180, R181, R183, R244, R245, R271, R323, R327) -/

/-- A stream record that sbind of register v accepts in a slot (R183, R323). -/
def bindable (x : Slot) (v : Nat) (b : List Byte) : Prop :=
  let r := streamRecOf b
  v < x.vcount ∧ FMap.find x.binds v = none ∧ x.binds.length < 4 ∧ badStreamFields b = [] ∧
  (r.desc = false → intType r.fmt = true → 4 ≤ x.vclass) ∧
  (r.desc = true → fmtIsVlf r.fmt = true ∨ fmtIsInt r.fmt = true ∨ r.fmt = fmtPEB7 ∨ r.fmt = fmtPEB3) ∧
  (r.desc = true → r.dir = 1 → fmtIsVlf r.fmt = true ∧ r.dims = 1 ∧ r.stride.headD 0 = 1)

/-- An engine that has just been bound. -/
def newStream (t v : Nat) (r : StreamRec) : Stream :=
  { tid := t, v := v, rcd := r, pos := 0, vecs := 0, buf := [], fault := none, waiting := none, part := [] }

/-- The status of a binding, field by field (R327). -/
def boundStatus (e : Nat) (st : Stream) : Nat :=
  min st.vecs (2 ^ 32 - 1) + 2 ^ 32 * st.buf.length + 2 ^ 40 + 2 ^ 41 * st.rcd.dir + 2 ^ 42 * b2n st.rcd.desc +
    2 ^ 43 * b2n (decide (st.rcd.total ≤ 32 * st.vecs)) + 2 ^ 44 * b2n (st.fault.isSome && !st.told) +
    2 ^ 45 * b2n (match st.waiting with | some (.block _) => true | _ => false) + 2 ^ 48 * e

/-- Count and class that a vwin asks for, and the count of a twin. -/
def windowAsked (i : Instr) (s : State) : Option (Nat × Nat) :=
  match i with
  | .vwinImm c n => some (c.toNat, n.toNat)
  | .vwinReg d a =>
    if (s.me.reg d.toNat).toNat ≤ 64 ∧ (s.me.reg a.toNat).toNat ≤ 15
    then some ((s.me.reg d.toNat).toNat, (s.me.reg a.toNat).toNat) else none
  | _ => none
def tilesAsked (i : Instr) (s : State) : Option Nat :=
  match i with
  | .twinImm c => some c.toNat
  | .twinReg a => if s.me.tcount ≠ 0 ∧ (s.reg a).toNat ≤ 16 then some (s.reg a).toNat else none
  | _ => none

/-- Bytes of the pool that a window takes (R180). -/
def windowBytes (c n : Nat) : Nat := c * (64 + 16 * n)

/-- Pool bytes that no slot of the core holds. -/
def freeBytes (s : State) : Nat :=
  2 ^ 18 - ((List.range 16).map fun i =>
    windowBytes (s.slotAt (s.myCore * 16 + i)).vcount (s.slotAt (s.myCore * 16 + i)).vclass).sum

/-- The vector window can change at once to c registers of class n: its bindings stay inside, the pool covers it, no earlier
request waits, and exact mode lets the conversion through (R180, R245). -/
def windowServed (s : State) (c n : Nat) : Prop :=
  (∀ b ∈ s.me.binds, b.1 < c) ∧ (∀ w ∈ s.waits, w.place ≠ .pool s.myCore) ∧
  (windowBytes s.me.vcount s.me.vclass < windowBytes c n →
    windowBytes c n ≤ freeBytes s + windowBytes s.me.vcount s.me.vclass) ∧
  (c ≠ 0 → (s.orderVwin s.cur).vwinPxh s.cur c n = none)

/-- The tile window can change at once to c tiles (R271). -/
def tilesServed (s : State) (c : Nat) : Prop :=
  (∀ w ∈ s.waits, w.place ≠ .pool s.myCore) ∧ (∀ j, c ≤ j → j < s.me.tcount → (s.tile s.cur j).holds = []) ∧
  (∀ j, j < s.me.tcount → FMap.find s.me.tmap j ≠ none) ∧
  (s.me.tcount < c → (s.coreAt s.myCore).tas.length + (c - s.me.tcount) ≤ 64)

/-! ### Tiles (R249 to R272) -/

/-- Element (i, j) of a tile as a value and as bits. -/
def tileVal (x : Tile) (i j : Nat) : Val := valAt x.vals i j
def tileRaw (x : Tile) (i j : Nat) : Nat := rawAt x.raws i j

/-- A matrix instruction that writes one tile: the tile, the other tiles that it names, whether it accepts their tags, the
tag of the result, its elements with their flags, and the flags of its operands' conversions. -/
structure MatrixForm where
  dest : Nat
  named : List Nat
  accepts : Bool
  tag : Nat
  elem : Nat → Nat → Nat × Flags
  extra : Flags

/-- Rows of an element function. -/
def MatrixForm.rows (f : MatrixForm) : List (List (Nat × Flags)) :=
  (List.range 32).map fun i => (List.range (tagCols f.tag)).map (f.elem i)

/-- All flags of a form. -/
def MatrixForm.flags (f : MatrixForm) : Flags := gridFlags f.rows ||| f.extra

/-- The tag of C for operands of a tag. -/
def sumTag (g : Nat) : Nat := if g = tI8 then tACCI32 else tACC32

/-- The form of each matrix instruction in a state. -/
def matrixForm (i : Instr) (s : State) : Option MatrixForm :=
  let tl (t : Nat) : Tile := s.tile s.cur t
  let g (t : Nat) : Nat := (tl t).tag
  -- an operand as the multiplier sees it: ACC32 rounded to class min(PRC.p, 5)
  let op (t i k : Nat) : Val := if g t = tACC32 then (roundOperand (s.me.prc.toNat % 16) (tileVal (tl t) i k)).1 else tileVal (tl t) i k
  let sums (d a : Nat) (i j K : Nat) (pair : Nat → Val × Val) : Nat × Flags :=
    rowProduct (decide (g a ≠ tI8)) (tileRaw (tl d) i j) ((List.range K).map pair)
  let both (a b : Nat) : Flags := gridFlags (s.operand a) ||| gridFlags (s.operand b)
  match i with
  | .mma d a b => some
      { dest := d.toNat, named := [a.toNat, b.toNat], tag := sumTag (g a.toNat), extra := both a.toNat b.toNat
        accepts := g a.toNat ≠ tACCI32 ∧ g b.toNat = g a.toNat ∧ g d.toNat = sumTag (g a.toNat)
        elem := fun i j => sums d.toNat a.toNat i j (tagCols (g a.toNat)) fun k => (op a.toNat i k, op b.toNat j k) }
  | .mmaDc d a b h => some
      { dest := d.toNat, named := [a.toNat, b.toNat], tag := tACC32
        extra := gridFlags ((tl a.toNat).vals.map fun row => row.map downConvert)
        accepts := g a.toNat = tACC32 ∧ g b.toNat = tBF16 ∧ g d.toNat = tACC32
        elem := fun i j => sums d.toNat a.toNat i j 32 fun k =>
          ((downConvert (tileVal (tl a.toNat) i k)).1, tileVal (tl b.toNat) j (32 * h.toNat + k)) }
  | .mmab d a b part =>
    let parts := if g a.toNat = tBF16 then 2 else if g a.toNat = tI8 then 4 else if g a.toNat = tACC32 then 1 else 0
    let o := 32 * part.toNat
    let cut (t : Nat) := (s.operand t).map fun row => (row.drop o).take 32
    some
      { dest := d.toNat, named := [a.toNat, b.toNat], tag := sumTag (g a.toNat)
        extra := gridFlags (cut a.toNat) ||| gridFlags (cut b.toNat)
        accepts := parts ≠ 0 ∧ g b.toNat = g a.toNat ∧ g d.toNat = sumTag (g a.toNat) ∧ part.toNat < parts
        elem := fun i j => sums d.toNat a.toNat i j 8 fun k =>
          (op a.toNat i (o + 8 * (j / 8) + k), op b.toNat (8 * (i / 8) + j % 8) (o + 8 * (j / 8) + k)) }
  | .mmas d a b c =>
    let n := tagCols (g a.toNat)
    some
      { dest := d.toNat, named := [a.toNat, b.toNat, b.toNat + 1, c.toNat], tag := sumTag (g a.toNat), extra := 0
        accepts := g a.toNat ≠ tACCI32 ∧ g a.toNat ≠ tACC32 ∧ g b.toNat = g a.toNat ∧ g (b.toNat + 1) = g a.toNat ∧
          g c.toNat = tACCI32 ∧ g d.toNat = sumTag (g a.toNat)
        elem := fun i j => sums d.toNat a.toNat i j (2 * n) fun k =>
          let m := tileRaw (tl c.toNat) i (k / 32)
          let rank := countBelow (k % 32) m.testBit
          if m.testBit (k % 32) ∧ rank < 16 then
            (tileVal (tl a.toNat) i (16 * (k / 32) + rank),
              if k < n then tileVal (tl b.toNat) j k else tileVal (tl (b.toNat + 1)) j (k - n))
          else (.zero false, .zero false) }
  | .maddt d a b => some
      { dest := d.toNat, named := [a.toNat, b.toNat], tag := g a.toNat, extra := 0
        accepts := (g a.toNat = tACC32 ∨ g a.toNat = tACCI32) ∧ g b.toNat = g a.toNat
        elem := fun i j =>
          let x := tileRaw (tl a.toNat) i j
          let y := tileRaw (tl b.toNat) i j
          if g a.toNat = tACC32 then
            let r := rne32 (addRes 0 (b32Val x) (b32Val y))
            (b32Bits r.1, r.2)
          else ((x + y) % 2 ^ 32, 0) }
  | .msubt d a b => some
      { dest := d.toNat, named := [a.toNat, b.toNat], tag := g a.toNat, extra := 0
        accepts := (g a.toNat = tACC32 ∨ g a.toNat = tACCI32) ∧ g b.toNat = g a.toNat
        elem := fun i j =>
          let x := tileRaw (tl a.toNat) i j
          let y := tileRaw (tl b.toNat) i j
          if g a.toNat = tACC32 then
            let r := rne32 (addRes 0 (b32Val x) (b32Val y).neg)
            (b32Bits r.1, r.2)
          else ((x + 2 ^ 32 - y) % 2 ^ 32, 0) }
  | .mscl d a b => some
      { dest := d.toNat, named := [a.toNat], tag := g a.toNat, extra := 0
        accepts := g a.toNat = tACC32 ∨ g a.toNat = tACCI32
        elem := fun i j =>
          let x := tileRaw (tl a.toNat) i j
          let w := (s.reg b).toNat % 2 ^ 32
          if g a.toNat = tACC32 then
            let r := rne32 (mulRes (b32Val x) (b32Val w))
            (b32Bits r.1, r.2)
          else (x * w % 2 ^ 32, 0) }
  | .mzero d tag => some
      { dest := d.toNat, named := [], accepts := true, tag := tag.toNat, elem := fun _ _ => (0, 0), extra := 0 }
  | .mcvt d a h tag =>
    let conv (v : Val) : Nat × Flags :=
      if tag.toNat = tACC32 then let r := convert fmtB32 0 v; (b32Bits r.1, r.2)
      else if tag.toNat = tACCI32 then let r := toInt32 0 v; ((r.1 % 2 ^ 32).toNat, r.2)
      else let r := convert fmtBF16 0 v; (plainEncode 16 7 r.1, r.2)
    let halves :=
      if tag.toNat = tACC32 then [0, 1, 2, 4, 8, 4].getD (g a.toNat) 0
      else if tag.toNat = tACCI32 then [1, 0, 0, 0, 0, 4].getD (g a.toNat) 0
      else [2, 0, 0, 0, 0, 0].getD (g a.toNat) 0
    some
      { dest := d.toNat, named := [a.toNat], tag := tag.toNat, extra := 0, accepts := tag.toNat ≤ 2 ∧ h.toNat < halves
        elem := fun i j =>
          if tag.toNat = tBF16 then
            (if j / 32 = (if h = 0 then 0 else 1) then conv (tileVal (tl a.toNat) i (j % 32))
             else if g d.toNat = tBF16 then (tileRaw (tl d.toNat) i j, 0) else (0, 0))
          else conv (tileVal (tl a.toNat) i (32 * h.toNat + j)) }
  | .mtrn d a h => some
      { dest := d.toNat, named := [a.toNat], tag := g a.toNat, extra := 0
        accepts := g a.toNat ≤ 2 ∧ (g a.toNat ≠ tBF16 → h = 0)
        elem := fun i j =>
          if g a.toNat = tBF16 then
            (if j / 32 = h.toNat then (tileRaw (tl a.toNat) (j % 32) (32 * h.toNat + i), 0)
             else if g d.toNat = tBF16 then (tileRaw (tl d.toNat) i j, 0) else (0, 0))
          else (tileRaw (tl a.toNat) j i, 0) }
  | _ => none

/-- The tiles that an instruction names lie in the window, and the one that it writes exists and is not held (R253). -/
def tilesHold (s : State) (dest : Nat) (named : List Nat) : Prop :=
  (∀ t ∈ dest :: named, t < s.me.tcount) ∧ FMap.find s.me.tmap dest ≠ none ∧ (s.tile s.cur dest).holds = []

/-- A tile has elements of whole bytes with these values, its sideband is zero (R249, R250). -/
def tileIs (x : Tile) (tag : Nat) (elem : Nat → Nat → Nat) : Prop :=
  x.tag = tag ∧ x.side = [] ∧ x.holds = [] ∧
  ∀ i j, i < 32 → j < tagCols tag → tileRaw x i j = elem i j % 2 ^ (8 * tagBytes tag)

/-- Tiles of other slots and names that do not lie in the storage of a slot's tile j are as before. -/
def otherTilesKept (s s' : State) (j : Nat) : Prop :=
  ∀ u k, (coreOf u ≠ s.myCore ∨ FMap.find (s.slotAt u).tmap k ≠ FMap.find s.me.tmap j) → u ≠ s.cur ∨ k ≠ j →
    FMap.find (s.slotAt u).tmap k ≠ none → s'.tile u k = s.tile u k

/-- A[i][j] less the exact triples of rows i and j of L over the columns before j, with the flags of its parts (R268). -/
def factorLess (A : Nat → Nat → Nat) (D : Nat → Nat) (L : Nat → Nat → Nat) (i j : Nat) : Res × Flags :=
  lessSum (b32Val (A i j)) ((List.range j).map fun k => tripleNeg (b32Val (L i k)) (b32Val (L j k)) (b32Val (D k)))

/-- Pivot j as it is computed, and whether it is replaced: a NaN, or not above tau (R268). -/
def pivotOf (A : Nat → Nat → Nat) (D : Nat → Nat) (L : Nat → Nat → Nat) (j : Nat) : Val × Flags :=
  rne32 (factorLess A D L j j).1
def pivotBad (A : Nat → Nat → Nat) (tau : Nat) (D : Nat → Nat) (L : Nat → Nat → Nat) (j : Nat) : Bool :=
  let d := (pivotOf A D L j).1
  d.isNan || Val.lt d (b32Val tau) || Val.eqv d (b32Val tau)

/-- L[i][j] below the diagonal, rounded once from the exact difference divided by D[j], with its flags (R268). -/
def quotientOf (A : Nat → Nat → Nat) (D : Nat → Nat) (L : Nat → Nat → Nat) (i j : Nat) : Val × Flags :=
  let m := factorLess A D L i j
  let r := resVal m.1
  let q := rne32 (divRes r.1 (b32Val (D j)))
  (q.1, m.2 ||| r.2 ||| q.2)

/-- A factorisation L D Lᵀ as R268 computes it; a replaced pivot is RGV, the canonical NaN where RGV is a NaN (R25). -/
def factorOf (A : Nat → Nat → Nat) (tau rgv : Nat) (D : Nat → Nat) (L : Nat → Nat → Nat) : Prop :=
  ∀ j, j < 32 →
    D j = (if pivotBad A tau D L j then (if (b32Val rgv).isNan then 0x7FC00000 else rgv) else b32Bits (pivotOf A D L j).1) ∧
    ∀ i, j < i → i < 32 → L i j = b32Bits (quotientOf A D L i j).1

/-- The pivots that are replaced, rising, and the flags of the whole factorisation: PVT for a replaced pivot (R268). -/
def replacedPivots (A : Nat → Nat → Nat) (tau : Nat) (D : Nat → Nat) (L : Nat → Nat → Nat) : List Nat :=
  (List.range 32).filter (pivotBad A tau D L)
def factorFlags (A : Nat → Nat → Nat) (tau : Nat) (D : Nat → Nat) (L : Nat → Nat → Nat) : Flags :=
  (List.range 32).foldl (fun fl j =>
    let f := fl ||| (factorLess A D L j j).2 ||| (pivotOf A D L j).2 ||| (if pivotBad A tau D L j then flPVT else 0)
    ((List.range 32).filter fun i => j < i).foldl (fun fl i => fl ||| (quotientOf A D L i j).2) f) 0

/-- Steps of R269, lane by lane: forward substitution, division by the diagonal, backward substitution. -/
def forwardStep (x : Slot) (M : Nat → Nat → Val) (xs ys : Nat → Val) (i : Nat) : Val × Flags :=
  x.lessProducts (xs i) ((List.range i).map fun k => (M i k, ys k))
def diagonalStep (x : Slot) (M : Nat → Nat → Val) (xs _ys : Nat → Val) (i : Nat) : Val × Flags :=
  x.roundVlf (divRes (xs i) (M i i))
def backwardStep (x : Slot) (M : Nat → Nat → Val) (xs ys : Nat → Val) (i : Nat) : Val × Flags :=
  x.lessProducts (xs i) ((List.range (31 - i)).map fun n => (M (i + 1 + n) i, ys (i + 1 + n)))

/-- ys are the results of a step in every lane, and fl are its flags. -/
def stepOk (step : Nat → Val × Flags) (ys : Nat → Val) (fl : Flags) : Prop :=
  (∀ i, i < 32 → ys i = (step i).1) ∧ fl = (List.range 32).foldl (fun a i => a ||| (step i).2) 0

/-- What a mode of mtrsv computes, with its flags. -/
def solvesBy (mode : Nat) (x : Slot) (M : Nat → Nat → Val) (xs ys : Nat → Val) (fl : Flags) : Prop :=
  if mode = 0 then stepOk (forwardStep x M xs ys) ys fl
  else if mode = 1 then stepOk (diagonalStep x M xs ys) ys fl
  else if mode = 2 then stepOk (backwardStep x M xs ys) ys fl
  else ∃ a b f g h, stepOk (forwardStep x M xs a) a f ∧ stepOk (diagonalStep x M a b) b g ∧
    stepOk (backwardStep x M b ys) ys h ∧ fl = f ||| g ||| h

/-- Clocks that an instruction of a latency takes at its die's wide duty of n sixteenths, rounded up (R255, R460). -/
def dutyClocks (s : State) (lat : Nat) : Nat :=
  let n := max 1 (s.dieAt (s.cur / 4096)).duty
  (lat * 16 + (n - 1)) / n

/-- TIME when an instruction of a latency in clk completes (R185, R255, R460). -/
def completionTime (s : State) (lat : Nat) : Nat := (s.clk + dutyClocks s lat) * 10 / 7

/-- A deadline is set and the completion comes after it (R270). -/
def tooLate (s : State) (lat : Nat) : Prop := s.me.dln ≠ 0 ∧ s.me.dln.toNat < completionTime s lat

/-- A completion that is too late, of an instruction that has no other effect: DEADLINE with DLM set. A deferred fault of an
earlier instruction is taken in its place, and then DLM is as it was (R73, R270). -/
def missedDeadline (o : Host.Outcome State Fault Refusal) (s : State) (lat : Nat) : Prop :=
  let s2 := s.endShadows s.cur
  let s3 := s2.modSlot s.cur fun x => x.setDlm true
  let tval : Word := BitVec.ofNat 64 (completionTime s lat)
  o = .next (s.trapWith 0x08 tval fun x => x.setDlm true) ∧
  (settles s → entersUser s2.me 0x08 → ∃ t, o = .next t ∧ enteredUser s3 t 0x08 tval) ∧
  (settles s → entersSuper s2 s2.me 0x08 → ∃ t, o = .next t ∧ enteredSuper s3 t 0x08 0x08 tval) ∧
  (s2.me.pend ≠ [] → s2.me.mode = .running → s2.cur = s.cur → o = .next (s2.deferTrap s.cur))

/-- Latency of mtrsv by mode (R255). -/
def solverLatency (mode : Nat) : Nat := [96, 16, 96, 208].getD mode 0

/-! ### Copies and swaps (R330 to R345) -/

/-- Kind 0 is cpy, 1 cpyt, 2 cpym. -/
def copyForm (d a b c : BitVec 5) (kind : Nat) (i : Instr) : Prop :=
  (kind = 0 ∧ i = .cpy d a b c) ∨ (kind = 1 ∧ i = .cpyt d a b c) ∨ (kind = 2 ∧ i = .cpym d a b c)

/-- The number whose negative rejects a tile word: 1 for a zero field, 2 for a tag other than 0, 1, 2 or 5 or a CMASK or
SLOT that breaks its rule (R331, R332). -/
def tileWordStatus (kind w : Nat) : Option Int :=
  let tag := w / 2 ^ 4 % 2 ^ 3
  let cmask := w / 2 ^ 8 % 2 ^ 16
  let slot := w / 2 ^ 24 % 2 ^ 4
  if w / 2 ^ 7 % 2 ≠ 0 ∨ w / 2 ^ 28 % 2 ^ 36 ≠ 0 then some 1
  else if (tag ≠ 0 ∧ tag ≠ 1 ∧ tag ≠ 2 ∧ tag ≠ 5) ∨ (kind = 1 ∧ (cmask ≠ 0 ∨ slot ≠ 0)) ∨ (kind = 2 ∧ cmask = 0) then some 2
  else none

/-- The id after one: a counter of 16 bits that skips 0 (R332). -/
def nextCopyId (n : Nat) : Nat := if (n + 1) % 2 ^ 16 = 0 then 1 else (n + 1) % 2 ^ 16

/-- The copies that a drain at the current pc waits for: those that it noted when it first issued, else those in flight
now (R329). -/
def drainNoted (s : State) (kind : Nat) : List (Nat × Nat) :=
  match s.me.drains with
  | some d => if d.1 = s.me.pc then d.2 else s.drainCopies kind
  | none => s.drainCopies kind

/-- A copy that the current slot starts. -/
def newCopy (s : State) (kind dst src ctl : Nat) : Copy :=
  { tid := s.cur, lid := s.me.lid, asid := s.me.asid, sup := s.me.sup, id := nextCopyId s.me.copyId, kind := kind
    dst := dst, src := src, ctl := ctl, done := 0, bytes := 0, status := 0, ranges := [], recv := [], finished := false }

/-- The operations of swpstat (R345). -/
def swapStatusOp (s : State) (op w : Nat) : Word × State :=
  let die := s.cur / 4096
  let outside : Prop := w % 2 ^ 16 ≠ 0 ∨ s.memBytes ≤ w
  if op = 0 then (BitVec.ofNat 64 ((FMap.find s.swapStatus (w % 2 ^ 16)).getD 6), s)
  else if op = 1 then
    if outside then (2, s)
    else if 512 ≤ (s.dieAt die).ring.length + (s.dieAt die).ringHeld then (1, s)
    else (0, s.modDie die fun x => { x with ring := x.ring ++ [w] })
  else if op = 2 then (BitVec.ofNat 64 (s.dieAt die).ring.length, s)
  else if op = 3 then (0, s.notifyPage (w % 2 ^ 14) (w / 2 ^ 16 % 2 ^ 40))
  else if op = 4 then (if outside then (2, s) else (0, s.recall w (2 ^ 16)))
  else (0xFFFFFFFFFFFFFFFF, s)

/-! ### The host, the mailbox and the side-band (R94 to R118, R141, R437, R438, R460 to R464) -/

/-- QPI after a write of v: it moves to v unless that would put more commands in the queue than it holds (R100). -/
def movedPi (q : Queue) (v : Nat) : Queue :=
  if 2 ^ q.log2 < (v + 2 ^ 32 - q.ci) % 2 ^ 32 then { q with ovf := true } else { q with pi := v }

/-- QCFG after a write of v: an enabled queue takes only EN; a disabled one its size and ASID, and from the front when it
is enabled (R99). -/
def movedCfg (q : Queue) (v : Nat) : Queue :=
  let n := v / 2 % 2 ^ 4
  let on : Bool := v % 2 = 1
  if q.en then { q with en := on }
  else
    { q with
      log2 := if 4 ≤ n ∧ n ≤ 12 then n else 4, asid := v / 2 ^ 16 % 2 ^ 14
      en := on, pi := if on then 0 else q.pi, ci := if on then 0 else q.ci }

/-- The byte that the host reads at a BAR2 offset: home memory through a valid window entry, else all ones (R95, R96). -/
def bar2Byte (s : State) (off : Nat) : Byte :=
  let w := FMap.getD s.windows (off / 2 ^ 21) 0
  let pa := w / 2 ^ 21 % 2 ^ 31 * 2 ^ 21 + off % 2 ^ 21
  if w % 2 = 1 ∧ pa < s.memBytes ∧ s.homePoisoned pa 1 0 = false then s.physByte pa else 0xFF

/-- The kinds of command that each step takes from a queue (R102, R104). -/
def takesKind (i : Instr) (kind : Nat) : Prop :=
  (i = .launchCommand ∧ kind = 1) ∨ (i = .drainCommand ∧ kind = 2) ∨ (i = .resumeCommand ∧ kind = 3) ∨
    (i = .abortCommand ∧ kind = 4) ∨ (i = .unknownKindCommand ∧ (kind = 0 ∨ 4 < kind))

/-- Queue q has a command that can be read, c is it. -/
def headCommand (s : State) (q : Nat) (c : List Byte) : Prop :=
  s.queueReady q = true ∧ s.ringOk (s.queueAt q) = true ∧ c = s.homeRead (s.queueAt q).headAddr 256

/-- The command is consumed: QCI goes on by one (R100). -/
def consumed (s : State) (q : Nat) : State := s.modQueue q fun y => { y with ci := (y.ci + 1) % 2 ^ 32 }

/-- A field of a command or of a mailbox argument, little-endian. -/
def argAt (a : List Byte) (off n : Nat) : Nat := natOfBytes ((a.drop off).take n)

/-- Bytes of an argument are zero. -/
def zeroAt (a : List Byte) (off n : Nat) : Bool := ((a.drop off).take n).all fun b => b = 0

/-- How a mailbox command ends: done with a response, refused, or busy (R109). -/
inductive MailResult where
  | done (s : State) (resp : List Byte)
  | refused
  | busy

/-- Code, least number of argument bytes and result of the mailbox commands that answer in their own step (R109, R110). -/
def mailResult (i : Instr) (s : State) (a : List Byte) : Option (Nat × Nat × MailResult) :=
  let n := argAt a 0 2
  let asid : Prop := 1 ≤ n ∧ n < 2 ^ 14
  let live : Prop := ∃ l ∈ s.launches, l.asid = n ∧ 2 ≤ l.state
  let dbg : Prop := n < 2 ^ 14 ∧ zeroAt a 2 6 ∧ argAt a 8 8 < 2 ^ 17 ∧ argAt a 8 8 % 8 = 0
  let seen := s.apState (n / 16 * 16 + (n + 1) % 16) n
  match i with
  | .getCert =>
    let part := (Config.certChain.drop (argAt a 0 4)).take 1016
    some (0x10, 4, .done s (leBytes 4 Config.certChain.length ++ leBytes 4 part.length ++ part))
  | .attest =>
    let r := s.report (a.take 32)
    some (0x11, 32, .done s (r ++ fitTo 384 (Config.pssSign r)))
  | .sealCmd => some (0x12, 392,
      if ¬asid ∨ ¬zeroAt a 2 6 then .refused
      else match Config.oaepDecrypt ((a.drop 8).take 384) with
        | none => .refused
        | some k => if k.length = 32
          then .done (s.modAsid n fun x => { x with secret := some k, key := storageKey k n, nonce := 0 }) [] else .refused)
  | .unsealCmd => some (0x13, 2,
      if ¬asid then .refused else if live then .busy
      else .done ((s.releaseRegions n).modAsid n fun x =>
        { x with secret := none, key := fitTo 32 (Config.randomKey s.tick) }) [])
  | .sealRange =>
    let count := argAt a 4 4
    let base := argAt a 8 8
    let inside (r : Nat) : Prop := base / 2 ^ 21 ≤ r ∧ r < base / 2 ^ 21 + count
    some (0x14, 16,
      if ¬zeroAt a 2 2 ∨ count = 0 ∨ base % 2 ^ 21 ≠ 0 ∨ (s.asidAt n).secret = none ∨ 2 ^ 14 ≤ n ∨
          s.memBytes < base + count * 2 ^ 21 ∨ (∃ r ∈ s.owned, inside r.1 ∧ r.2 ≠ n) then .refused
      else .done { s with
        owned := (List.range count).foldl (fun m j => FMap.put m (base / 2 ^ 21 + j) n) s.owned
        windows := s.windows.map fun w =>
          (w.1, if inside (w.2 / 2 ^ 21 % 2 ^ 31) then withBit w.2 0 false else w.2) } [])
  | .asidSet => some (0x20, 16,
      if ¬asid ∨ ¬zeroAt a 2 6 ∨ rootOk (argAt a 8 8) = false then .refused else if live then .busy
      else .done (s.modAsid n fun x => { x with
        live := true, ptbr := BitVec.ofNat 64 (ptbrStored (argAt a 8 8))
        key := if x.live then x.key else fitTo 32 (Config.randomKey s.tick) }) [])
  | .asidClear => some (0x21, 2,
      if ¬asid then .refused else if live then .busy
      else .done ((s.releaseRegions n).modAsid n fun x => { x with live := false }) [])
  | .stvecSet => some (0x22, 8,
      if argAt a 0 8 % 2 = 1 ∨ 2 ^ 56 ≤ argAt a 0 8 then .refused
      else .done { s with stvec := BitVec.ofNat 64 (argAt a 0 8) } [])
  | .dqOpen =>
    let q := argAt a 0 1
    some (0x30, 8, match s.launch? (argAt a 4 4) with
      | none => .refused
      | some l =>
        if q < 16 ∧ zeroAt a 1 3 ∧ (l.state = 2 ∨ l.state = 3) ∧ (s.donqAt q).lid = none then
          .done (s.modDonq q fun y => { y with lid := some l.lid, descs := [] })
            (leBytes 8 ((s.donqAt q).gen % 2 ^ 24 + 2 ^ 24 * q + 2 ^ 32 * (Config.deviceId % 2 ^ 12)))
        else .refused)
  | .dqClose => some (0x31, 1, if argAt a 0 1 < 16 then .done (s.closeDonq (argAt a 0 1)) [] else .refused)
  | .fenceStatus => some (0x40, 0, .done s
      (leBytes 8 s.fencedClusters ++ leBytes 1 s.fencedDies ++ leBytes 1 0 ++ leBytes 2 s.fencedMdies ++
        leBytes 1 s.fencedFlash ++ leBytes 3 0 ++ leBytes 4 s.fencedLinks))
  | .dbgHalt => some (0x50, 2,
      if n < 2 ^ 14 then
        .done ((dbgSlots n).foldl (fun s t =>
          let s1 := if (s.slotAt t).mode = .running then s.deferTrap t else s
          (if (s1.slotAt t).mode = .running then s1 else s1.settleParked t).modSlot t fun x =>
            { x with halted := true }) s) []
      else .refused)
  | .dbgRun => some (0x51, 2,
      if n < 2 ^ 14 then
        .done ((dbgSlots n).foldl (fun s t => s.modSlot t fun x => { x with halted := false, stepOne := false }) s) []
      else .refused)
  | .dbgStep => some (0x52, 2,
      if n < 2 ^ 14 ∧ (s.slotAt n).halted = true then .done (s.modSlot n fun x => { x with stepOne := true }) []
      else .refused)
  | .dbgRead => some (0x53, 16,
      if ¬dbg ∨ seen = 2 then .refused
      else if seen = 1 then .done s (leBytes 8 0)
      else .done (s.apRead n (s.slotAt n).sup (argAt a 8 8) 8).2 (s.apRead n (s.slotAt n).sup (argAt a 8 8) 8).1)
  | .dbgWrite => some (0x54, 24,
      if ¬dbg ∨ seen = 2 then .refused
      else if seen = 1 then .done s []
      else match s.apWrite n n (s.slotAt n).sup (argAt a 8 8) 0 ((a.drop 16).take 8) with
        | .ok _ s1 => .done s1 []
        | .stop _ _ => .refused)
  | .dbgCfg => some (0x55, 4,
      if argAt a 0 4 < 2 then .done { s with breakHalt := decide (argAt a 0 4 = 1) } [] else .refused)
  | .thrSet => some (0x61, 2,
      if argAt a 0 1 < 4 ∧ 4 ≤ argAt a 1 1 ∧ argAt a 1 1 ≤ 16 then
        .done (s.modDie (argAt a 0 1) fun x => { x with cap := argAt a 1 1, duty := min x.duty (argAt a 1 1) }) []
      else .refused)
  | _ => none

/-- No home slice's cache holds a byte of a range: the bytes are in HBM alone. -/
def uncached (s : State) (pa n : Nat) : Prop := ∀ h ∈ s.homes, ∀ l ∈ h.2.cache, l.1 + 64 ≤ pa ∨ pa + n ≤ l.1

/-- The journal entry of a SEQ has a state and a reason in HBM (R112). -/
def entryReads (s : State) (seq state reason : Nat) : Prop :=
  Memory.read s.mem (s.jAddr seq + 13) = BitVec.ofNat 8 state ∧ Memory.read s.mem (s.jAddr seq + 15) = BitVec.ofNat 8 reason

/-- The 8 bytes of a page-table entry in HBM take a value, and no other byte of package memory changes. -/
def entryWritten (s t : State) (pa e : Nat) : Prop :=
  Memory.readNat t.mem pa 8 = e % 2 ^ 64 ∧
  ∀ b, (b < pa ∨ pa + 8 ≤ b) → Memory.read t.mem b = Memory.read s.mem b

/-- The swap at an index ends with a code: its status becomes final, it leaves the engine unless it has a message to post,
and the page notice goes to the four C-dies (R167, R299, R300, R344). -/
def swapEnded (s t : State) (i : Nat) (x : Swap) (code : Nat) : Prop :=
  ((x.id = 0 ∨ x.opt.testBit 2 = false) → t.swaps = s.swaps.take i ++ s.swaps.drop (i + 1)) ∧
  (x.id ≠ 0 → t.swapStatus = s.swapStatus.map fun p => if p.1 = x.id then (p.1, code) else p) ∧
  t.notices = s.notices ++ (List.range 4).map fun d => (d, x.asid, x.vpn)

/-- The entry of a page that a swap-out takes: a present leaf of 64 KiB of this device, not in transit, that no other ASID
owns (R299). -/
def mayLeavePage (s : State) (x : Swap) (e : Nat) : Prop :=
  pteV e = true ∧ pteT e = false ∧ leafBad s.memBytes 16 e = false ∧ pteK e = 2 ∧
  ownedByOther s.owned x.asid (ptePA e) 16 = false

/-- The state in which the engine reads the page: T is set, no translation of it is left, clusters have given it up, and
the homes have applied what waited for it (R299). -/
def pageStill (s : State) (x : Swap) (pa e : Nat) : State :=
  ((((s.putPte pa (e + 2 ^ 15)).dropPage x.asid x.vpn).recall (ptePA e) (2 ^ 16)).applyRange (ptePA e) (2 ^ 16)).wakeRange
    (ptePA e) (2 ^ 16)

/-- The core has nothing on its way to a home or to another place of service. -/
def nothingOut (s : State) (core : Nat) : Prop := (s.coreAt core).out = [] ∧ (s.coreAt core).remapped = []

/-- A slice has room for the line of an address, and holds it whole where it holds it. -/
def lineReady (s : State) (h pa : Nat) : Prop :=
  (∀ l, FMap.find (s.homeAt h).cache (pa / 64 * 64) = some l → l.bytes.length = 64) ∧
  (FMap.find (s.homeAt h).cache (pa / 64 * 64) = none → (s.homeAt h).cache.length < homeLines)

/-- The end of a command in the mailbox or on the side-band (R109). -/
def mailEnd (s : State) : MailResult → State
  | .done s1 resp => s1.answer 1 resp
  | .refused => s.answer 2 []
  | .busy => s.answer 3 []

/-- Every store, atomic and dirty grain of the clusters of a domain is performed, and no remote write is outstanding
(R455, R456). -/
def domainSettled (s : State) (domain : Nat) : State :=
  ((List.range 64).filter fun k => domain.testBit k).foldl (fun s k =>
    let s1 := ((List.range 16).foldl (fun s i => (s.drainAmo (k * 16 + i)).drainStores (k * 16 + i)) s).writeBackCluster k
    (List.range 16).foldl (fun s i => s.drainRemote (k * 16 + i)) s1) s

end Sys2Proof.Machine
end

