-- ==== Sys2Proof/Certificates/Slice0/Obligations.lean ====
section
/-!
DEFINITION. The statements that the provers are asked for.
-/
open Sys2Proof Sys2Proof.Machine

/-! ### Encodings -/

/-- R58 to R68: decode and encode agree. Every well-formed instruction, with every operand at every value that its encoding
admits, decodes from its own bytes, whatever bytes follow, and nothing of what follows is taken. -/
def Obligations.DecodeEncode : Prop :=
  ∀ (i : Instr) (rest : List Byte), i.wf = true → i.isEvent = false → decode (encodeBytes i ++ rest) = .ok (i, rest)

/-- R58 to R69: no two encodings stand for one instruction, and nothing that is no instruction decodes: bytes that decode
are those of the well-formed instruction that they decode to. The halfword 0 and the reserved majors are refused, every
other halfword whose bit 0 is clear is an instruction (R64, R65). -/
def Obligations.EncodeDecode : Prop :=
  (∀ (bs rest : List Byte) (i : Instr), decode bs = .ok (i, rest) →
    i.wf = true ∧ i.isEvent = false ∧ bs = encodeBytes i ++ rest) ∧
  (∀ h : BitVec 16, h.getLsbD 0 = false → ((∃ i, decodeHalves [h] = .ok (i, 1)) ↔ h ≠ 0)) ∧
  (∀ w : BitVec 32, w.getLsbD 0 = true → w.extractLsb' 1 6 ∈ [0x22#6, 0x23, 0x2B, 0x34, 0x35, 0x36, 0x37, 0x38, 0x39, 0x3A,
    0x3B, 0x3C, 0x3D, 0x3E, 0x3F] → ∀ i, decodeWord w ≠ .ok i)

/-- The words of the manual's worked encodings (chapter 03) decode to the instructions that they stand for. -/
def Obligations.DecodeWords : Prop :=
  decodeTableWord 32 0x00083101 = some (.add 2 3 4) ∧
  decodeTableWord 32 0x23C83101 = some (.div 2 3 4 2) ∧
  decodeTableWord 32 0x004662AD = some (.ldd 5 6 3 2) ∧
  decodeTableWord 32 0x02000399 = some (.beq 7 0 32) ∧
  decodeTableWord 32 0x0000029F = some (.mfs 5 0) ∧
  decodeTableWord 32 0x1A616551 = some (.ffma 10 11 12 13 0) ∧
  decodeTableWord 16 0x9C72 = some (.cFadd 3 7 1) ∧
  decodeTableWord 32 0x00000003 = some (.addi 0 0 0) ∧
  decodeTableWord 32 0xFFFFFFFF = none

/-! ### Steps -/

/-- R58, R69, R169, R174, R175, R183: when the outside world asks for nothing and no agent of the device has a step of its own,
the slot that issues next runs what it fetched. If its halfwords, or the bytes of the line at its pc, decode to an
instruction i, the step is the effect of i in the state where the slot is the current one and the values whose shadows have
ended are in its registers, after which its shadows count on, freed space and waiters are served and time passes. An
instruction that would read an empty stream or write a full one has not issued: its slot is held, and nothing else of it has
changed. Bits that
are no instruction raise ILL with their value; a fetch that faults takes its trap; a line that is not cached holds the slot.
A step that the outside world asks for, on a package with power, is the effect of that step. -/
def Obligations.StepRunsDecoded : Prop :=
  ∀ s : State,
    (∀ t, s.inputs = [] → s.power = true → s.dstate ≠ 1 → s.clk / 256 = s.window → s.nextEvent = none →
      s.nextSlot = some t →
      let x := s.slotAt t
      (∀ l, s.lineOf t x.pc.toNat = some l → regionOf x.pc.toNat = .user → x.pc.toNat % 64 ≤ 60 →
        ∀ i rest, decode (l.bytes.drop (x.pc.toNat % 64) |>.take 4) = .ok (i, rest) →
        step s = after (exec i (s.beginIssue t)) (s.afterIssue t)) ∧
      (∀ hs i n, s.fetchInstr t = .halves hs → decodeHalves hs = .ok (i, n) →
        step s = after (exec i (s.beginIssue t)) (s.afterIssue t)) ∧
      (∀ hs e, s.fetchInstr t = .halves hs → decodeHalves hs = .error e →
        step s = .next (((s.beginIssue t).takeTrap 0x01 0 (BitVec.ofNat 64 (halvesNum hs))).endIssue t).tickOn) ∧
      (∀ c va, s.fetchInstr t = .trap c va →
        step s = .next (((s.beginIssue t).takeTrap c 2 (BitVec.ofNat 64 va)).endIssue t).tickOn) ∧
      (s.fetchInstr t = .miss → step s = .next (s.modSlot t fun y => { y with fetchMiss := true }).tickOn)) ∧
    (∀ t s1, ((∀ w ∈ s1.waits, w.tid = t → ∀ c e, w.place ≠ .stream c e) → s.afterIssue t s1 = s1.endIssue t) ∧
      ∀ w ∈ s1.waits, w.tid = t → ∀ c e, w.place = .stream c e → ∃ c e, s.afterIssue t s1 = s.stallAt t c e ∧
        (s.stallAt t c e).slotAt t = { s.slotAt t with mode := .held } ∧
        ∀ u, u ≠ t → (s.stallAt t c e).slotAt u = s.slotAt u) ∧
    (∀ t, (s.beginIssue t).cur = t ∧ onlySlot t s (s.endIssue t) ∧
      (s.endIssue t).tickOn.clk = s.clk + Config.elapsed s.tick ∧
      ((s.slotAt t).ready = true →
        let y := (s.settle t).slotAt t
        { (s.beginIssue t).slotAt t with
          fetchBuf := y.fetchBuf, mode := y.mode, latch := y.latch, issuedAt := y.issuedAt } = y)) ∧
    (∀ i a rest, s.inputs = (i, a) :: rest → s.power = true →
      step s = after (exec i { s with inputs := rest, ev := a }) id)

/-- Every step keeps the canonical form of the package's memory, of every cluster's SRAM, of every drive and of every
peer's memory: addresses strictly rise and no listed byte is what an unlisted one reads as. -/
def Obligations.StepKeepsCanonicalMemory : Prop :=
  ∀ s s' : State, s.canonical → step s = .next s' → s'.canonical

/-- R98, R99, R114, R185, R198, R360, R464: the values that the manual gives for reset, and a memory in canonical form. -/
def Obligations.ResetState : Prop :=
  State.reset.canonical ∧ State.reset.dstate = 1 ∧ State.reset.bootErr = 0 ∧ State.reset.clk = 0 ∧
  State.reset.window = 0 ∧ State.reset.stvec = 0 ∧ State.reset.jhead = 1 ∧ State.reset.jrel = 1 ∧
  (∀ q, let x := State.reset.queueAt q
    x.base = 0 ∧ x.en = false ∧ x.log2 = 4 ∧ x.asid = 0 ∧ x.pi = 0 ∧ x.ci = 0 ∧ x.ovf = false ∧ x.hold = none ∧
      x.addrErr = false) ∧
  ∀ t,
    (∀ id ∈ [0x001, 0x008, 0x009, 0x00A, 0x00B, 0x010, 0x011, 0x012, 0x013, 0x014, 0x015, 0x016, 0x100, 0x101, 0x102, 0x103],
      State.reset.readSpr t true id = 0) ∧
    State.reset.readSpr t true 0x10A = 4 ∧ State.reset.readSpr t true 0x10B = 50 ∧
    State.reset.readSpr t true 0x10C = 1 ∧ State.reset.readSpr t true 0x10D = 64

/-! ### Scalar instructions, control and special registers -/

/-- R200, R201, R203, R205 to R208: every scalar instruction with an immediate result completes, with the manual's value
in its destination (nothing in s0), four bytes on, and nothing else changed. -/
def Obligations.ScalarResults : Prop :=
  ∀ (i : Instr) (s : State) (d : BitVec 5) (v : Word), scalarValue i s = some (d, v) →
    ∃ t, exec i s = .next t ∧ wroteReg s t d.toNat v 4

/-- R192, R202 to R204: the multiply-high and divide family completes at once and leaves its value pending for the end
of its shadow; no register changes before that. -/
def Obligations.LateResults : Prop :=
  ∀ (i : Instr) (s : State) (la : BitVec 4) (d : BitVec 5) (v : Word), lateValue i s = some (la, d, v) →
    ∃ t, exec i s = .next t ∧ leftPending s t (newPend s i la d 0 (.value v))

/-- R192: when the only pending result of a slot has ended its shadow and arrived as a value, it is written to its
register (nothing for s0) and leaves the list; nothing else changes. -/
def Obligations.PendingValueArrives : Prop :=
  ∀ (s : State) (u : Nat) (p : Pend) (v : Word),
    (s.slotAt u).pend = [p] → p.left = 0 → p.arrived = true → p.out = .value v →
    (∀ r, ((s.settle u).slotAt u).reg r = if r = p.dest ∧ r ≠ 0 then v else (s.slotAt u).reg r) ∧
    { (s.settle u).slotAt u with regs := (s.slotAt u).regs } = { s.slotAt u with pend := [] } ∧
    onlySlot u s (s.settle u)

/-- R209: the words of major 0x0C are the six branches, by condition, with two conditions reserved. A conditional branch
completes; it goes to PC + 2 × sext(off12) when its condition holds and to PC + 4 when it does not, and changes nothing but
the pc. -/
def Obligations.Branches : Prop :=
  (∀ (a b : BitVec 5) (off : BitVec 12),
    decodeWord (off ++ 0#3 ++ b ++ a ++ 0x19#7) = .ok (.beq a b off) ∧
    decodeWord (off ++ 1#3 ++ b ++ a ++ 0x19#7) = .ok (.bne a b off) ∧
    decodeWord (off ++ 2#3 ++ b ++ a ++ 0x19#7) = .ok (.blt a b off) ∧
    decodeWord (off ++ 3#3 ++ b ++ a ++ 0x19#7) = .ok (.bge a b off) ∧
    decodeWord (off ++ 4#3 ++ b ++ a ++ 0x19#7) = .ok (.bltu a b off) ∧
    decodeWord (off ++ 5#3 ++ b ++ a ++ 0x19#7) = .ok (.bgeu a b off) ∧
    ∀ c : BitVec 3, 6 ≤ c.toNat → ∀ i, decodeWord (off ++ c ++ b ++ a ++ 0x19#7) ≠ .ok i) ∧
  ∀ (i : Instr) (s : State) (taken : Bool) (off : BitVec 12), branchTaken i s = some (taken, off) →
    ∃ t, exec i s = .next t ∧
      wentTo s t (if taken then BitVec.ofInt 64 (s.me.pc.toInt + 2 * off.toInt) else s.me.pc + 4)

/-- R210: jal and jalr by their words; they complete, write PC + 4 to their link register and go to their target, bit 0
of jalr's cleared. -/
def Obligations.Jumps : Prop :=
  (∀ (d a : BitVec 5) (off : BitVec 20) (imm : BitVec 15),
    decodeWord (off ++ d ++ 0x1B#7) = .ok (.jal d off) ∧ decodeWord (imm ++ a ++ d ++ 0x1D#7) = .ok (.jalr d a imm)) ∧
  ∀ (i : Instr) (s : State) (d : BitVec 5) (pc : Word), jumpTarget i s = some (d, pc) →
    ∃ t, exec i s = .next t ∧ linkedTo s t d.toNat (s.me.pc + 4) pc

/-- R213 to R215: mfs, mts, mtsset and mtsclr of a register that the slot's level reaches complete: mfs with the register's
value in its destination; the others, when the register accepts the value, with the register written. -/
def Obligations.SpecialRegisterAccesses : Prop :=
  (∀ (d : BitVec 5) (sr : BitVec 12) (s : State), sprReachable s sr →
    ∃ t, exec (.mfs d sr) s = .next t ∧
      wroteReg (sprState s sr) t d.toNat ((sprState s sr).readSpr s.cur s.me.sup sr.toNat) 4) ∧
  (∀ (i : Instr) (s s2 : State) (sr : BitVec 12) (v : Word), sprNamed i = some sr → sprReachable s sr →
    sprWritten i (sprState s sr) = some (sr, v) →
    (sprState s sr).writeSpr s.cur s.me.sup sr.toNat v = some s2 →
    ∃ t, exec i s = .next t ∧ wentTo s2 t (s2.me.pc + 4))

/-- R185, R187, R214, R418, R419, R421: what a special register reads as after an accepted write, at the level that
wrote it. -/
def Obligations.SpecialRegisterReadBack : Prop :=
  ∀ (s s2 : State) (u id : Nat) (sup : Bool) (v w : Word), sprReadBack id v = some w →
    s.writeSpr u sup id v = some s2 → s2.readSpr u sup id = w

/-- R70, R213, R214, R419: an id that the slot's level does not reach, or a value that the register refuses, raises ILL
with the instruction's bits and writes nothing else; so does, in a trap handler, every instruction that may park or end a
task (R143, R399, R427). -/
def Obligations.IllegalInstructions : Prop :=
  (∀ (i : Instr) (s : State) (sr : BitVec 12), sprNamed i = some sr →
    (¬sprReachable s sr → exec i s = .next (s.takeTrap 0x01 0 (BitVec.ofNat 64 (instrBits i)))) ∧
    (∀ v, sprReachable s sr → sprWritten i (sprState s sr) = some (sr, v) →
      (sprState s sr).writeSpr s.cur s.me.sup sr.toNat v = none →
      exec i s = .next ((sprState s sr).takeTrap 0x01 0 (BitVec.ofNat 64 (instrBits i))))) ∧
  (∀ (i : Instr) (s : State), forbiddenInHandler i = true → s.me.inHandler = true →
    exec i s = .next (s.takeTrap 0x01 0 (BitVec.ofNat 64 (instrBits i))))

/-! ### Traps -/

/-- R416 to R420: a trap of the current slot whose earlier instructions have completed is delivered at user level when
its cause is the user's and the slot is at user level outside every handler, and at supervisor level otherwise. A trap in a
supervisor handler, or one whose level has no vector, ends the launch by fault. -/
def Obligations.TrapEntry : Prop :=
  ∀ (s : State) (cause acc : Nat) (tval : Word), cause < 2 ^ 8 → acc < 4 → settles s →
    let s1 := s.endShadows s.cur
    (entersUser s1.me cause → enteredUser s1 (s.takeTrap cause acc tval) (cause + acc * 2 ^ 10) tval) ∧
    (entersSuper s1 s1.me cause → enteredSuper s1 (s.takeTrap cause acc tval) cause (cause + acc * 2 ^ 10) tval) ∧
    (s1.me.sh = true → s.takeTrap cause acc tval = s1.endByFault s.cur cause) ∧
    (¬(cause = 0x03 ∨ cause = 0x04 ∨ cause = 0x0B) → s1.me.sup = false → s1.me.uh = false → s1.me.sh = false →
      s1.me.tvec = 0 → s.takeTrap cause acc tval = s1.endByFault s.cur cause) ∧
    ((cause = 0x03 ∨ cause = 0x04 ∨ cause = 0x0B ∨ s1.me.sup = true ∨ s1.me.uh = true) → s1.me.sh = false →
      s1.stvec = 0 → ∃ t, enteredSuper s1 t cause (cause + acc * 2 ^ 10) tval ∧
        s.takeTrap cause acc tval = t.endByFault s.cur cause)

/-- R424: trap and, without break-to-halt, brk take the trap TRAP (0x0E) or BRK (0x0D) with their code as the value. Once
the slot's earlier instructions have completed they enter the handler of the level that the trap is for; a trap in a
supervisor handler, or one whose level has no vector, ends the launch by fault. With break-to-halt brk first completes the
slot's earlier instructions: pending results are written, wide instructions complete, shadows end (R438); then it halts the
slot with TPC at the brk, nothing is left pending, and no other trap state changes. A deferred fault or a park of an earlier
instruction comes first. A slot that runs, and whose pending results are values, completes them: nothing of it stays in the
wide queue. -/
def Obligations.TrapInstructions : Prop :=
  (∀ s : State, (∀ p ∈ s.me.pend, ∃ v, p.out = .value v) → s.me.mode = .running →
    settles s ∧ ∀ e ∈ ((s.endShadows s.cur).coreAt s.myCore).wideq, e.tid ≠ s.cur) ∧
  (∀ (i : Instr) (code : BitVec 11) (s : State) (cause : Nat),
    ((i = .trap code ∧ cause = 0x0E) ∨ (i = .brk code ∧ cause = 0x0D ∧ s.breakHalt = false)) →
    let s1 := s.endShadows s.cur
    let tval : Word := BitVec.ofNat 64 code.toNat
    exec i s = .next (s.takeTrap cause 0 tval) ∧
    (settles s →
      (entersUser s1.me cause → ∃ t, exec i s = .next t ∧ enteredUser s1 t cause tval) ∧
      (entersSuper s1 s1.me cause → ∃ t, exec i s = .next t ∧ enteredSuper s1 t cause cause tval) ∧
      (s1.me.sh = true → exec i s = .next (s1.endByFault s.cur cause)) ∧
      (s1.me.sup = false → s1.me.uh = false → s1.me.sh = false → s1.me.tvec = 0 →
        exec i s = .next (s1.endByFault s.cur cause)) ∧
      ((s1.me.sup = true ∨ s1.me.uh = true) → s1.me.sh = false → s1.stvec = 0 →
        ∃ t, enteredSuper s1 t cause cause tval ∧ exec i s = .next (t.endByFault s.cur cause)))) ∧
  (∀ (code : BitVec 11) (s : State), s.breakHalt = true →
    let s1 := s.endShadows s.cur
    (s1.me.pend = [] → ∃ t, exec (.brk code) s = .next t ∧ onlySlot s1.cur s1 t ∧ bytesKept s1 t ∧
      t.me = { s1.me with halted := true, tpc := s1.me.pc } ∧ t.me.pend = []) ∧
    (s1.me.pend ≠ [] → s1.me.mode = .running → exec (.brk code) s = .next (s1.deferTrap s.cur)) ∧
    (s1.me.pend ≠ [] → s1.me.mode ≠ .running → exec (.brk code) s = .next s1))

/-- R422, R425, R426: rett in a handler restores the pc, the handler bits and the level that entry saved; with the KILL bit
of SCAU set it ends the launch by fault. Outside every handler it raises ILL. Faults that were set aside are pending again
once no handler runs; the access of a record with PEND of the level returned to is performed before the next instruction,
its register and record written, or waits on its word. Where nothing is set aside or pending, nothing else changes. That a
slot which was starting a task it has taken goes back to starting it is the model's choice (log 60). -/
def Obligations.TrapReturns : Prop :=
  (∀ s : State,
    let sup : Slot := { s.me with sh := false, uh := s.me.scau.getLsbD 13, sup := s.me.scau.getLsbD 12, pc := s.me.sepc }
    let usr : Slot := { s.me with uh := false, pc := s.me.tpc }
    (s.me.sh = true → s.me.scau.getLsbD 15 = false →
      exec .rett s = .next ((s.setSlot s.cur (returned sup)).settle s.cur)) ∧
    (s.me.sh = false → s.me.uh = true → exec .rett s = .next ((s.setSlot s.cur (returned usr)).settle s.cur))) ∧
  (∀ (s : State) (x : Slot), (levelRecord x).dfi.getLsbD 14 = false → x.taken = none → x.pend = [] →
    (∀ p ∈ x.later, p.left = 0 ∧ p.arrived = true ∧ ∃ c a v, p.out = .fault c a v) →
    let t := (s.setSlot s.cur (returned x)).settle s.cur
    onlySlot s.cur s t ∧
      t.me = if x.uh = true ∨ x.sh = true then x else { x with pend := x.later, later := [] }) ∧
  (∀ (s : State) (x : Slot), (levelRecord x).dfi.getLsbD 14 = true → x.taken = none → x.pend = [] → x.later = [] →
    let r := levelRecord x
    let w := r.dfi.toNat / 2 ^ 32
    let s' := s.setSlot s.cur (returned x)
    let s0 := s'.syncAmo s.cur (s'.scratchChunks s.cur r.dfv.toNat 8)
    let off := s0.scratchOff s.cur r.dfv.toNat
    let t := s'.settle s.cur
    redoWord w = some (.full false) → r.dfv.toNat % 8 = 0 → regionOf r.dfv.toNat = .scratch →
    (∀ v s1, s0.feLoad s.cur off false = some (v, s1) →
      onlySlot s.cur s1 t ∧ t.me.pend = [] ∧ (levelRecord t.me).dfi.getLsbD 14 = false ∧
      (levelRecord t.me).dfi.getLsbD 13 = false ∧
      ∀ n, t.me.reg n = if n = r.dfi.toNat / 2 ^ 8 % 2 ^ 5 ∧ n ≠ 0 then BitVec.ofNat 64 v else s1.me.reg n) ∧
    (s0.feLoad s.cur off false = none → t.me.mode = .parked ∧ t.me.pc = s0.me.pc ∧ t.me.regs = s0.me.regs ∧
      t.me.pend = [recordAccess r] ∧ ∃ v ∈ t.waits, v.tid = s.cur ∧ v.place = .word s.myClu off)) ∧
  ∀ (s : State), s.me.pend = [] → s.me.later = [] →
    s.me.sdef.dfi.getLsbD 14 = false → s.me.udef.dfi.getLsbD 14 = false →
    let back (x : Slot) : Slot := match s.me.taken with
      | none => x
      | some (e, d) => { x with mode := .starting e d, taken := none }
    (s.me.sh = true → s.me.scau.getLsbD 15 = false →
      ∃ t, exec .rett s = .next t ∧ onlySlot s.cur s t ∧ bytesKept s t ∧
        t.me = back { s.me with
          sh := false, uh := s.me.scau.getLsbD 13, sup := s.me.scau.getLsbD 12, pc := s.me.sepc }) ∧
    (s.me.sh = true → s.me.scau.getLsbD 15 = true →
      exec .rett s = .next (s.endByFault s.cur (s.me.scau.toNat % 256))) ∧
    (s.me.sh = false → s.me.uh = true →
      ∃ t, exec .rett s = .next t ∧ onlySlot s.cur s t ∧ bytesKept s t ∧
        t.me = back { s.me with uh := false, pc := s.me.tpc }) ∧
    (s.me.sh = false → s.me.uh = false →
      exec .rett s = .next (s.takeTrap 0x01 0 (BitVec.ofNat 64 (instrBits .rett))))

/-! ### Scalar loads and stores -/

/-- R192 to R194, R303: a scalar load completes and leaves pending what its access gives: the loaded value, the fault
that it defers, or an access that is performed again. One that an earlier load of the same bytes comes before, or that the
core performs late (which ones is free, log 84), leaves its access pending. -/
def Obligations.ScalarLoads : Prop :=
  ∀ (i : Instr) (s : State) (d a : BitVec 5) (la : BitVec 4) (imm : BitVec 11) (n : Nat) (sgn : Bool),
    loadForm i = some (d, a, la, imm, n, sgn) →
    let va := accessAddr s a imm n
    (delayedLoad s va.toNat n → ∃ t, exec i s = .next t ∧ leftPending s t (newPend s i la d va .access)) ∧
    (∀ bs s1, s.scalarLoad s.cur va.toNat n = .ok bs s1 → bs.length = n →
      ∃ t, exec i s = .next t ∧ (¬delayedLoad s va.toNat n →
        leftPending s1 t (newPend s1 i la d va (.value (loadedValue sgn bs))))) ∧
    (∀ c acc v s1, s.scalarLoad s.cur va.toNat n = .stop (.trap c acc v) s1 →
      ∃ t, exec i s = .next t ∧ (¬delayedLoad s va.toNat n →
        leftPending s1 t (newPend s1 i la d va (.fault c acc v)))) ∧
    (∀ p op s1, s.scalarLoad s.cur va.toNat n = .stop (.park p op) s1 →
      ∃ t, exec i s = .next t ∧ (¬delayedLoad s va.toNat n → leftPending s1 t (newPend s1 i la d va .access)))

/-- R154, R278, R303, R384, R387: a scalar load from scratch completes at any alignment, with the bytes that the slot sees
there: its own buffered stores first, and those of siblings that it has taken or takes now (which ones is free, log 84).
Where it sees every store that its core's buffer holds, nothing but the pending result changes. A load that is performed at
the end of its shadow (log 84) leaves its access pending. -/
def Obligations.ScratchLoads : Prop :=
  ∀ (i : Instr) (s : State) (d a : BitVec 5) (la : BitVec 4) (imm : BitVec 11) (n : Nat) (sgn : Bool),
    loadForm i = some (d, a, la, imm, n, sgn) →
    let va := accessAddr s a imm n
    regionOf va.toNat = .scratch → noneOut s →
    (delayedLoad s va.toNat n → ∃ t, exec i s = .next t ∧ leftPending s t (newPend s i la d va .access)) ∧
    (∃ t, exec i s = .next t ∧ (¬delayedLoad s va.toNat n →
      leftPending (tookEarly s va n n) t (newPend s i la d va (.value
        (loadedValue sgn
          ((List.range n).map fun j => sramSeen (tookEarly s va n (j + 1)) s.myClu (scratchPlace s va n j))))))) ∧
    ((∀ e ∈ (s.coreAt s.myCore).storeBuf, e.sees s.cur = true) →
      ∃ t, exec i s = .next t ∧ (¬delayedLoad s va.toNat n → leftPending s t (newPend s i la d va (.value
        (loadedValue sgn ((List.range n).map fun j => sramSeen s s.myClu (scratchPlace s va n j)))))))

/-- R303, R305, R306: a scalar store whose access is accepted completes and goes on four bytes. Before an instruction that
reads, stores or adds to bytes that an earlier load of the slot has still to read, that load reads; where this parks the slot or
brings an accumulate fault, the instruction has no effect yet (the model's choice, log 89). -/
def Obligations.ScalarStores : Prop :=
  (∀ (i : Instr) (s s0 s1 : State) (d a : BitVec 5) (imm : BitVec 11) (n : Nat), storeForm i = some (d, a, imm, n) →
    actsFrom i s s0 →
    s0.scalarStore s0.cur (accessAddr s a imm n).toNat (instrBits i) (leBytes n (s0.reg d).toNat) = .ok () s1 →
    ∃ t, exec i s = .next t ∧ wentTo s1 t (s1.me.pc + 4)) ∧
  (∀ (i : Instr) (s : State) (rs : List (Nat × Nat)), accessSpans i s = some rs → s.me.binds = [] → freshOperands s.me →
    (forbiddenInHandler i = true → s.me.inHandler = false) → ¬mayAccess s rs → exec i s = .next (afterLoads s)) ∧
  (∀ (i : Instr) (s : State) (rs : List (Nat × Nat)), accessSpans i s = some rs → s.me.pend = [] → actsFrom i s s)

/-- R154, R278, R303, R306, R384, R387: a scalar store to scratch that no earlier load of the slot has still to read before
completes at any alignment. The slot then sees the low bytes
of the register at the bytes that the address reaches, and every other byte of every cluster's SRAM as before; no
memory byte has changed yet, because the store lies in the store buffer. -/
def Obligations.ScratchStores : Prop :=
  ∀ (i : Instr) (s : State) (d a : BitVec 5) (imm : BitVec 11) (n : Nat), storeForm i = some (d, a, imm, n) →
    let va := accessAddr s a imm n
    regionOf va.toNat = .scratch → noneOut s → ¬readsAwait s [(va.toNat, n)] →
    ∃ t, exec i s = .next t ∧
      (∀ j < n, (∀ k < n, j < k → scratchPlace s va n k ≠ scratchPlace s va n j) →
        sramSeen t s.myClu (scratchPlace s va n j) = (s.reg d).extractLsb' (8 * j) 8) ∧
      (∀ k off, (k = s.myClu → ∀ j < n, scratchPlace s va n j ≠ off) → sramSeen t k off = sramSeen s k off) ∧
      bytesKept s t ∧ { t.me with pc := s.me.pc } = s.me ∧ t.me.pc = s.me.pc + 4 ∧
      (∀ u, u ≠ s.cur → t.slotAt u = s.slotAt u)

/-- R15, R385 to R389: when a store of a core leaves its buffer for a cluster's SRAM, behind the core's requests to that
SRAM, exactly its bytes of that SRAM change, to the
stored values; no other cluster's SRAM and no byte of package memory does. The oldest may leave; a younger one may not
before an older one to its bytes, or one that a release has followed. -/
def Obligations.StoreBufferLeaves : Prop :=
  ∀ (s : State) (core k off : Nat) (older rest : List SBEntry) (e : SBEntry),
    (s.coreAt core).storeBuf = older ++ e :: rest → e.loc = .sram k off →
    let t := s.leaveAt core older.length
    let out := s.modCore core fun c => { c with storeBuf := older ++ rest }
    let s0 := out.servePlace core (.sram k off)
    t.mem = s0.mem ∧ (t.coreAt core).storeBuf = (s0.coreAt core).storeBuf ∧
    (∀ c a, Memory.read (t.cluAt c).sram a =
      if c = k ∧ off ≤ a ∧ a < off + e.bytes.length then e.bytes.getD (a - off) 0
      else Memory.read (s0.cluAt c).sram a) ∧
    ((∀ r ∈ (s.coreAt core).out, r.place ≠ placeOf (.sram k off)) → s0 = out) ∧
    (older = [] → s.leaveStore core = t ∧ s.mayLeave core 0 = true) ∧
    (∀ o ∈ older, o.before = true ∨ (e.bytes ≠ [] ∧ o.loc.space = e.loc.space ∧ o.loc.addr < off + e.bytes.length ∧
      off < o.loc.addr + o.bytes.length) → s.mayLeave core older.length = false)

/-! ### Ordered accesses and full/empty words -/

/-- R307 to R309: lda of an aligned address completes after the acquire of its scope, with what its access gives pending: its
value, the fault that it defers, or an access that is performed again, which is left to the end of its shadow where an
earlier load of the same bytes has still to read (log 89). stl of an aligned address whose place accepts the
store completes after the release of its scope, unless an earlier load waits or an accumulate fault is taken first. On
aligned scratch both always find their place: lda brings what the slot sees there (which stores of its siblings it takes
early is free, log 84), and at core scope or wider the slot
then sees its siblings' buffered stores (log 44); stl's bytes are seen there. A misaligned
lda, stl or full/empty access raises ALIGN, and a full/empty access outside scratch raises PROT, with the address in TVAL. -/
def Obligations.OrderedAccesses : Prop :=
  (∀ (i : Instr) (s : State) (d a : BitVec 5) (scope : BitVec 3) (la : BitVec 4) (n : Nat),
    ldaForm i = some (d, a, scope, la, n) →
    let va := s.reg a
    (va.toNat % n = 0 → s.olderReads [(va.toNat, n)] = true →
      ∃ t, exec i s = .next t ∧ leftPending s t (newPend s i la d va .access)) ∧
    (va.toNat % n = 0 → s.olderReads [(va.toNat, n)] = false →
      (∀ bs s1, s.orderedLoad s.cur va.toNat n scope.toNat = .ok bs s1 → bs.length = n →
        ∃ t, exec i s = .next t ∧ leftPending s1 t (newPend s1 i la d va (.value (loadedValue false bs)))) ∧
      (∀ c acc v s1, s.orderedLoad s.cur va.toNat n scope.toNat = .stop (.trap c acc v) s1 →
        ∃ t, exec i s = .next t ∧ leftPending s1 t (newPend s1 i la d va (.fault c acc v))) ∧
      (∀ p op s1, s.orderedLoad s.cur va.toNat n scope.toNat = .stop (.park p op) s1 →
        ∃ t, exec i s = .next t ∧ leftPending s1 t (newPend s1 i la d va .access)) ∧
      (regionOf va.toNat = .scratch →
        let s0 := s.acquireAs s.myCore scope.toNat
        let s1 := inOrder s0 va n
        let off := s0.scratchOff s.cur va.toNat
        let s2 := if scope.toNat < 2 then s1 else s1.drainOver s.myCore (.sram s.myClu off) n
        let s3 := (s2.servePlace s.myCore (.sram s.myClu off)).forward s.cur (.sram s.myClu off) n
        let s4 := if scope.toNat = 0 then s3 else s3.seeAll s.cur
        ∃ t, exec i s = .next t ∧ leftPending s4 t (newPend s4 i la d va (.value
          (loadedValue false ((List.range n).map fun j => sramSeen s3 s.myClu (off + j))))))) ∧
    (va.toNat % n ≠ 0 → exec i s = .next (s.takeTrap 0x02 0 va))) ∧
  (∀ (i : Instr) (s : State) (a b : BitVec 5) (scope : BitVec 3) (n : Nat), stlForm i = some (a, b, scope, n) →
    let va := s.reg a
    let goes (s2 : State) (cs : List Chunk) : Prop :=
      (mayRelease s2 scope.toNat →
        let s3 := (released s2 scope.toNat).releaseWrite scope.toNat cs (leBytes n (s.reg b).toNat)
        ∃ t, exec i s = .next t ∧ wentTo s3 t (s3.me.pc + 4)) ∧
      (¬loadsRead s2 → exec i s = .next (afterLoads s2)) ∧
      (∀ c v, loadsRead s2 → 2 ≤ scope.toNat → (beforeRelease s2 scope.toNat).me.accFault = some (c, v) →
        exec i s = .next ((beforeRelease s2 scope.toNat).accTrap c v))
    (va.toNat % n = 0 →
      (∀ cs s1 s2, s.resolve s.cur accWrite true true va.toNat n = .ok cs s1 → formatCheck accWrite cs s1 = .ok () s2 →
        goes (s2.syncAmo s2.cur cs) cs) ∧
      (regionOf va.toNat = .scratch → goes (inOrder s va n) (s.scratchChunks s.cur va.toNat n) ∧
        (mayRelease (inOrder s va n) scope.toNat → ∃ t, exec i s = .next t ∧
          ∀ j, j < n → sramSeen t s.myClu (s.scratchOff s.cur va.toNat + j) = (s.reg b).extractLsb' (8 * j) 8))) ∧
    (va.toNat % n ≠ 0 → exec i s = .next (s.takeTrap 0x02 1 va))) ∧
  (∀ (i : Instr) (s : State) (a : BitVec 5) (acc : Nat) (parks : Bool), feForm i = some (a, acc, parks) →
    (parks = true → s.me.inHandler = false) →
    ((s.reg a).toNat % 8 ≠ 0 → exec i s = .next (s.takeTrap 0x02 acc (s.reg a))) ∧
    ((s.reg a).toNat % 8 = 0 → regionOf (s.reg a).toNat ≠ .scratch → exec i s = .next (s.takeTrap 0x04 acc (s.reg a))))

/-- R309 to R311: the full/empty instructions complete on a word in the state they wait for, after the slot's own posted
atomics to it. Those that write the word are releases: every earlier load of the slot has read; before lde and lde.try those
of the word have (log 89). lde and ldx leave the word's data pending, stf, sto write it, and the try forms report 0 and take
it. -/
def Obligations.FullEmptyCompletes : Prop :=
  (∀ (a b d : BitVec 5) (la : BitVec 4) (s s' : State), feAddress (s'.reg a) → actsFrom (.lde d a la) s s' →
    let off := feWord s' (s'.reg a)
    let s0 := inOrder s' (s'.reg a) 8
    (∀ v s1, s.me.inHandler = false → findsFull s0 off false v s1 → ∃ t, exec (.lde d a la) s = .next t ∧
      leftPending s1 t (newPend s1 (.lde d a la) la d (s'.reg a) (.value (BitVec.ofNat 64 v)))) ∧
    (∀ v s1, findsFull s0 off false v s1 → ∃ t, exec (.ldeTry d a b) s = .next t ∧
      linkedTo (s1.setReg b (BitVec.ofNat 64 v)) t d.toNat 0 (s1.me.pc + 4))) ∧
  ∀ (a b d : BitVec 5) (la : BitVec 4) (s : State), feAddress (s.reg a) →
    let off := feWord s (s.reg a)
    let s0 := inOrder s (s.reg a) 8
    (∀ v s1, s.me.inHandler = false → findsFull s0 off true v s1 → ∃ t, exec (.ldx d a la) s = .next t ∧
      leftPending s1 t (newPend s1 (.ldx d a la) la d (s.reg a) (.value (BitVec.ofNat 64 v)))) ∧
    (∀ v s1, findsFull s0 off true v s1 → ∃ t, exec (.ldxTry d a b) s = .next t ∧
      linkedTo (s1.setReg b (BitVec.ofNat 64 v)) t d.toNat 0 (s1.me.pc + 4)) ∧
    (mayRelease s0 2 →
      let s1 := beforeRelease s0 2
      let s2 := s1.feStore s1.cur off (s1.reg b).toNat
      (∃ t, exec (.sto a b) s = .next t ∧ wentTo s2 t (s2.me.pc + 4)) ∧
      (s.me.inHandler = false → ¬isFull (afterLoads s0) off → ∃ t, exec (.stf a b) s = .next t ∧ wentTo s2 t (s2.me.pc + 4)) ∧
      (¬isFull s0 off → ∃ t, exec (.stfTry d a b) s = .next t ∧ wroteReg s2 t d.toNat 0 4))

/-- R309 to R311: on a word in the other state stf parks the slot at the word with the value it brings, once every earlier
load has read, lde and ldx wait
for the end of their shadow, and the try forms report 1 and change nothing else; the slot's own posted atomics to the word
come first. -/
def Obligations.FullEmptyWaits : Prop :=
  ∀ (a b d : BitVec 5) (la : BitVec 4) (s : State), feAddress (s.reg a) →
    let off := feWord s (s.reg a)
    let s0 := inOrder s (s.reg a) 8
    (s.me.inHandler = false → loadsRead s0 → isFull (afterLoads s0) off →
      let s1 := afterLoads s0
      exec (.stf a b) s = .next (s1.parkAt s1.cur (.word s1.myClu off) (.stf (s1.reg b)))) ∧
    (s.me.inHandler = false → ¬loadsRead s0 → exec (.stf a b) s = .next (afterLoads s0)) ∧
    (isFull s0 off → ∃ t, exec (.stfTry d a b) s = .next t ∧ wroteReg s0 t d.toNat 1 4) ∧
    (∀ s', actsFrom (.lde d a la) s s' → s'.reg a = s.reg a →
      let s1 := inOrder s' (s.reg a) 8
      ¬isFull s1 (feWord s' (s.reg a)) → (∃ t, exec (.ldeTry d a b) s = .next t ∧ wroteReg s1 t d.toNat 1 4) ∧
        (s.me.inHandler = false → ∃ t, exec (.lde d a la) s = .next t ∧
          leftPending s1 t (newPend s1 (.lde d a la) la d (s.reg a) (.full false)))) ∧
    (¬isFull s0 off → (∃ t, exec (.ldxTry d a b) s = .next t ∧ wroteReg s0 t d.toNat 1 4) ∧
      (s.me.inHandler = false → ∃ t, exec (.ldx d a la) s = .next t ∧
        leftPending s0 t (newPend s0 (.ldx d a la) la d (s.reg a) (.full true))))

/-- R280, R309: writing a full/empty word on which nothing waits changes its eight bytes and makes it full, taking it
makes it empty, and no other byte or word of the cluster differs. -/
def Obligations.FullEmptyWord : Prop :=
  ∀ (s : State) (u off : Nat) (v : Nat), v < 2 ^ 64 → off % 8 = 0 →
    let k := cluOf u
    (∀ s1, s1 = s.release u 2 → (∀ w ∈ s1.waits, w.place ≠ .word k off) →
      (s.feStore u off v).wordAt k off = v ∧ ((s.feStore u off v).cluAt k).full off = true ∧
      (∀ a, (a < off ∨ off + 8 ≤ a) →
        Memory.read ((s.feStore u off v).cluAt k).sram a = Memory.read (s1.cluAt k).sram a) ∧
      (∀ a, a / 8 ≠ off / 8 → ((s.feStore u off v).cluAt k).full a = (s1.cluAt k).full a)) ∧
    (∀ s1 w s2, s1 = (((s.servePlace (coreOf u) (.sram k off)).drainOver (coreOf u) (.sram k off) 8).release u 2).acquireAs
        (coreOf u) 2 →
      (∀ x ∈ s1.waits, x.place ≠ .word k off) → s.feLoad u off true = some (w, s2) →
      w = s1.wordAt k off ∧ (s2.cluAt k).full off = false ∧
      (∀ a, Memory.read (s2.cluAt k).sram a = Memory.read (s1.cluAt k).sram a) ∧
      (∀ a, a / 8 ≠ off / 8 → (s2.cluAt k).full a = (s1.cluAt k).full a))

/-! ### Atomics and accumulates -/

/-- R346 to R350: an atomic whose target is accepted and whose release can be made completes, behind what its core has sent
to the same place, its value behind what a home has sent the core (R15). Unless it may be posted it
writes the old value to its destination, and its target holds the function of old value and operand. -/
def Obligations.Atomics : Prop :=
  ∀ (i : Instr) (s s0 s1 : State) (fn : Nat) (d a b : BitVec 5) (scope : BitVec 3) (ord : BitVec 2) (sz : BitVec 1) (c : Chunk),
    amoForm i = some (fn, d, a, b, scope, ord, sz) → freshOperands s.me → actsFrom i s s0 →
    let n := if sz = 1 then 8 else 4
    s0.amoTarget (s.reg a) n = .ok c s1 → mayOrder s1 scope ord → (d ≠ 0 ∨ ord.getLsbD 0 = true ∨ fn = 9) →
    let s2 := amoState s1 c scope ord
    let r := s2.rmw s2.myCore s2.me.lid c.loc n fun x => amoValue fn n x (lowBytes n (s.reg b)) (lowBytes n (s.reg d))
    ∃ t, exec i s = .next t ∧ wroteReg (r.2.answersBefore s2.myCore c.loc) t d.toNat (BitVec.ofNat 64 r.1) 4

/-- R349, R369: an atomic other than cas without a destination and without acquire order is posted: after what its order
asks for it is on its way to its target, a release at a home with the counts of its core's requests, and the slot goes on.
To a target that is not a home's it joins the core's requests, and nothing else changes where no store is buffered. -/
def Obligations.PostedAtomics : Prop :=
  ∀ (i : Instr) (s s0 s1 : State) (fn : Nat) (a b : BitVec 5) (scope : BitVec 3) (ord : BitVec 2) (sz : BitVec 1) (c : Chunk),
    amoForm i = some (fn, 0, a, b, scope, ord, sz) → fn ≠ 9 → ord.getLsbD 0 = false → freshOperands s.me →
    actsFrom i s s0 →
    let n := if sz = 1 then 8 else 4
    s0.amoTarget (s.reg a) n = .ok c s1 → mayOrder s1 scope ord →
    let r := amoReleased s1 c scope ord
    let q : AmoReq := { tid := r.2.cur, lid := r.2.me.lid, fn := fn, size := n, loc := c.loc
                        y := lowBytes n (s.reg b), rel := r.1 }
    (∃ t, exec i s = .next t ∧ wentTo (r.2.postAmo q) t ((r.2.postAmo q).me.pc + 4)) ∧
    (c.atHome = false → (r.2.coreAt (coreOf r.2.cur)).storeBuf = [] → { r.2.postAmo q with cores := r.2.cores } = r.2 ∧
      ∀ k, (r.2.postAmo q).coreAt k = if k = coreOf r.2.cur
        then { r.2.coreAt k with out := (r.2.coreAt k).out ++ [.amo q] } else r.2.coreAt k)

/-- R346, R348: the read-modify-write of a word of cluster SRAM gives its old value, and changes only its n bytes, to the
function's value. -/
def Obligations.AtomicWord : Prop :=
  ∀ (s : State) (core lid k off n : Nat) (f : Nat → Nat), (s.coreAt core).storeBuf = [] → (∀ x, f x < 2 ^ (8 * n)) →
    let r := s.rmw core lid (.sram k off) n f
    let x := Memory.readNat (s.cluAt k).sram off n
    r.1 = x ∧ Memory.readNat (r.2.cluAt k).sram off n = f x ∧
    (∀ a, (a < off ∨ off + n ≤ a) → Memory.read (r.2.cluAt k).sram a = Memory.read (s.cluAt k).sram a) ∧
    (∀ j, j ≠ k → r.2.cluAt j = s.cluAt j) ∧ r.2.mem = s.mem ∧ r.2.slots = s.slots

/-- R352: a scalar accumulate to an aligned element of an accepted target completes: the low bytes of its register join
the unit of the target as one addend. -/
def Obligations.ScalarAccumulates : Prop :=
  ∀ (i : Instr) (s s0 s1 : State) (a b : BitVec 5) (n : Nat) (float : Bool) (pa ck g dom : Nat),
    accsForm i = some (a, b, n, float) → (s.reg a).toNat % n = 0 → actsFrom i s s0 →
    s0.accTarget (s.reg a).toNat n false = .ok (pa, ck, g, dom) s1 →
    let u := if g = 5 then 32 else 64
    let s2 := s1.issueAcc s1.cur (pa - pa % u) ((s.reg a).toNat - (s.reg a).toNat % u) ck g dom
      (.plain n float [(pa % u / n, lowBytes n (s0.reg b))])
    ∃ t, exec i s = .next t ∧ wentTo s2 t (s2.me.pc + 4)

/-- R355 to R366: integer addends change the elements of a plain unit that they name, each to the sum modulo the element's
width, and no other, and set no flag; a float addend gives the sum rounded to nearest, with its flags; several are added in
order. A NANBLK is left alone, a POISON block and one of another FMT raise their faults; else the addends of an integer or
XACC block are converted under its SCL, an EMPTY one taken with SCL 0, and those of a VLF block give exact sums that form the
block again. The home writes the bytes that the addends name and answers. It refuses an addend beyond the quota, which goes back
converted, and lets another wait in its queue. The answer brings flags to the slots that still run the launch; a refused addend becomes a
residual, or joins the one of its unit and kind; the first fault is kept. A residual that is sent must be accepted, and one
that meets an addend of its unit goes with it. -/
def Obligations.AccumulateAdds : Prop :=
  (∀ (old : List Byte) (n j y : Nat), (n = 4 ∨ n = 8) → (j + 1) * n ≤ old.length →
    (∃ bs, applyAcc old (.plain n false [(j, y)]) = .done bs 0 ∧ bs.length = old.length ∧
      natOfBytes ((bs.drop (j * n)).take n) = (natOfBytes ((old.drop (j * n)).take n) + y) % 2 ^ (8 * n) ∧
      ∀ a, (a < j * n ∨ (j + 1) * n ≤ a) → bs.getD a 0 = old.getD a 0) ∧
    (let w := 8 * n
     let L := if n = 4 then 23 else 52
     let x := natOfBytes ((old.drop (j * n)).take n)
     let r := (addRes 0 (plainDecode w L x) (plainDecode w L y)).deliver (if n = 4 then fmtB32 else fmtB64) 0
     ∃ bs, applyAcc old (.plain n true [(j, y)]) = .done bs r.2 ∧ bs.length = old.length ∧
      natOfBytes ((bs.drop (j * n)).take n) = plainEncode w L r.1 % 2 ^ w ∧
      ∀ a, (a < j * n ∨ (j + 1) * n ≤ a) → bs.getD a 0 = old.getD a 0)) ∧
  (∀ (old b1 b2 : List Byte) (n : Nat) (fl : Bool) (y : Nat × Nat) (ys : List (Nat × Nat)) (f1 f2 : Flags),
    applyAcc old (.plain n fl [y]) = .done b1 f1 → applyAcc b1 (.plain n fl ys) = .done b2 f2 →
    applyAcc old (.plain n fl (y :: ys)) = .done b2 (f1 ||| f2)) ∧
  (∀ (old : List Byte) (f : Nat) (els : List (Nat × Val)),
    let g := Block.fmt old
    let scl : Int := if g = fmtEMPTY then 0 else Block.scl old
    (g = fmtNANBLK → applyAcc old (.desc f els) = .done old 0) ∧
    (g = fmtPOISON → applyAcc old (.desc f els) = .fault 0x06) ∧
    (g ≠ fmtNANBLK → g ≠ fmtPOISON → g ≠ fmtEMPTY → g ≠ f → applyAcc old (.desc f els) = .fault 0x05) ∧
    (g ≠ fmtNANBLK → g ≠ fmtPOISON → (g = f ∨ g = fmtEMPTY) → fmtIsVlf f = false → (els.map Prod.fst).Nodup →
      let was (k : Nat) : Int := if g = fmtEMPTY then 0 else signedOf (intW f) (Block.num old / 2 ^ (16 + k * intW f))
      let now (k : Nat) : Int := match FMap.find els k with
        | some v => wrapS (intW f) (was k + (intConv f scl v).1)
        | none => was k
      let outs (k : Nat) : Flags := match FMap.find els k with
        | some v => if f = fmtXACC ∧ xaccOut (was k + (intConv f scl v).1) = true then flXOV else 0
        | none => 0
      applyAcc old (.desc f els) = .done
        (mkBlock f scl (packFields (intW f) ((List.range (fmtK f)).map fun k => (now k % 2 ^ intW f).toNat)))
        (els.foldl (fun a e => a ||| (intConv f scl e.2).2) 0 ||| (List.range (fmtK f)).foldl (fun a k => a ||| outs k) 0)) ∧
    (g ≠ fmtNANBLK → g ≠ fmtPOISON → (g = f ∨ g = fmtEMPTY) → fmtIsVlf f = true →
      let was (k : Nat) : Val := if g = fmtEMPTY then .zero false else Block.elem old k
      let ad := vstdBlock 0 (f - 0x10) ((List.range (fmtK f)).map fun k => FMap.getD els k (.zero false))
      let now (k : Nat) := exactSum (was k) (Block.elem ad.1 k)
      let nb := vstdBlock 0 (f - 0x10) ((List.range (fmtK f)).map fun k => (now k).1)
      applyAcc old (.desc f els) = .done nb.1
        (ad.2 ||| (List.range (fmtK f)).foldl (fun a k => a ||| (now k).2) 0 ||| nb.2))) ∧
  (∀ (s : State) (r : AccReq) (bs : List Byte) (f : Flags),
    let h := s.homeOf r.dom r.pa
    let n := unitLen r.grain
    s.homePoisoned r.pa n r.dom = false → applyAcc (unitAt s r) r.data = .done bs f → bs.length = n → r.pa % n = 0 →
    lineReady s h r.pa →
    let t := s.applyReq r
    (t.coreAt r.core).accAns = (s.coreAt r.core).accAns ++ [{ req := r, outcome := 0, cause := 0, flags := f }] ∧
    ∀ i, i < n → t.sliceByte h (r.pa + i) =
      if (accMask (unitAt s r) r.data).getD i false then bs.getD i 0 else (unitAt s r).getD i 0) ∧
  (∀ (s : State) (r : AccReq), sameKindPending s r →
    let h := s.homeOf r.dom r.pa
    let t := s.acceptAcc r
    let used := quotaUsed s r
    (targetFits s r → r.must = false → s.quotaNow ≤ used →
      let d := refusedData (Block.accScl (unitAt s r)) r.data
      answered s t r.core { req := { r with data := d.1 }, outcome := 1, cause := 0, flags := d.2 } ∧
        (t.homeAt h).wq = (s.homeAt h).wq ∧ quotaUsed t r = used) ∧
    (targetFits s r → (r.must = true ∨ (used < s.quotaNow ∧ Config.queueCrowded s.tick = false)) →
      (s.homeAt h).wq.length < 256 →
      (∃ e ∈ (t.homeAt h).wq, r ∈ e.reqs) ∧ quotaUsed t r = used + 1 ∧ (∀ c, t.coreAt c = s.coreAt c) ∧
        (∀ u, t.slotAt u = s.slotAt u) ∧ bytesKept s t) ∧
    (s.homePoisoned r.pa (unitLen r.grain) r.dom = true →
      answered s t r.core { req := r, outcome := 2, cause := 0x06, flags := 0 }) ∧
    (∀ c, s.homePoisoned r.pa (unitLen r.grain) r.dom = false → r.data.fmt ≠ some fmtPOISON →
      applyAcc (unitAt s r) r.data = .fault c →
      answered s t r.core { req := r, outcome := 2, cause := c, flags := 0 })) ∧
  (∀ (s : State) (a : AccAns),
    let t := s.takeAnswer a
    let c := a.req.core
    let mine (u : Nat) : Prop := u ∈ a.req.slots ∧ (s.slotAt u).lid = a.req.lid ∧ s.lives a.req.lid = true
    (a.outcome = 0 ∨ a.outcome = 2 → (t.coreAt c).residuals = (s.coreAt c).residuals ∧
      ∀ u, (mine u → (t.slotAt u).flg = (s.slotAt u).flg ||| a.flags ∧ (t.slotAt u).accFault =
          if a.outcome = 2 ∧ (s.slotAt u).accFault = none then some (a.cause, a.req.va) else (s.slotAt u).accFault) ∧
        (¬mine u → t.slotAt u = s.slotAt u)) ∧
    (a.outcome = 1 → s.lives a.req.lid = false → t = s) ∧
    (a.outcome = 1 → s.lives a.req.lid = true → (s.coreAt c).residual? a.req.pa a.req.lid = none →
      ((s.coreAt c).residuals.filter fun y => residualSet y.req.pa = residualSet a.req.pa).length < 4 →
      (t.coreAt c).residuals = (s.coreAt c).residuals ++ [{ req := a.req, born := a.req.born.getD s.clk }]) ∧
    (∀ x, a.outcome = 1 → s.lives a.req.lid = true → (s.coreAt c).residual? a.req.pa a.req.lid = some x →
      x.req.data.sameKind a.req.data = true →
      ∃ y ∈ (t.coreAt c).residuals, y.isFor a.req.pa a.req.lid = true ∧
        y.req.data = (resMerge x.req.data a.req.data).1 ∧ y.born = min x.born (a.req.born.getD s.clk))) ∧
  (∀ (s : State) (x : Residual), hasSent (s.sendResidual x.req.core x) x.req.core fun r =>
    r.must = true ∧ r.pa = x.req.pa ∧ r.lid = x.req.lid ∧ r.data = x.req.data ∧ r.born = some x.born) ∧
  (∀ (s : State) (t pa va ck g dom : Nat) (d : AccData), ck ≠ 0 →
    let core := coreOf t
    let lid := (s.slotAt t).lid
    ((s.coreAt core).residual? pa lid = none → hasSent (s.issueAcc t pa va ck g dom d) core fun r =>
      r.must = false ∧ r.pa = pa ∧ r.lid = lid ∧ r.slots = [t] ∧ r.data = d ∧ r.born = none) ∧
    (∀ x, (s.coreAt core).residual? pa lid = some x → x.req.core = core → x.req.data.sameKind d = true →
      hasSent (s.issueAcc t pa va ck g dom d) core fun r =>
        r.must = false ∧ r.pa = pa ∧ r.lid = lid ∧ t ∈ r.slots ∧ r.data = (resMerge x.req.data d).1 ∧ r.born = some x.born))

/-! ### Fences, ranges, translations and barriers -/

/-- R391, R328, R371: fences, range operations and flushr complete and go on four bytes, after the actions their rules give.
A fence first lets every earlier load read; its release may leave stores in the buffer that leave before anything later is
performed (the model's choice, log 84), its acquire sees every store of the core (log 44), and what flushr invalidates follows
log 32. An accumulate fault that a flush finds is taken in place of flushr's end. -/
def Obligations.MaintenanceCompletes : Prop :=
  (∀ (scope : BitVec 3) (s : State),
    (loadsRead s → ∃ t, exec (.fence scope 1) s = .next t ∧
      let s1 := (afterLoads s).acquire (afterLoads s).cur scope.toNat
      wentTo s1 t (s1.me.pc + 4)) ∧
    (mayRelease s scope.toNat → ∃ t, exec (.fence scope 2) s = .next t ∧
      wentTo (fenced s scope.toNat) t ((fenced s scope.toNat).me.pc + 4)) ∧
    (mayRelease s scope.toNat → ∃ t, exec (.fence scope 3) s = .next t ∧
      let s1 := (fenced s scope.toNat).visible scope.toNat
      wentTo (s1.acquire s1.cur scope.toNat) t ((s1.acquire s1.cur scope.toNat).me.pc + 4)) ∧
    (¬loadsRead s → ∀ kind : BitVec 2, exec (.fence scope kind) s = .next (afterLoads s)) ∧
    (∀ c v, loadsRead s → 2 ≤ scope.toNat → (beforeRelease s scope.toNat).me.accFault = some (c, v) →
      ∀ kind : BitVec 2, 2 ≤ kind.toNat →
        exec (.fence scope kind) s = .next ((beforeRelease s scope.toNat).accTrap c v))) ∧
  (∀ (d a : BitVec 5) (scope : BitVec 3) (s : State),
    let rs := s.keyRanges s.me.asid (s.reg a).toNat (s.reg d).toNat
    (∃ t, exec (.wbr d a scope) s = .next t ∧
      wentTo (s.wbr scope.toNat rs) t ((s.wbr scope.toNat rs).me.pc + 4)) ∧
    (∃ t, exec (.invr d a scope) s = .next t ∧
      wentTo (s.invr scope.toNat rs) t ((s.invr scope.toNat rs).me.pc + 4)) ∧
    (∃ t, exec (.flr d a scope) s = .next t ∧
      wentTo (s.flr scope.toNat rs) t ((s.flr scope.toNat rs).me.pc + 4))) ∧
  (∀ (s : State),
    let s1 := (flushed s).dropUnits s.myCore s.me.lid
    (s1.me.accFault = none → ∃ t, exec .flushr s = .next t ∧ wentTo s1 t (s1.me.pc + 4)) ∧
    (∀ c v, s1.me.accFault = some (c, v) → exec .flushr s = .next (s1.accTrap c v)))

/-- R172, R173: tlbi and tlbia complete after a release of device scope and once every access of the device that has been
translated is complete. After tlbi no TLB lists a translation of the page for its ASID, if that is live, or a global one,
and no walk cache a table entry on the page's walk; after tlbia none of its ASID is left that is not global, if that is
live. After ifence the core's instruction
cache and the slot's fetch buffer are empty. At user level tlbi and tlbia raise ILL. -/
def Obligations.TranslationsGone : Prop :=
  ∀ (a : BitVec 5) (s : State),
    let w := (s.reg a).toNat
    let page := w % 2 ^ 56 / 2 ^ 16 * 2 ^ 16
    (s.me.sup = true → mayRelease s 3 → ∃ t, exec (.tlbi a) s = .next t ∧
      t.me.pc = (released s 3).completeAll.me.pc + 4 ∧
      (∀ e, ((∃ c ∈ t.cores, e ∈ c.2.tlb) ∨ (∃ k ∈ t.clusters, e ∈ k.2.tlb2)) →
        (e.glob = true ∨ (e.asid = w % 2 ^ 14 ∧ (s.asidAt e.asid).live = true) ∨ (s.reg a).getLsbD 14 = true) → e.vpn ≠ page / 2 ^ e.size) ∧
      (∀ d ∈ t.dies, ∀ e ∈ d.2.walkCache, e.lead ≠ page / 2 ^ levelShift e.level)) ∧
    (s.me.sup = true → mayRelease s 3 → ∃ t, exec (.tlbia a) s = .next t ∧
      t.me.pc = (released s 3).completeAll.me.pc + 4 ∧
      (∀ e, ((∃ c ∈ t.cores, e ∈ c.2.tlb) ∨ (∃ k ∈ t.clusters, e ∈ k.2.tlb2)) →
        (s.reg a).getLsbD 14 = false ∧ (e.glob = true ∨ e.asid ≠ w % 2 ^ 14 ∨ (s.asidAt e.asid).live = false)) ∧
      (∀ d ∈ t.dies, ∀ e ∈ d.2.walkCache, (s.reg a).getLsbD 14 = false ∧
        (e.asid ≠ w % 2 ^ 14 ∨ (s.asidAt e.asid).live = false))) ∧
    (∃ t, exec .ifence s = .next t ∧ (t.coreAt s.myCore).icache = [] ∧ t.me.fetchBuf = none ∧
      t.me.pc = (s.drainStores s.myCore).me.pc + 4) ∧
    (s.me.sup = false → exec (.tlbi a) s = .next (s.takeTrap 0x01 0 (BitVec.ofNat 64 (instrBits (.tlbi a)))) ∧
      exec (.tlbia a) s = .next (s.takeTrap 0x01 0 (BitVec.ofNat 64 (instrBits (.tlbia a)))))

/-- R395, R397: the barrier instructions complete on an aligned object in scratch: bar.init writes both words, bar.arv and
bar.drop return the old phase and take one arrival off (bar.drop also one expected), bar.exp adds to the byte count,
bar.wait and its try form pass an object whose phase differs. The core's atomics to the bank come first, and so do earlier
loads of the object that have still to read; an arrival
reads and writes the object in one step after its release, and raises BAR_OVER with the object's address where no arrival
is awaited. Each step writes the reserved bits of the object zero. -/
def Obligations.Barriers : Prop :=
  (∀ (a b : BitVec 5) (s s0 : State), barAddress (s0.reg a) →
    let s1 := barState s0 (s0.reg a)
    let off := s0.scratchOff s0.cur (s0.reg a).toNat
    let n := (s0.reg b).toNat % 2 ^ 20
    (n ≠ 0 → actsFrom (.barInit a b) s s0 → ∃ t, exec (.barInit a b) s = .next t ∧
      let s2 := (s1.putWord s1.myClu off (objectWord 0 n n)).putWord s1.myClu (off + 8) 0
      wentTo s2 t (s2.me.pc + 4)) ∧
    (actsFrom (.barExp a b) s s0 → ∃ t, exec (.barExp a b) s = .next t ∧
      let s2 := s1.barBytes s1.myClu off (s0.reg b).toInt
      wentTo s2 t (s2.me.pc + 4))) ∧
  ∀ (a b d : BitVec 5) (s : State), barAddress (s.reg a) →
    let s1 := barState s (s.reg a)
    let off := s.scratchOff s.cur (s.reg a).toNat
    (mayRelease s1 2 → pendingAt (released s1 2) off ≠ 0 → ∃ t, exec (.barArv d a) s = .next t ∧
      let s2 := released s1 2
      let s3 := (s2.putWord s2.myClu off
        (objectWord (phaseAt s2 off) (pendingAt s2 off - 1) (expectedAt s2 off))).barTest s2.myClu off
      wroteReg s3 t d.toNat (BitVec.ofNat 64 (phaseAt s2 off)) 4) ∧
    (mayRelease s1 2 → pendingAt (released s1 2) off ≠ 0 → expectedAt (released s1 2) off ≠ 0 →
      ∃ t, exec (.barDrop d a) s = .next t ∧
      let s2 := released s1 2
      let s3 := (s2.putWord s2.myClu off
        (objectWord (phaseAt s2 off) (pendingAt s2 off - 1) (expectedAt s2 off - 1))).barTest s2.myClu off
      wroteReg s3 t d.toNat (BitVec.ofNat 64 (phaseAt s2 off)) 4) ∧
    (mayRelease s1 2 → pendingAt (released s1 2) off = 0 →
      exec (.barArv d a) s = .next ((released s1 2).takeTrap 0x09 0 (s.reg a))) ∧
    (mayRelease s1 2 → (pendingAt (released s1 2) off = 0 ∨ expectedAt (released s1 2) off = 0) →
      exec (.barDrop d a) s = .next ((released s1 2).takeTrap 0x09 0 (s.reg a))) ∧
    ∀ s0, actsFrom (.barWait a b) s s0 → s0.reg a = s.reg a →
    let s1 := barState s0 (s.reg a)
    let off := s0.scratchOff s0.cur (s.reg a).toNat
    let k := s1.myClu
    let wait := (s0.reg b).toNat % 2 ^ 12
    let p := phaseAt s1 off
    let clean := if s1.wordAt k off < 2 ^ 52 then s1
      else s1.putWord k off (objectWord p (pendingAt s1 off) (expectedAt s1 off))
    (p ≠ wait → s.me.inHandler = false → ∃ t, exec (.barWait a b) s = .next t ∧
      wentTo (clean.acquire clean.cur 2) t ((clean.acquire clean.cur 2).me.pc + 4)) ∧
    (p ≠ wait → ∃ t, exec (.barWaitTry d a b) s = .next t ∧ wroteReg (clean.acquire clean.cur 2) t d.toNat 0 4) ∧
    (p = wait → (∃ t, exec (.barWaitTry d a b) s = .next t ∧ wroteReg clean t d.toNat 1 4) ∧
      (s.me.inHandler = false → exec (.barWait a b) s = .next (clean.parkAt clean.cur (.barrier k off) .complete)))

/-- R396: an object without pending arrivals and bytes opens its next phase: the phase counts on modulo 2^12, and the
expected arrivals are pending again. Any other object is left as it is. -/
def Obligations.BarrierPhase : Prop :=
  ∀ (s : State) (k off : Nat), (∀ w ∈ s.waits, w.place ≠ .barrier k off) →
    let w := s.wordAt k off
    ((w / 2 ^ 12 % 2 ^ 20 = 0 ∧ s.wordAt k (off + 8) = 0) →
      (s.barTest k off).wordAt k off =
        objectWord (w % 2 ^ 12 + 1) (w / 2 ^ 32 % 2 ^ 20) (w / 2 ^ 32 % 2 ^ 20)) ∧
    ((w / 2 ^ 12 % 2 ^ 20 ≠ 0 ∨ s.wordAt k (off + 8) ≠ 0) → s.barTest k off = s)

/-! ### Tasks -/

/-- R127, R129, R130, R133, R134, R140, R143, R146 to R149: spawn, sync, sync.try, tend and yield complete when nothing they
wait for is missing. spawn goes to its target in the child's frame and leaves the continuation at the tail of the deque; on
a full deque the eight oldest entries move to the cluster queue first, or it parks at a PRESSED one; sync on JOIN 0 passes,
and on a nonzero JOIN the task waits in its frame; sync.try reports JOIN; yield goes on. tend on JOIN 0 frees the windows and
the frame, and goes on with the newest entry of the deque; with none the end of a root or donated task is noted in its launch,
that of another takes 1 from its parent's JOIN, and the last child of a waiting parent goes on with that. What it goes on
with starts at its pc with the registers of its frame. Under a drain spawn leaves the child too and parks (from 63 entries on
after the move, the model's choice: log 90), sync passes and parks, and yield leaves an entry. -/
def Obligations.TaskInstructions : Prop :=
  ∀ (a b d : BitVec 5) (s s2 : State),
    (∀ n off, s.me.inHandler = false → atBoundary s s2 → n = (s2.reg b).toNat → n % 64 = 0 → 64 ≤ n → n ≤ 20480 →
      s2.frameRoom s2.myClu (s2.childSize n) = some off →
      let rest : QEntry :=
        { pc := (s2.me.pc + 4).toNat % 2 ^ 56, prio := s2.myPrio, kind := 0, counted := false, frame := s2.me.frp }
      let child : QEntry :=
        { pc := (s2.reg a).toNat / 2 * 2 % 2 ^ 56, prio := s2.myPrio, kind := 1, counted := false
          frame := frameAddr s2.myClu off }
      (s2.me.deque.length < 64 → s2.myDrain = false →
        ∃ t, exec (.spawn a b) s = .next t ∧ t.me.pc.toNat = (s2.reg a).toNat / 2 * 2 ∧
          t.me.frp = frameAddr s2.myClu off ∧ t.me.regs = s2.me.regs ∧ t.me.mode = s2.me.mode ∧
          t.me.deque = s2.me.deque ++ [rest]) ∧
      (s2.me.deque.length < 63 → s2.myDrain = true →
        ∃ t, exec (.spawn a b) s = .next t ∧ t.me.mode = .parked ∧ t.me.deque = s2.me.deque ++ [rest, child]) ∧
      (∀ l, (if s2.myDrain then 63 else 64) ≤ s2.me.deque.length → s2.slotLaunch s2.cur = some l →
        let k := s2.myClu
        let v := s2.releaseEdge s2.myCore l.lid 3
        ((s2.cluAt k).pressed = false → (s2.cluAt k).cq.length < l.cqhigh → (v.cluAt k).cq.length + 8 ≤ l.cqhigh →
          ∃ s3 : State, exec (.spawn a b) s = .next (s3.spawnAt (s2.reg a &&& ~~~1) off (s2.childSize n)) ∧
            (s3.slotAt s2.cur).deque = (v.slotAt s2.cur).deque.drop 8 ∧
            (s3.cluAt k).cq = (v.cluAt k).cq ++ (s2.me.deque.take 8).map countedEntry) ∧
        (((s2.cluAt k).pressed = true ∨ l.cqhigh ≤ (s2.cluAt k).cq.length) →
          ∃ s3 : State, exec (.spawn a b) s = .next ((s3.drainAmo s2.myCore).parkAt s2.cur (.pressed k) .reissue) ∧
            { s3 with clusters := s2.clusters } = s2 ∧ (s3.cluAt k).cq = (s2.cluAt k).cq ∧ (s3.cluAt k).pressed = true ∧
            ((s2.cluAt k).pressed = false → (s3.cluAt k).low = l.cqlow ∧ (s3.cluAt k).pressDom = l.domain)))) ∧
    (s.me.inHandler = false → atBoundary s s2 → s2.frJoin s2.me.frp = 0 →
      (s2.myDrain = false → ∃ t, exec .sync s = .next t ∧
        wentTo (s2.syncPass s2.me.frp) t ((s2.syncPass s2.me.frp).me.pc + 4)) ∧
      (s2.myDrain = true →
        exec .sync s = .next (((s2.syncPass s2.me.frp).advance 4).parkBoundary .complete))) ∧
    (s.me.inHandler = false → atBoundary s s2 → s2.frJoin s2.me.frp ≠ 0 → s2.me.binds = [] →
      exec .sync s = .next (s2.syncWait s2.me.frp (s2.me.pc + 4))) ∧
    (s.frJoin s.me.frp = 0 → ∃ t, exec (.syncTry d) s = .next t ∧ wroteReg (s.syncPass s.me.frp) t d.toNat 0 4) ∧
    (s.frJoin s.me.frp ≠ 0 → ∃ t, exec (.syncTry d) s = .next t ∧
      wroteReg s t d.toNat (BitVec.ofInt 64 (s.frJoin s.me.frp)) 4) ∧
    (s.me.inHandler = false → atBoundary s s2 → s2.frJoin s2.me.frp = 0 → s2.me.binds = [] →
      exec .tend s = .next (s2.endTask s2.me.frp)) ∧
    (s.me.inHandler = false → atBoundary s s2 → s2.frJoin s2.me.frp ≠ 0 → s2.me.binds = [] →
      exec .tend s = .next (s2.syncWait s2.me.frp s2.me.pc)) ∧
    (∀ fa, s.me.binds = [] →
      let d := taskSettled s fa
      let u := taskReleased s fa
      let t := s.endTask fa
      (∀ c ∈ (s.unholdTiles fa).cores, ∀ x ∈ c.2.tas, fa ∉ x.2.holds) ∧
      FMap.find (u.cluAt (frameClu fa)).frames (frameOff fa) = none ∧
      (u.slotAt s.cur).vcount = 0 ∧ (u.slotAt s.cur).tcount = 0 ∧ (u.slotAt s.cur).deque = (d.slotAt s.cur).deque ∧
      (∀ e, u.me.deque.getLast? = some e → t = (u.modMe fun x => { x with deque := x.deque.dropLast }).goOn e) ∧
      (u.me.deque = [] → s.frParent fa = 0 → u.myDrain = false → poolIdle u →
        (t.slotAt u.cur).mode = .idle ∧
        t.launches = u.launches.map fun l =>
          if l.lid ≠ u.me.lid then l
          else if s.frFlags fa / 2 ^ 9 % 2 = 1 then { l with rootEnded := true } else { l with donated := l.donated - 1 }) ∧
      (∀ p, u.me.deque = [] → s.frParent fa = p → p ≠ 0 →
        let v := u.releaseEdge u.myCore u.me.lid (edgeScope u.myCore (u.frInfo p).holder)
        (v.frRd p 16 4 = 1 → v.frState p = 3 → ∃ w : State, w.frState p = 0 ∧ (w.frInfo p).round = 0 ∧
          t = w.goOn { pc := w.frRd p 0 8 % 2 ^ 56, prio := w.myPrio, kind := 1, counted := false, frame := p }) ∧
        ((v.frRd p 16 4 ≠ 1 ∨ v.frState p ≠ 3) → v.myDrain = false → poolIdle v →
          t.frRd p 16 4 = (v.frRd p 16 4 + 2 ^ 32 - 1) % 2 ^ 32 ∧ (t.slotAt v.cur).mode = .idle))) ∧
    (∀ e, s.myDrain = false → s.me.binds = [] → s.me.got = none → poolIdle s → s.startFits s.cur e = true →
      ((s.frInfo e.frame).round = 0 ∨ (s.frInfo e.frame).holder = s.myCore) →
      s.frFlags e.frame / 2 ^ 12 % 2 = 0 → s.frSave e.frame = 0 →
      let t := s.goOn e
      t.me.mode = .running ∧ t.me.pc = BitVec.ofNat 64 (e.pc / 2 * 2) ∧ t.me.frp = e.frame ∧
        t.me.regs = s.savedRegs e.frame ∧ t.me.deque = s.me.deque ∧ t.frState e.frame = 1 ∧
        (FMap.find (s.cluAt (frameClu e.frame)).frames (frameOff e.frame) ≠ none → (t.frInfo e.frame).holder = s.myCore)) ∧
    (s.me.inHandler = false → atBoundary s s2 → s2.myDrain = false → ∃ t, exec .yield s = .next t ∧ wentTo s2 t (s2.me.pc + 4)) ∧
    (s.me.inHandler = false → atBoundary s s2 → s2.myDrain = true → s2.me.binds = [] → exec .yield s = .next s2.yieldDrain)

/-- R121, R145: fpub completes when its counts fit; the frame's header then names the published state, and each selected
register reads back from the frame. -/
def Obligations.FramePublish : Prop :=
  ∀ (a b : BitVec 5) (s : State), s.me.inHandler = false →
    let s1 := (s.drainWide s.cur).drainStores s.myCore
    let fa := s1.me.frp
    let m := (s1.reg a).toNat % 2 ^ 32 / 2 * 2
    let vc := (s1.reg b).toNat % 2 ^ 7
    let nt := (s1.reg b).toNat / 2 ^ 8 % 2 ^ 3
    let name (i : Nat) := (s1.reg b).toNat / 2 ^ (12 + 4 * i) % 2 ^ 4
    vc ≤ s1.me.vcount → s1.me.vcount ≤ 64 → s1.me.vclass ≤ 15 → nt ≤ 4 → (∀ i < nt, name i < s1.me.tcount) →
    (∀ i < nt, ∀ j < nt, name i = name j → i = j) →
    savedVec m + vc * (64 + 16 * s1.me.vclass) ≤ 64 * (s1.frFlags fa % 2 ^ 9) →
    ∃ t, exec (.fpub a b) s = .next t ∧ t.me.pc = s1.me.pc + 4 ∧ t.me.regs = s1.me.regs ∧
      t.frSmask fa = m ∧ t.frVclass fa = s1.me.vclass ∧ t.frVcnt fa = vc ∧ t.frNT fa = nt ∧
      (∀ i < nt, t.frTname fa i = name i) ∧
      ∀ j, 1 ≤ j → j < 32 → m.testBit j = true → FMap.find (t.savedRegs fa) j = some (s1.me.reg j)

/-- R104, R105, R150: launch completes with a status in its destination: -0x13 for a misaligned record; minus the number
of the first admission check that fails, with no other effect but that of a nonce whose seal was good (R108); otherwise
what admission gives. -/
def Obligations.LaunchInstruction : Prop :=
  ∀ (d a : BitVec 5) (s : State),
    ((s.reg a).toNat % 256 ≠ 0 → ∃ t, exec (.launch d a) s = .next t ∧ wroteReg s t d.toNat (BitVec.ofInt 64 (-0x13)) 4) ∧
    (∀ cs s2 c s3, (s.reg a).toNat % 256 = 0 → mayRelease s 3 →
      (released s 3).resolve (released s 3).cur accRead true true (s.reg a).toNat 256 = .ok cs s2 →
      s2.readChunks s2.cur accRead cs = .ok c s3 →
      let s4 := (s3.setReg d 0).advance 4
      (∀ n, s4.failedCheck c s4.me.asid s4.me.sup true = some n → s3.me.mode = .running →
        let asid := resolvedAsid c s3.me.asid
        ∃ t, exec (.launch d a) s = .next t ∧
          wroteReg (s3.acceptNonce c asid (decide (asid = s3.me.asid)) (some n)) t d.toNat (BitVec.ofInt 64 (-n)) 4) ∧
      (((s4.launchFrom c).2.slotAt s3.cur).mode = .running →
        exec (.launch d a) s = .next ((s4.launchFrom c).2.setRegN s3.cur d.toNat (s4.launchFrom c).1)) ∧
      (((s4.launchFrom c).2.slotAt s3.cur).mode ≠ .running → exec (.launch d a) s = .next (s4.launchFrom c).2))

/-- R151 to R153: donate sends its descriptor after a release of system scope; dtake and dtake.try give 2 on a queue that
is not open for the launch and 0 with the oldest descriptor stored; on an empty queue dtake.try gives 1 and dtake parks; a
dtake that waited for a page with a descriptor takes the oldest of its queue, that one among them, and then other takers are
served (log 67). dqstat gives the status of the queue it names. -/
def Obligations.DonationInstructions : Prop :=
  ∀ (d a b : BitVec 5) (s : State),
    (∀ cs s2 desc s3, (s.reg a).toNat % 64 = 0 → mayRelease s 4 →
      (released s 4).resolve (released s 4).cur accRead true true (s.reg a).toNat 64 = .ok cs s2 →
      s2.readChunks s2.cur accRead cs = .ok desc s3 →
      ∃ t, exec (.donate a b) s = .next t ∧ { t with donOut := s3.donOut, slots := s3.slots } = s3 ∧
        { t.me with pc := s3.me.pc } = s3.me ∧ t.me.pc = s3.me.pc + 4 ∧
        t.donOut = s3.donOut ++ [(s3.cur, s3.me.lid, (s.reg b).toNat, desc)]) ∧
    (∀ s0, actsFrom (.dtake d a b) s s0 → (s0.reg a).toNat % 64 = 0 →
      let q := (s0.reg b).toNat % 16
      ((s0.donqAt q).lid ≠ some s0.me.lid → (∃ t, exec (.dtakeTry d a b) s = .next t ∧ wroteReg s0 t d.toNat 2 4) ∧
        (s.me.inHandler = false → s.me.got = none → ∃ t, exec (.dtake d a b) s = .next t ∧ wroteReg s0 t d.toNat 2 4)) ∧
      ((s0.donqAt q).lid = some s0.me.lid → (s0.donqAt q).descs = [] →
        (∃ t, exec (.dtakeTry d a b) s = .next t ∧ wroteReg s0 t d.toNat 1 4) ∧
        (s.me.inHandler = false → s.me.got = none →
          exec (.dtake d a b) s = .next (s0.parkAt s0.cur (.donation q) (.dtake d.toNat (s0.reg a).toNat)))) ∧
      (∀ desc rest s1, (s0.donqAt q).lid = some s0.me.lid → (s0.donqAt q).descs = desc :: rest →
        s0.plainStore s0.cur (s0.reg a).toNat desc = .ok () s1 →
        let s2 := (s1.modDonq q fun y => { y with descs := rest }).acquire s1.cur 4
        (∃ t, exec (.dtakeTry d a b) s = .next t ∧ wroteReg s2 t d.toNat 0 4) ∧
        (s.me.inHandler = false → s.me.got = none →
          ∃ t, exec (.dtake d a b) s = .next t ∧ wroteReg s2 t d.toNat 0 4))) ∧
    (∀ q0 mine s0 desc rest s1, s.me.got = some (q0, mine) → s.me.inHandler = false →
      let s' := s.ungive s.cur
      let q := (s0.reg b).toNat % 16
      s'.me.got = none ∧
      ((s.donqAt q0).lid = some s.me.lid → (s'.donqAt q0).descs = mine :: (s.donqAt q0).descs) ∧
      (actsFrom (.dtake d a b) s' s0 → (s0.reg a).toNat % 64 = 0 → (s0.donqAt q).lid = some s0.me.lid →
        (s0.donqAt q).descs = desc :: rest → s0.plainStore s0.cur (s0.reg a).toNat desc = .ok () s1 →
        let s2 := (s1.modDonq q fun y => { y with descs := rest }).acquire s1.cur 4
        s2.me.mode = .running → s2.cur = s.cur →
        ∃ t, wroteReg s2 t d.toNat 0 4 ∧ exec (.dtake d a b) s = .next (t.serveTakers q0 t.waits.length))) ∧
    (∃ t, exec (.dqstat d a) s = .next t ∧ wroteReg s t d.toNat (s.queueStatus s.cur (s.reg a).toNat) 4)

/-! ### Vector instructions -/

/-- R218, R219, R221 to R243, R247: every vector instruction with a vector destination completes on unbound registers
inside a window that it accepts, when exact mode lets its result through: each active lane of the destination takes its
element, the flags of the active lanes join FLG, and nothing else changes. -/
def Obligations.VectorResults : Prop :=
  ∀ (i : Instr) (s : State) (f : VectorForm),
    let s1 := s.drainCore s.myCore
    vectorForm i s1 s1.me.vreg = some f → windowHolds s.me f.ints (f.dest :: f.reads) →
    exactAllows s1.me f.exact f.flags → ∃ t, exec i s = .next t ∧ wroteLanes s1 t f

/-- R218, R223: a vector instruction without a window raises WIN with code 1, with a register outside the window code 2
and the number of one, with integer lanes at a class below 4 code 3 and the class; in exact mode an inexact result raises
PXH with the class that it needs. A matrix instruction that names a tile outside the window raises WIN with code 8 and the
number of one (R253); with a held destination and accepted tags code 10. -/
def Obligations.WindowTraps : Prop :=
  (∀ (i : Instr) (s : State) (f : VectorForm),
    let s1 := s.drainCore s.myCore
    vectorForm i s1 s1.me.vreg = some f →
    (s.me.vcount = 0 → exec i s = .next (s.takeTrap 0x0A 0 0x100)) ∧
    (s.me.vcount ≠ 0 → (∃ r ∈ f.dest :: f.reads, s.me.vcount ≤ r) →
      ∃ r ∈ f.dest :: f.reads, s.me.vcount ≤ r ∧ exec i s = .next (s.takeTrap 0x0A 0 (BitVec.ofNat 64 (0x200 + r)))) ∧
    (s.me.vcount ≠ 0 → (∀ r ∈ f.dest :: f.reads, r < s.me.vcount) → f.ints = true → s.me.vclass < 4 →
      exec i s = .next (s.takeTrap 0x0A 0 (BitVec.ofNat 64 (0x300 + s.me.vclass)))) ∧
    (windowHolds s.me f.ints (f.dest :: f.reads) → s1.me.exact = true → f.exact = true → f.flags &&& flNX ≠ 0 →
      exec i s = .next (s1.takeTrap 0x07 0 (BitVec.ofNat 64 f.need)))) ∧
  (∀ (i : Instr) (s : State) (f : MatrixForm), matrixForm i (s.drainCore s.myCore) = some f →
    ((∃ r ∈ f.dest :: f.named, s.me.tcount ≤ r) →
      ∃ r ∈ f.dest :: f.named, s.me.tcount ≤ r ∧ exec i s = .next (s.takeTrap 0x0A 0 (BitVec.ofNat 64 (0x800 + r)))) ∧
    ((∀ r ∈ f.dest :: f.named, r < s.me.tcount) → f.accepts = true → (s.tile s.cur f.dest).holds ≠ [] →
      exec i s = .next (s.takeTrap 0x0A 0 (BitVec.ofNat 64 (0xA00 + f.dest)))))

/-- R30, R183, R325, R326: a vector operand that is bound to a read stream is the stream's head vector, which the
instruction pops once, and whose elements it converts at that moment (the model's choice, log 78), with the flags of the
lanes that it examines; a destination that is bound to a write stream takes a whole new vector, with +0 in inactive lanes.
This holds for the vector instructions, compares, vext, vector loads and stores, described ones, vqnt and accumulates, with
each of their operands bound or not. In exact mode they complete when neither a conversion nor the result is inexact (vqnt
always); an inexact conversion raises PXH with a class that is no smaller than it needs, and pops nothing. -/
def Obligations.StreamOperands : Prop :=
  (∀ (i : Instr) (s : State) (f : VectorForm),
    let s1 := s.drainCore s.myCore
    let h := headFlags s1 f.reads f.act
    vectorForm i s1 s1.vin = some f → windowTakes s.me f.ints (f.dest :: f.reads) → streamsReady s1 f.reads [f.dest] →
    (exactTakes s1.me h f.exact f.flags →
      ∃ t, exec i s = .next t ∧ t.me.pc = s1.me.pc + BitVec.ofNat 64 f.size ∧ t.me.regs = s1.me.regs ∧
        t.me.masks = s1.me.masks ∧ t.me.flg = s1.me.flg ||| f.flags ||| h ∧ popped s1 t f.reads ∧
        (∀ e st, s1.boundStream s1.cur f.dest = some (e, st) → t.me.vregs = s1.me.vregs) ∧
        appended s1 t f.dest f.mask (fun j => (f.lane j).1) ∧
        (s1.boundStream s1.cur f.dest = none → ∀ r j, j < 32 → laneOf (t.me.vreg r) j =
          if r = f.dest ∧ f.mask.getLsbD j = true then (f.lane j).1 else laneOf (s1.me.vreg r) j)) ∧
    (s1.me.exact = true → h &&& flNX ≠ 0 →
      ∃ c, min 16 (headNeed s1 f.reads f.act) ≤ c ∧ exec i s = .next (s1.takeTrap 0x07 0 (BitVec.ofNat 64 c)))) ∧
  (∀ (i : Instr) (s : State) (f : CompareForm),
    let s1 := s.drainCore s.myCore
    let h := headFlags s1 f.reads fun _ => f.mask
    let n := headNeed s1 f.reads fun _ => f.mask
    compareForm i s1 s1.vin = some f → windowTakes s.me f.ints f.reads → streamsReady s1 f.reads [] →
    (exactTakes s1.me h false 0 →
      ∃ t v, exec i s = .next t ∧ (∀ j, j < 32 → v.getLsbD j = (f.mask.getLsbD j && f.holds j)) ∧
        (∀ r, t.me.mask r = if r = f.dest ∧ r ≠ 0 then v else s1.me.mask r) ∧ popped s1 t f.reads ∧ bytesKept s1 t ∧
        t.me.flg = s1.me.flg ||| (if (List.range 32).any fun j => f.mask.getLsbD j && f.invalid j then flNV else 0) ||| h ∧
        t.me.pc = s1.me.pc + 4 ∧ { t.me with masks := s1.me.masks, flg := s1.me.flg, pc := s1.me.pc } = s1.me) ∧
    (s1.me.exact = true → h &&& flNX ≠ 0 →
      exec i s = .next (s1.takeTrap 0x07 0 (BitVec.ofNat 64 (if 15 < n then 16 else n))))) ∧
  (∀ (d a b : BitVec 6) (cv : BitVec 3) (s : State),
    let s1 := s.drainCore s.myCore
    let j := (s.me.reg b.toNat).toNat % 32
    let l := laneOf (s1.vin a.toNat) j
    let r := convert fmtB64 s1.me.rnd (decodeLane s1.me.vclass l)
    let h := headFlags s1 [a.toNat] fun _ => BitVec.ofNat 32 (2 ^ j)
    let w : Word := if cv = 0 then BitVec.ofNat 64 (l.toNat % 2 ^ min (16 + 4 * s1.me.vclass) 64)
      else BitVec.ofNat 64 (plainEncode 64 52 r.1)
    windowTakes s.me false [a.toNat] → streamsReady s1 [a.toNat] [] → exactTakes s1.me h (cv ≠ 0) r.2 →
    ∃ t, exec (.vext d a b cv) s = .next t ∧ popped s1 t [a.toNat] ∧ bytesKept s1 t ∧
      (∀ q, t.me.reg q = if q = d.toNat ∧ q ≠ 0 then w else s1.me.reg q) ∧
      t.me.flg = s1.me.flg ||| (if cv = 0 then 0 else r.2) ||| h ∧ t.me.pc = s1.me.pc + 4 ∧
      { t.me with regs := s1.me.regs, flg := s1.me.flg, pc := s1.me.pc } = s1.me) ∧
  (∀ (i : Instr) (s s0 s2 : State) (a : LaneAccess) (es : List (Nat × Nat)), actsFrom i s s0 →
    let bound := (s0.boundStream s0.cur a.v).isSome
    let s1 := if bound then s0.drainCore s0.myCore
      else s0.stepWides s0.myCore fun e => e.tid = s0.cur && a.idx.contains e.vd
    let m := s1.me.mask a.k
    let h := headFlags s1 a.idx fun _ => m
    vldForm i s1 = some a → windowTakes s0.me (intType a.ty || a.idx ≠ []) (a.v :: a.idx) → streamsReady s1 a.idx [a.v] →
    s1.loadLanes (elemBytes a.ty) a.addr (lanesOf m) = .ok es s2 → streamsReady s2 a.idx [a.v] →
    let f (j : Nat) : LaneOut := loadElem a.ty s2.me.vclass s2.me.L s2.me.rnd (FMap.getD es j 0)
    let fl := flagsOver (lanesOf m) f
    exactTakes s1.me h true fl →
    (s2.boundStream s2.cur a.v ≠ none → bound = true →
      ∃ t, exec i s = .next t ∧ poppedOn s2 t a.idx (fl ||| h) ∧ appended s2 t a.v m fun j => (f j).1) ∧
    (s2.boundStream s2.cur a.v = none → bound = false → queueRoom s2 →
      ∃ t, exec i s = .next t ∧ loadedWith s2 t a.v m f h ∧ popped s2 t a.idx)) ∧
  (∀ (i : Instr) (s s0 s2 : State) (a : LaneAccess) (ls : List (Nat × List Chunk)), actsFrom i s s0 →
    let s1 := s0.drainCore s0.myCore
    let m := s1.me.mask a.k
    let h := headFlags s1 (a.v :: a.idx) fun _ => m
    vstForm i s1 = some a → windowTakes s0.me (intType a.ty || a.idx ≠ []) (a.v :: a.idx) →
    streamsReady s1 (a.v :: a.idx) [] → exactTakes s1.me h false 0 →
    s1.storeLanes (elemBytes a.ty) a.addr (lanesOf m) = .ok ls s2 →
    let e (j : Nat) : Nat × Flags := storeElem a.ty s2.me.vclass s2.me.rnd (laneOf (s2.vin a.v) j)
    let s3 := ls.foldl (fun s p => (s.syncAmo s.cur p.2).postChunks s.cur p.2 (leBytes (elemBytes a.ty) (e p.1).1)) s2
    streamsReady s3 (a.v :: a.idx) [] →
    ∃ t, exec i s = .next t ∧ poppedOn s3 t (a.v :: a.idx) (ls.foldl (fun f p => f ||| (e p.1).2) 0 ||| h)) ∧
  (∀ (v : BitVec 6) (b x : BitVec 5) (k : BitVec 3) (s : State),
    let f := wantedFmt (s.reg x)
    let i0 := firstElem (s.reg x)
    let base := s.reg b
    (∀ s0 bs s2, actsFrom (.vldd v b x k) s s0 → windowTakes s0.me false [v.toNat] → loadableFmt f →
      (s0.boundStream s0.cur v.toNat).isSome = true →
      let s1 := s0.drainCore s0.myCore
      let m := s1.me.mask k.toNat
      streamsReady s1 [] [v.toNat] →
      s1.readBlocks 0 f base true (blocksOf f i0 (lanesOf m)) = .ok bs s2 →
      streamsReady s2 [] [v.toNat] → s2.boundStream s2.cur v.toNat ≠ none →
      let g (j : Nat) : LaneOut := s2.me.roundLane
        ((((FMap.getD bs ((i0 + j) / fmtK f) none).getD emptyBlock).elem ((i0 + j) % fmtK f)).toRes)
      exactTakes s1.me 0 true (flagsOver (lanesOf m) g) →
      ∃ t, exec (.vldd v b x k) s = .next t ∧ poppedOn s2 t [] (flagsOver (lanesOf m) g) ∧
        appended s2 t v.toNat m fun j => (g j).1) ∧
    (∀ s0 locs s2, actsFrom (.vstd v b x k) s s0 → windowTakes s0.me false [v.toNat] →
      let s1 := s0.drainCore s0.myCore
      let m := s1.me.mask k.toNat
      let h := headFlags s1 [v.toNat] fun _ => m
      streamsReady s1 [v.toNat] [] →
      fmtIsVlf f = true → blockPlaces s1 1 base (blocksOf f i0 (List.range 32)) = .ok locs s2 →
      let o (n : Nat) := vstdBlock s2.me.rnd (f - 0x10) ((List.range (fmtK f)).map (slotValue s2 v.toNat m f i0 n))
      let fl := locs.foldl (fun a p => a ||| (o p.1).2) 0
      let s3 := postAll s2 (locs.map fun p => (p.2, (o p.1).1))
      exactTakes s1.me h true fl → streamsReady s3 [v.toNat] [] →
      ∃ t, exec (.vstd v b x k) s = .next t ∧ poppedOn s3 t [v.toNat] (fl ||| h)) ∧
    (∀ s0 olds locs s2 s3, actsFrom (.vstdp v b x k) s s0 → windowTakes s0.me false [v.toNat] →
      let s1 := s0.drainCore s0.myCore
      let m := s1.me.mask k.toNat
      let h := headFlags s1 [v.toNat] fun _ => s3.me.mask k.toNat
      streamsReady s1 [v.toNat] [] → fmtIsVlf f = true →
      s1.readBlocks 3 f base false (blocksOf f i0 (lanesOf m)) = .ok olds s2 →
      blockPlaces s2 3 base (blocksOf f i0 (lanesOf m)) = .ok locs s3 →
      let o (n : Nat) := vstdBlock s3.me.rnd (f - 0x10) ((List.range (fmtK f)).map fun e =>
        match (lanesOf m).find? fun j => (i0 + j) / fmtK f = n && (i0 + j) % fmtK f = e with
        | some j => laneVal s3.me.vclass (s3.vin v.toNat) j
        | none => ((FMap.getD olds n none).getD emptyBlock).elem e)
      let fl := locs.foldl (fun a p => a ||| (o p.1).2) 0
      let s4 := postAll s3 (locs.map fun p => (p.2, (o p.1).1))
      exactTakes s1.me h true fl → streamsReady s4 [v.toNat] [] →
      ∃ t, exec (.vstdp v b x k) s = .next t ∧ poppedOn s4 t [v.toNat] (fl ||| h)) ∧
    (∀ n s0 loc s2, (n = 2 ∨ n = 4) → actsFrom (if n = 2 then .vqntPeb7 v b else .vqntPeb3 v b) s s0 →
      let rs := (List.range n).map fun r => v.toNat + r
      windowTakes s0.me false rs →
      let s1 := s0.drainCore s0.myCore
      let h := headFlags s1 rs fun _ => allLanes
      streamsReady s1 rs [] → s1.blockLoc s1.cur 1 cFORMAT (blockPlace (s1.reg b) 0) = .ok loc s2 →
      let xs := rs.flatMap fun r => (List.range 32).map fun j => laneVal s2.me.vclass (s2.vin r) j
      let o := vqntBlock (n = 2) xs
      let s3 := postAll s2 [(loc, o.1)]
      streamsReady s3 rs [] →
      ∃ t, exec (if n = 2 then .vqntPeb7 v b else .vqntPeb3 v b) s = .next t ∧ poppedOn s3 t rs (o.2 ||| h)) ∧
    (∀ (ty : BitVec 3) (s0 s2 : State) (lo pa ck g dom : Nat), actsFrom (.acc v b k ty) s s0 →
      let s1 := s0.drainCore s0.myCore
      let t := ty.toNat
      let n := if t = 0 ∨ t = 2 then 4 else 8
      let va := (s1.reg b).toNat
      let m := s1.me.mask k.toNat
      let js := lanesOf m
      let h := headFlags s1 [v.toNat] fun _ => m
      windowTakes s0.me (t < 2) [v.toNat] → streamsReady s1 [v.toNat] [] → exactTakes s1.me h false 0 →
      va % (32 * n) = 0 → (js = [] → ∃ r, exec (.acc v b k ty) s = .next r ∧ poppedOn s1 r [v.toNat] 0) ∧
      (js.head? = some lo →
      s1.accTarget (va + lo * n) n false = .ok (pa + lo * n, ck, g, dom) s2 →
      let u := if g = 5 then 32 else 64
      let el (j : Nat) := accElem t s2.me.vclass (laneOf (s2.vin v.toNat) j)
      let s3 := ((js.map fun j => j * n / u).eraseDups).foldl (fun s q =>
        s.issueAcc s.cur (pa + q * u) (va + q * u) ck g dom
          (.plain n (2 ≤ t) ((js.filter fun j => j * n / u = q).map fun j => (j - q * (u / n), (el j).1)))) s2
      streamsReady s3 [v.toNat] [] →
      ∃ r, exec (.acc v b k ty) s = .next r ∧ poppedOn s3 r [v.toNat] (js.foldl (fun f j => f ||| (el j).2) 0 ||| h))) ∧
    (∀ (s0 s2 : State) (ts : List (Nat × Nat × Nat × Nat × Nat)), actsFrom (.accD v b x k) s s0 →
      let s1 := s0.drainCore s0.myCore
      let m := s1.me.mask k.toNat
      let js := lanesOf m
      let h := headFlags s1 [v.toNat] fun _ => m
      windowTakes s0.me false [v.toNat] → streamsReady s1 [v.toNat] [] → exactTakes s1.me h false 0 → addableFmt f →
      Run.mapList (fun q s => (s.accTarget (blockPlace base q) 64 true).bind fun r s2 => .ok (q, r) s2)
        (blocksOf f i0 js) s1 = .ok ts s2 →
      let val (j : Nat) := laneVal s2.me.vclass (s2.vin v.toNat) j
      let kept := if fmtIsVlf f then js else js.filter fun j => !unfit (val j)
      let s3 := ts.foldl (fun s p =>
        let mine := (kept.filter fun j => (i0 + j) / fmtK f = p.1).map fun j => ((i0 + j) % fmtK f, val j)
        if mine = [] then s
        else s.issueAcc s.cur p.2.1 (blockPlace base p.1) p.2.2.1 p.2.2.2.1 p.2.2.2.2 (.desc f mine)) s2
      streamsReady s3 [v.toNat] [] →
      ∃ r, exec (.accD v b x k) s = .next r ∧
        poppedOn s3 r [v.toNat] ((if kept.length < js.length then flNV else 0) ||| h)))

/-- R219, R227, R230, R235, R242: compares and mask instructions complete and write one mask register; in a compare every
inactive lane gets 0. ksf and vext complete with a mask and a lane in a scalar register. -/
def Obligations.MaskAndLaneResults : Prop :=
  (∀ (i : Instr) (s : State) (f : CompareForm),
    let s1 := s.drainCore s.myCore
    compareForm i s1 s1.me.vreg = some f → windowHolds s.me f.ints f.reads →
    ∃ t v, exec i s = .next t ∧ (∀ j, j < 32 → v.getLsbD j = (f.mask.getLsbD j && f.holds j)) ∧
      wroteMask s1 t f.dest v (if (List.range 32).any fun j => f.mask.getLsbD j && f.invalid j then flNV else 0)) ∧
  (∀ (i : Instr) (s : State) (d : Nat) (v : BitVec 32),
    let s1 := s.drainCore s.myCore
    maskValue i s1.me = some (d, v) → ∃ t, exec i s = .next t ∧ wroteMask s1 t d v 0) ∧
  (∀ (d a : BitVec 6) (s : State),
    let s1 := s.drainCore s.myCore
    ∃ t, exec (.ksf d a) s = .next t ∧ wroteReg s1 t d.toNat (BitVec.ofNat 64 (s1.me.mask a.toNat).toNat) 4) ∧
  (∀ (d a b : BitVec 6) (cv : BitVec 3) (s : State), windowHolds s.me false [a.toNat] →
    let s1 := s.drainCore s.myCore
    let l := laneOf (s1.me.vreg a.toNat) ((s.me.reg b.toNat).toNat % 32)
    let r := convert fmtB64 s1.me.rnd (decodeLane s1.me.vclass l)
    (cv = 0 → ∃ t, exec (.vext d a b cv) s = .next t ∧
      wroteReg s1 t d.toNat (BitVec.ofNat 64 (l.toNat % 2 ^ min (16 + 4 * s1.me.vclass) 64)) 4) ∧
    (cv ≠ 0 → exactAllows s1.me true r.2 → ∃ t, exec (.vext d a b cv) s = .next t ∧
      wroteReg (s1.orFlags s1.cur r.2) t d.toNat (BitVec.ofNat 64 (plainEncode 64 52 r.1)) 4))

/-! ### Vector memory -/

/-- R195, R246, R312 to R315: vld and vst complete in each mode when the accesses of their active lanes are accepted. A load
waits for the loads that write its index register, and its data joins the core's wide queue when that has room, in exact
mode if it is exact; a store posts its elements lane by lane, rising, and its conversion flags join FLG. -/
def Obligations.VectorMemory : Prop :=
  (∀ (i : Instr) (s s0 s2 : State) (a : LaneAccess) (es : List (Nat × Nat)), actsFrom i s s0 →
    let s1 := s0.stepWides s0.myCore fun e => e.tid = s0.cur && a.idx.contains e.vd
    let m := s1.me.mask a.k
    vldForm i s1 = some a → windowHolds s0.me (intType a.ty || a.idx ≠ []) (a.v :: a.idx) →
    s1.loadLanes (elemBytes a.ty) a.addr (lanesOf m) = .ok es s2 → s2.me.binds = [] → queueRoom s2 →
    let f (j : Nat) : LaneOut := loadElem a.ty s2.me.vclass s2.me.L s2.me.rnd (FMap.getD es j 0)
    (s1.me.exact = true → flagsOver (lanesOf m) f &&& flNX = 0) →
    ∃ t, exec i s = .next t ∧ loadedLanes s2 t a.v m f) ∧
  (∀ (i : Instr) (s s0 s2 : State) (a : LaneAccess) (ls : List (Nat × List Chunk)), actsFrom i s s0 →
    let s1 := s0.drainCore s0.myCore
    vstForm i s1 = some a → windowHolds s0.me (intType a.ty || a.idx ≠ []) (a.v :: a.idx) →
    s1.storeLanes (elemBytes a.ty) a.addr (lanesOf (s1.me.mask a.k)) = .ok ls s2 → s2.me.binds = [] →
    let e (j : Nat) : Nat × Flags := storeElem a.ty s2.me.vclass s2.me.rnd (laneOf (s2.me.vreg a.v) j)
    let s3 := ls.foldl (fun s p => (s.syncAmo s.cur p.2).postChunks s.cur p.2 (leBytes (elemBytes a.ty) (e p.1).1)) s2
    s3.me.binds = [] → ∃ t, exec i s = .next t ∧ flaggedOn s3 t (ls.foldl (fun f p => f ||| (e p.1).2) 0))

/-- R316 to R321: the described accesses complete when every block that they reach is accepted. vldd takes element
(i0 + lane) mod K of its block, vstd and vstdp write whole blocks with a new SCL (vstdp keeps the elements that no active
lane names), vqnt writes one block from two or four registers. -/
def Obligations.DescribedMemory : Prop :=
  ∀ (v : BitVec 6) (b x : BitVec 5) (k : BitVec 3) (s : State),
    let f := wantedFmt (s.reg x)
    let i0 := firstElem (s.reg x)
    let base := s.reg b
    (∀ s0 bs s2, actsFrom (.vldd v b x k) s s0 → windowHolds s0.me false [v.toNat] → loadableFmt f →
      let m0 := s0.me.mask k.toNat
      s0.readBlocks 0 f base true (blocksOf f i0 (lanesOf m0)) = .ok bs s2 →
      s2.me.binds = [] → queueRoom s2 →
      let g (j : Nat) : LaneOut := s2.me.roundLane
        ((((FMap.getD bs ((i0 + j) / fmtK f) none).getD emptyBlock).elem ((i0 + j) % fmtK f)).toRes)
      (s0.me.exact = true → flagsOver (lanesOf m0) g &&& flNX = 0) →
      ∃ t, exec (.vldd v b x k) s = .next t ∧ loadedLanes s2 t v.toNat m0 g) ∧
    (∀ s0 locs s2, actsFrom (.vstd v b x k) s s0 → windowHolds s0.me false [v.toNat] →
      let s1 := s0.drainCore s0.myCore
      let m := s1.me.mask k.toNat
      fmtIsVlf f = true → blockPlaces s1 1 base (blocksOf f i0 (List.range 32)) = .ok locs s2 →
      let o (n : Nat) := vstdBlock s2.me.rnd (f - 0x10) ((List.range (fmtK f)).map (slotValue s2 v.toNat m f i0 n))
      let fl := locs.foldl (fun a p => a ||| (o p.1).2) 0
      let s3 := postAll s2 (locs.map fun p => (p.2, (o p.1).1))
      (s1.me.exact = true → fl &&& flNX = 0) → s3.me.binds = [] →
      ∃ t, exec (.vstd v b x k) s = .next t ∧ flaggedOn s3 t fl) ∧
    (∀ s0 olds locs s2 s3, actsFrom (.vstdp v b x k) s s0 → windowHolds s0.me false [v.toNat] →
      let s1 := s0.drainCore s0.myCore
      let m := s1.me.mask k.toNat
      fmtIsVlf f = true →
      s1.readBlocks 3 f base false (blocksOf f i0 (lanesOf m)) = .ok olds s2 →
      blockPlaces s2 3 base (blocksOf f i0 (lanesOf m)) = .ok locs s3 →
      let o (n : Nat) := vstdBlock s3.me.rnd (f - 0x10) ((List.range (fmtK f)).map fun e =>
        match (lanesOf m).find? fun j => (i0 + j) / fmtK f = n && (i0 + j) % fmtK f = e with
        | some j => laneVal s3.me.vclass (s3.vin v.toNat) j
        | none => ((FMap.getD olds n none).getD emptyBlock).elem e)
      let fl := locs.foldl (fun a p => a ||| (o p.1).2) 0
      let s4 := postAll s3 (locs.map fun p => (p.2, (o p.1).1))
      (s1.me.exact = true → fl &&& flNX = 0) → s4.me.binds = [] →
      ∃ t, exec (.vstdp v b x k) s = .next t ∧ flaggedOn s4 t fl) ∧
    (∀ n s0 loc s2, (n = 2 ∨ n = 4) → actsFrom (if n = 2 then .vqntPeb7 v b else .vqntPeb3 v b) s s0 →
      windowHolds s0.me false ((List.range n).map fun r => v.toNat + r) →
      let s1 := s0.drainCore s0.myCore
      s1.blockLoc s1.cur 1 cFORMAT (blockPlace (s1.reg b) 0) = .ok loc s2 →
      let xs := (List.range n).flatMap fun r => (List.range 32).map fun j => laneVal s2.me.vclass (s2.vin (v.toNat + r)) j
      let o := vqntBlock (n = 2) xs
      let s3 := postAll s2 [(loc, o.1)]
      s3.me.binds = [] →
      ∃ t, exec (if n = 2 then .vqntPeb7 v b else .vqntPeb3 v b) s = .next t ∧ flaggedOn s3 t o.2)

/-- R353, R354: acc and acc.d complete when their target is accepted. acc with no active lane touches no unit and sets no
flag; otherwise it issues one request for each unit that an active lane adds to, with those lanes' elements; acc.d one for each block, with the exact values of its lanes, where NaNs and
infinities give NV and add nothing to an integer target. -/
def Obligations.VectorAccumulates : Prop :=
  (∀ (v : BitVec 6) (b : BitVec 5) (k ty : BitVec 3) (s s0 : State), actsFrom (.acc v b k ty) s s0 →
    let s1 := s0.drainCore s0.myCore
    let n := if ty.toNat = 0 ∨ ty.toNat = 2 then 4 else 8
    windowHolds s0.me (ty.toNat < 2) [v.toNat] → (s1.reg b).toNat % (32 * n) = 0 → lanesOf (s1.me.mask k.toNat) = [] →
    s1.me.binds = [] → ∃ r, exec (.acc v b k ty) s = .next r ∧ flaggedOn s1 r 0) ∧
  (∀ (v : BitVec 6) (b : BitVec 5) (k ty : BitVec 3) (s s0 s2 : State) (lo pa ck g dom : Nat), actsFrom (.acc v b k ty) s s0 →
    let s1 := s0.drainCore s0.myCore
    let t := ty.toNat
    let n := if t = 0 ∨ t = 2 then 4 else 8
    let va := (s1.reg b).toNat
    let js := lanesOf (s1.me.mask k.toNat)
    windowHolds s0.me (t < 2) [v.toNat] → va % (32 * n) = 0 → js.head? = some lo →
    s1.accTarget (va + lo * n) n false = .ok (pa + lo * n, ck, g, dom) s2 →
    let u := if g = 5 then 32 else 64
    let el (j : Nat) := accElem t s2.me.vclass (laneOf (s2.vin v.toNat) j)
    let s3 := ((js.map fun j => j * n / u).eraseDups).foldl (fun s q =>
      s.issueAcc s.cur (pa + q * u) (va + q * u) ck g dom
        (.plain n (2 ≤ t) ((js.filter fun j => j * n / u = q).map fun j => (j - q * (u / n), (el j).1)))) s2
    s3.me.binds = [] →
    ∃ r, exec (.acc v b k ty) s = .next r ∧ flaggedOn s3 r (js.foldl (fun f j => f ||| (el j).2) 0)) ∧
  (∀ (v : BitVec 6) (b x : BitVec 5) (k : BitVec 3) (s s0 s2 : State) (ts : List (Nat × Nat × Nat × Nat × Nat)),
    actsFrom (.accD v b x k) s s0 →
    let s1 := s0.drainCore s0.myCore
    let f := wantedFmt (s.reg x)
    let i0 := firstElem (s.reg x)
    let base := s.reg b
    let js := lanesOf (s1.me.mask k.toNat)
    windowHolds s0.me false [v.toNat] → addableFmt f →
    Run.mapList (fun q s => (s.accTarget (blockPlace base q) 64 true).bind fun r s2 => .ok (q, r) s2)
      (blocksOf f i0 js) s1 = .ok ts s2 →
    let val (j : Nat) := laneVal s2.me.vclass (s2.vin v.toNat) j
    let kept := if fmtIsVlf f then js else js.filter fun j => !unfit (val j)
    let s3 := ts.foldl (fun s p =>
      let mine := (kept.filter fun j => (i0 + j) / fmtK f = p.1).map fun j => ((i0 + j) % fmtK f, val j)
      if mine = [] then s
      else s.issueAcc s.cur p.2.1 (blockPlace base p.1) p.2.2.1 p.2.2.2.1 p.2.2.2.2 (.desc f mine)) s2
    s3.me.binds = [] →
    ∃ r, exec (.accD v b x k) s = .next r ∧ flaggedOn s3 r (if kept.length < js.length then flNV else 0))

/-! ### Streams, windows and tiles -/

/-- R183, R323, R327: sbind of an accepted record binds the register to a free engine that starts at its first element;
sunbind of a register that is not bound changes nothing but the pc, and one whose stream has settled releases it; sstat
completes with the status of the binding, 0 when there is none. Each acts behind the entries of its core's wide queue (R195). -/
def Obligations.StreamBindings : Prop :=
  ∀ (v : BitVec 6) (a : BitVec 5) (s : State),
    let s1 := s.drainCore s.myCore
    (∀ s0 cs s2 b s3 e, actsFrom (.sbind v a) s s0 → (s.reg a).toNat % 64 = 0 →
      (s0.drainCore s0.myCore).resolve s0.cur 0 true false (s.reg a).toNat 64 = .ok cs s2 →
      (s2.syncAmo s2.cur cs).readChunks s2.cur 0 cs = .ok b s3 → bindable s3.me v.toNat b →
      (s3.coreAt s3.myCore).freeEngine = some e →
      ∃ t, exec (.sbind v a) s = .next t ∧ t.me.pc = s3.me.pc + 4 ∧ t.me.regs = s3.me.regs ∧ t.me.vregs = s3.me.vregs ∧
        (∀ w, FMap.find t.me.binds w = if w = v.toNat then some e else FMap.find s3.me.binds w) ∧
        (∀ f, FMap.find (t.coreAt s3.myCore).streams f =
          if f = e then some (newStream s3.cur v.toNat (streamRecOf b)) else FMap.find (s3.coreAt s3.myCore).streams f)) ∧
    (FMap.find s1.me.binds v.toNat = none →
      ∃ t, exec (.sunbind v) s = .next t ∧ wentTo s1 t (s1.me.pc + 4)) ∧
    (∀ s2, s1.readyClose v.toNat = .ok () s2 →
      ∃ t, exec (.sunbind v) s = .next t ∧ wentTo (s2.unbind s2.cur v.toNat) t ((s2.unbind s2.cur v.toNat).me.pc + 4)) ∧
    (∃ t, exec (.sstat v a) s = .next t ∧ wroteReg s1 t a.toNat
      (match s1.boundStream s1.cur v.toNat with
        | none => 0
        | some (e, st) => BitVec.ofNat 64 (boundStatus e st)) 4)

/-- R180, R181, R245, R271, R272: vwin and twin complete when the pool covers them and no earlier request waits. The
window has the count and class asked for; registers of the old window below the count keep their values, converted to the
class, and new ones read +0. A vwin that would leave a bound register outside raises WIN with code 6 and the number of one;
tiles below the count stay, and new ones are zero ACC32 tiles. Vector loads of sibling slots that are in the core's wide
queue complete before a vwin (R195). mstat completes with the status of its tile. -/
def Obligations.WindowChanges : Prop :=
  (∀ (i : Instr) (s : State) (c n : Nat), windowAsked i s = some (c, n) → windowServed s c n →
    let s1 := s.orderVwin s.cur
    (∀ e ∈ s1.me.vregs, FMap.sorted e.2 = true) →
    ∃ t, exec i s = .next t ∧ t.me.vcount = c ∧ t.me.vclass = (if c = 0 then 0 else n) ∧ t.me.pc = s.me.pc + 4 ∧
      t.me.regs = s.me.regs ∧ t.me.masks = s.me.masks ∧
      ∀ j l, j < c → laneOf (t.me.vreg j) l =
        if j < s.me.vcount then (reclass s.me.vclass n s.me.rnd (laneOf (s1.me.vreg j) l)).1 else 0) ∧
  (∀ (i : Instr) (s : State) (c n : Nat), windowAsked i s = some (c, n) → (∃ b ∈ s.me.binds, c ≤ b.1) →
    ∃ b ∈ s.me.binds, c ≤ b.1 ∧ exec i s = .next (s.takeTrap 0x0A 0 (BitVec.ofNat 64 (0x600 + b.1)))) ∧
  (∀ (i : Instr) (s : State) (c : Nat), tilesAsked i s = some c → tilesServed s c →
    ∃ t, exec i s = .next t ∧ t.me.tcount = c ∧ t.me.pc = s.me.pc + 4 ∧ t.me.regs = s.me.regs ∧
      ∀ j, j < c → t.tile s.cur j = if j < s.me.tcount then s.tile s.cur j else {}) ∧
  (∀ (d : BitVec 5) (a : BitVec 4) (s : State),
    let s1 := s.drainCore s.myCore
    let y := s1.tile s1.cur a.toNat
    let low := if a.toNat < s1.me.tcount then
        y.tag + 2 ^ 3 * b2n (!y.holds.isEmpty) + 2 ^ 4 * b2n ((List.range 32).any fun r => (y.sideBytes r).getD 6 0 ≠ 0) + 2 ^ 5
      else 0
    ∃ t, exec (.mstat d a) s = .next t ∧ wroteReg s1 t d.toNat
      (BitVec.ofNat 64 (low + 2 ^ 12 * s1.me.tcount + 2 ^ 24 * (64 - (s1.coreAt s1.myCore).tas.length))) 4)

/-- R249, R250, R253 to R263: a matrix instruction whose tiles lie in the window with tags that it accepts completes. Its
destination has the tag and the elements that the manual gives, with a zero sideband; the flags join FLG; every other tile
is as before. -/
def Obligations.MatrixResults : Prop :=
  ∀ (i : Instr) (s : State) (f : MatrixForm),
    let s1 := s.drainCore s.myCore
    matrixForm i s1 = some f → tilesHold s f.dest f.named → f.accepts = true →
    ∃ t, exec i s = .next t ∧ tileIs (t.tile s.cur f.dest) f.tag (fun r c => (f.elem r c).1) ∧
      t.me = { s1.me with flg := s1.me.flg ||| f.flags, pc := s1.me.pc + 4 } ∧
      (∀ u, u ≠ s.cur → t.slotAt u = s1.slotAt u) ∧ otherTilesKept s1 t f.dest ∧ bytesKept s1 t

/-- R264, R265: mldt and mstt complete when the rows are accepted. The loaded tile has the rows' bytes, its sideband and
the tag asked for; a stored tile's rows are posted in order. -/
def Obligations.TileAccesses : Prop :=
  ∀ (d : BitVec 4) (b stride : BitVec 5) (tag : BitVec 4) (s : State),
    let g := tag.toNat
    (∀ s0 rows s2, actsFrom (.mldt d b stride tag) s s0 → d.toNat < s0.me.tcount → (s0.tile s0.cur d.toNat).holds = [] →
      let s1 := s0.drainCore s0.myCore
      let at_ (r : Nat) := s1.rowAddr b stride g r
      (if g = tPEB7 ∨ g = tPEB3 then s1.pebRows g ((List.range 32).map at_)
        else s1.plainRows ((List.range 32).map at_)) = .ok rows s2 →
      rows.length = 32 → (∀ p ∈ rows, p.1.length = 128 ∧ p.2.length = 8) → FMap.find s2.me.tmap d.toNat ≠ none →
      s2.cur = s.cur →
      ∃ t, exec (.mldt d b stride tag) s = .next t ∧ t.me.pc = s2.me.pc + 4 ∧ { t.me with pc := s2.me.pc } = s2.me ∧
        (t.tile s.cur d.toNat).tag = g ∧
        ∀ r, r < 32 → (t.tile s.cur d.toNat).rowBytes r = (rows.getD r ([], [])).1 ∧
          (t.tile s.cur d.toNat).sideBytes r = (rows.getD r ([], [])).2) ∧
    (∀ s0 css s2, actsFrom (.mstt d b stride tag) s s0 → d.toNat < s0.me.tcount →
      g ≠ tPEB7 → g ≠ tPEB3 → (s0.tile s0.cur d.toNat).tag = g →
      let s1 := s0.drainCore s0.myCore
      let at_ (r : Nat) := s1.rowAddr b stride g r
      Run.mapList (fun a s => (s.resolve s.cur 1 true true a 128).bind fun cs s3 =>
        (atRow a (formatCheck 1 cs s3)).bind fun _ s4 => .ok cs s4) ((List.range 32).map at_) s1 = .ok css s2 →
      let s3 := (css.zip (List.range 32)).foldl (fun s p =>
        (s.syncAmo s.cur p.1).postChunks s.cur p.1 ((s1.tile s1.cur d.toNat).rowBytes p.2)) s2
      ∃ t, exec (.mstt d b stride tag) s = .next t ∧ wentTo s3 t (s3.me.pc + 4)) ∧
    (∀ s0 locs s2, actsFrom (.mstt d b stride tag) s s0 → d.toNat < s0.me.tcount →
      (g = tPEB7 ∨ g = tPEB3) → (s0.tile s0.cur d.toNat).tag = g →
      let s1 := s0.drainCore s0.myCore
      Run.mapList (fun r s => Run.mapList (fun h s =>
        (s.rowCheck 1 (s.rowAddr b stride g r) ((s.rowAddr b stride g r + 64 * h) % 2 ^ 64)).bind fun _ s3 =>
          s3.blockLoc s3.cur 1 cFORMAT ((s.rowAddr b stride g r + 64 * h) % 2 ^ 64)) [0, 1] s) (List.range 32) s1 = .ok locs s2 →
      let s3 := postAll s2 ((locs.zip (List.range 32)).flatMap fun p =>
        p.1.zipIdx.map fun l => (l.1, (s1.tile s1.cur d.toNat).rowBlock p.2 l.2))
      ∃ t, exec (.mstt d b stride tag) s = .next t ∧ wentTo s3 t (s3.me.pc + 4)) ∧
    (∀ s0, actsFrom (.mstt d b stride tag) s s0 → d.toNat < s0.me.tcount → (s0.tile s0.cur d.toNat).tag ≠ g →
      exec (.mstt d b stride tag) s = .next (s0.takeTrap 0x0A 0 0x900))

/-- R267 to R270: mchol and mtrsv complete when their checks pass and no deadline is missed. mchol writes the factorisation
of R268 with its flags, every other tile as before, and SLV with the count of replaced pivots and the first of them; mtrsv
writes the solution of its mode with its flags and clears DLM. A completion after DLN raises DEADLINE with DLM set and no
other effect; a deferred fault of an earlier instruction comes in its place, and then DLM is as before (R73). -/
def Obligations.SolverResults : Prop :=
  (∀ (d a : BitVec 4) (s : State), tilesHold s d.toNat [a.toNat] → (s.tile s.cur a.toNat).tag = tACC32 →
    let s1 := s.drainCore s.myCore
    let A := tileRaw (s1.tile s1.cur a.toNat)
    let tau := s1.me.tau.toNat
    (¬tooLate s1 320 → ∃ t D L, exec (.mchol d a) s = .next t ∧ t.me.pc = s1.me.pc + 4 ∧
      factorOf A tau s1.me.rgv.toNat D L ∧
      tileIs (t.tile s.cur d.toNat) tACC32 (fun i j => if i = j then D i else if j < i then L i j else 0) ∧
      t.me.flg = s1.me.flg ||| factorFlags A tau D L ∧
      (let bad := replacedPivots A tau D L
       t.me.slv.toNat / 2 ^ 5 = (if bad = [] then 0 else 1 + 2 ^ 3 * bad.length) ∧
         (bad ≠ [] → t.me.slv.toNat % 2 ^ 5 = bad.headD 0)) ∧
      { t.me with slv := s1.me.slv, flg := s1.me.flg, pc := s1.me.pc } = s1.me ∧
      (∀ u, u ≠ s.cur → t.slotAt u = s1.slotAt u) ∧ otherTilesKept s1 t d.toNat ∧ bytesKept s1 t) ∧
    (tooLate s1 320 → missedDeadline (exec (.mchol d a) s) s1 320)) ∧
  (∀ (v : BitVec 6) (a : BitVec 4) (mode : BitVec 2) (s : State), windowHolds s.me false [v.toNat] →
    a.toNat < s.me.tcount → (s.tile s.cur a.toNat).tag = tACC32 →
    let s1 := s.drainCore s.myCore
    (¬tooLate s1 (solverLatency mode.toNat) → ∃ t ys fl, exec (.mtrsv v a mode) s = .next t ∧ t.me.pc = s1.me.pc + 4 ∧
      solvesBy mode.toNat s1.me (tileVal (s1.tile s1.cur a.toNat)) (laneVal s1.me.vclass (s1.me.vreg v.toNat)) ys fl ∧
      (∀ r j, j < 32 → laneOf (t.me.vreg r) j =
        if r = v.toNat then encodeLane s1.me.vclass (ys j) else laneOf (s1.me.vreg r) j) ∧
      t.me.flg = s1.me.flg ||| fl ∧ t.me.slv.toNat = s1.me.slv.toNat % 2 ^ 16 ∧
      { t.me with vregs := s1.me.vregs, slv := s1.me.slv, flg := s1.me.flg, pc := s1.me.pc } = s1.me ∧
      onlySlot s.cur s1 t ∧ bytesKept s1 t) ∧
    (tooLate s1 (solverLatency mode.toNat) → missedDeadline (exec (.mtrsv v a mode) s) s1 (solverLatency mode.toNat)))

/-! ### Engines -/

/-- R329 to R332, R338 to R340, R343 to R345: the instructions of the copy and swap engines complete with an id or a
status in their destination, without waiting for the engine. A copy joins the core's copies; a rejected one does nothing.
cpy's core-scope release waits for the reads of earlier loads and lets the core's buffered stores leave. ibx.recv and ibx.try take the slot's oldest message; drain
goes on when nothing is left of the copies in flight when it first issued and of the slot's own appended vectors, and
otherwise stays where it is. -/
def Obligations.EngineInstructions : Prop :=
  ∀ (d a b c : BitVec 5) (s : State),
    (∀ kind i, copyForm d a b c kind i → (kind ≠ 0 → tileWordStatus kind (s.reg a).toNat = none) →
      let s0 := if kind = 0 then afterLoads s else s
      let s1 := if kind = 0 then (s0.release s0.cur 1).drainStores s0.myCore else s0
      (s.inFlight s.myCore < 512 → (kind = 0 → loadsRead s) → ∃ t, exec i s = .next t ∧
        (t.coreAt s0.myCore).copies = (s1.coreAt s0.myCore).copies ++
          [newCopy s0 kind (s.reg a).toNat (s.reg b).toNat (s.reg c).toNat] ∧
        t.slotAt s0.cur = ({ s1.slotAt s0.cur with
          copyId := nextCopyId s0.me.copyId, pc := (s1.slotAt s0.cur).pc + 4 }).setReg d.toNat
            (BitVec.ofNat 64 (nextCopyId s0.me.copyId))) ∧
      (s.inFlight s.myCore < 512 → kind = 0 → ¬loadsRead s → exec i s = .next (afterLoads s)) ∧
      (512 ≤ s.inFlight s.myCore → s.me.inHandler = true →
        ∃ t, exec i s = .next t ∧ wroteReg s t d.toNat (BitVec.ofInt 64 (-4)) 4) ∧
      (512 ≤ s.inFlight s.myCore → s.me.inHandler = false → exec i s = .next (s.parkAt s.cur (.copies s.myCore)
        (.copy d.toNat kind (s.reg a).toNat (s.reg b).toNat (s.reg c).toNat)))) ∧
    (∀ kind i n, copyForm d a b c kind i → kind ≠ 0 → tileWordStatus kind (s.reg a).toNat = some n →
      ∃ t, exec i s = .next t ∧ wroteReg s t d.toNat (BitVec.ofInt 64 (-n)) 4) ∧
    (∀ s0 j m s1, actsFrom (.ibxRecv d a) s s0 → (s0.reg a).toNat % 16 = 0 → s0.firstMsg s0.cur = some (j, m) →
      s0.plainStore s0.cur (s0.reg a).toNat m.bytes = .ok () s1 →
      let kind := natOfBytes (m.bytes.take 1)
      let s2 := s1.modCore s1.myCore fun k => { k with inbox := dropIdx k.inbox j }
      let s3 := if kind = 1 then s2.acquireCopies s2.myCore fun x => x.tid = m.tid && x.id = recField m.bytes 2 2 else s2
      (s.me.inHandler = false → ∃ t, exec (.ibxRecv d a) s = .next t ∧ wroteReg s3 t d.toNat (BitVec.ofNat 64 kind) 4) ∧
      (∃ t, exec (.ibxTry d a) s = .next t ∧ wroteReg s3 t d.toNat (BitVec.ofNat 64 kind) 4)) ∧
    (∀ s0, actsFrom (.ibxRecv d a) s s0 → (s0.reg a).toNat % 16 = 0 → s0.firstMsg s0.cur = none →
      (∃ t, exec (.ibxTry d a) s = .next t ∧ wroteReg s0 t d.toNat 0 4) ∧
      (s.me.inHandler = false → exec (.ibxRecv d a) s = .next (s0.parkAt s0.cur (.inbox s0.myCore) .reissue))) ∧
    (∀ kind : BitVec 2,
      let s1 := s.drainWide s.cur
      let s2 := s1.acquireCopies s1.myCore fun x => drainHas kind.toNat x.destKind
      let cs := drainNoted s1 kind.toNat
      (s1.drainBusy kind.toNat cs = false → ∃ t, exec (.drain kind) s = .next t ∧
        wentTo (s2.modMe fun x => { x with drains := none }) t (s2.me.pc + 4)) ∧
      (s1.drainBusy kind.toNat cs = true → ∃ t, exec (.drain kind) s = .next t ∧ onlySlot s.cur s1 t ∧
        { t.me with pend := s1.me.pend, drains := s1.me.drains } = s1.me ∧ t.me.drains = some (s1.me.pc, cs)))

/-- R297, R342 to R345: at supervisor level the swap instructions complete with a request id or a negative status, or what the
operation of swpstat gives; at user level they raise ILL. -/
def Obligations.SwapRequests : Prop :=
  ∀ (d a b c : BitVec 5) (s : State),
    let busy := 256 ≤ (s.swaps.filter fun x => x.id ≠ 0).length
    let page := (s.reg a).toNat
    let w := (s.reg b).toNat
    let opt := (s.reg c).toNat
    let badPage := page % 2 ^ 16 / 2 ^ 14 ≠ 0 ∨ page / 2 ^ 56 ≠ 0
    let req (out : Bool) (t : State) : Prop := ∃ x, t.swaps = s.swaps ++ [x] ∧ x.out = out ∧ x.tid = s.cur ∧
      x.asid = page % 2 ^ 14 ∧ x.vpn = page / 2 ^ 16 % 2 ^ 40 ∧ x.opt = opt ∧ x.phase = 0 ∧ 1 ≤ x.id ∧ x.id < 2 ^ 16 ∧
      t.me.reg d.toNat = (if d = 0 then 0 else BitVec.ofNat 64 x.id) ∧ t.me.pc = s.me.pc + 4 ∧
      (∀ u, u ≠ s.cur → t.slotAt u = s.slotAt u) ∧ bytesKept s t ∧
      (if out then x.drive = w / 2 ^ 40 % 4 ∧ x.lba = w % 2 ^ 40 else x.dest = w)
    (s.me.sup = true →
      (busy → (∃ t, exec (.swpout d a b c) s = .next t ∧ wroteReg s t d.toNat (BitVec.ofInt 64 (-1)) 4) ∧
        (∃ t, exec (.swpin d a b c) s = .next t ∧ wroteReg s t d.toNat (BitVec.ofInt 64 (-1)) 4)) ∧
      (¬busy → (badPage ∨ w / 2 ^ 42 ≠ 0 ∨ 8 ≤ opt) →
        ∃ t, exec (.swpout d a b c) s = .next t ∧ wroteReg s t d.toNat (BitVec.ofInt 64 (-2)) 4) ∧
      (¬busy → ¬badPage → w / 2 ^ 42 = 0 → opt < 8 → ∃ t, exec (.swpout d a b c) s = .next t ∧
        if Config.driveLbaBytes (w / 2 ^ 40 % 4) = 4096 then req true t else wroteReg s t d.toNat (BitVec.ofInt 64 (-2)) 4) ∧
      (¬busy → (badPage ∨ 8 ≤ opt ∨ opt / 2 % 2 = 1) →
        ∃ t, exec (.swpin d a b c) s = .next t ∧ wroteReg s t d.toNat (BitVec.ofInt 64 (-2)) 4) ∧
      (¬busy → ¬badPage → opt < 8 → opt / 2 % 2 = 0 → w ≠ 0 → (w % 2 ^ 16 ≠ 0 ∨ s.memBytes ≤ w) →
        ∃ t, exec (.swpin d a b c) s = .next t ∧ wroteReg s t d.toNat (BitVec.ofInt 64 (-3)) 4) ∧
      (¬busy → ¬badPage → opt < 8 → opt / 2 % 2 = 0 → (w = 0 ∨ (w % 2 ^ 16 = 0 ∧ w < s.memBytes)) →
        ∃ t, exec (.swpin d a b c) s = .next t ∧ req false t) ∧
      (∀ v s2, swapStatusOp s (page % 16) w = (v, s2) → ∃ t, exec (.swpstat d a b) s = .next t ∧ wroteReg s2 t d.toNat v 4)) ∧
    (s.me.sup = false →
      exec (.swpout d a b c) s = .next (s.takeTrap 0x01 0 (BitVec.ofNat 64 (instrBits (.swpout d a b c)))) ∧
      exec (.swpin d a b c) s = .next (s.takeTrap 0x01 0 (BitVec.ofNat 64 (instrBits (.swpin d a b c)))) ∧
      exec (.swpstat d a b) s = .next (s.takeTrap 0x01 0 (BitVec.ofNat 64 (instrBits (.swpstat d a b)))))

/-- R426, R427: replay of a valid record completes when its access does: the record's register takes the value, and VALID
and PEND are cleared; that of an ldx is a release, which comes first. wfi outside a handler goes on at once on a set latch, which it clears, and parks otherwise. -/
def Obligations.ReplayAndWait : Prop :=
  (∀ (s s1 : State) (v : Word),
    let r := if s.me.sup then s.me.sdef else s.me.udef
    let w := r.dfi.toNat / 2 ^ 32
    let release : Prop := redoWord w = some (.full true)
    let s0 := if release then beforeRelease s 2 else s
    r.dfi.getLsbD 13 = true → redoWord w ≠ none → (release → mayRelease s 2) → s0.redo s0.cur w r.dfv = .ok v s1 →
    let x := s1.me.setReg (r.dfi.toNat / 2 ^ 8 % 2 ^ 5) v
    ∃ t, exec .replay s = .next t ∧ onlySlot s1.cur s1 t ∧ bytesKept s1 t ∧
      t.me = (if s1.me.sup
        then { x with pc := s1.me.pc + 4, sdef := { s1.me.sdef with dfi := s1.me.sdef.dfi &&& ~~~0x6000 } }
        else { x with pc := s1.me.pc + 4, udef := { s1.me.udef with dfi := s1.me.udef.dfi &&& ~~~0x6000 } })) ∧
  (∀ s : State,
    let r := if s.me.sup then s.me.sdef else s.me.udef
    (r.dfi.getLsbD 13 = false ∨ redoWord (r.dfi.toNat / 2 ^ 32) = none) →
    exec .replay s = .next (s.takeTrap 0x01 0 (BitVec.ofNat 64 (instrBits .replay)))) ∧
  (∀ s : State, s.me.inHandler = false →
    (s.me.latch = true → ∃ t, exec .wfi s = .next t ∧ t.me = { s.me with latch := false, pc := s.me.pc + 4 } ∧
      onlySlot s.cur s t ∧ bytesKept s t) ∧
    (s.me.latch = false → exec .wfi s = .next (s.parkAt s.cur .event .complete)))

/-! ### Steps of the device and of the outside world -/

/-- R95, R96, R99, R100, R114, R157, R214, R276, R289, R292: the host's accesses of a device that answers complete. Each
changes the register that it names, as the register's rule says, and nothing else, but that vector 16 signals a change of
JFULL (R94); a BAR2 read changes nothing but the data
returned; a device that does not answer changes nothing. -/
def Obligations.HostAccesses : Prop :=
  ∀ s : State,
    let a := s.ev.a
    let v := s.ev.v.toNat
    (s.dstate = 2 →
      (∃ t, exec .qpiWrite s = .next t ∧ { t with queues := s.queues } = s ∧
        ∀ q, t.queueAt q = if q = a then movedPi (s.queueAt q) (v % 2 ^ 32) else s.queueAt q) ∧
      (∃ t, exec .qcfgWrite s = .next t ∧ { t with queues := s.queues } = s ∧
        ∀ q, t.queueAt q = if q = a then movedCfg (s.queueAt q) v else s.queueAt q) ∧
      (∃ t, exec .jrelWrite s = .next t ∧ { t with jrel := s.jrel, msix := s.msix } = s ∧ t.jrel = max s.jrel v ∧
        t.msix = if t.jfull = s.jfull then s.msix else 16 :: s.msix) ∧
      (∃ t, exec .hostWindowWrite s = .next t ∧ { t with windows := s.windows } = s ∧
        ∀ w, FMap.getD t.windows w 0 =
          if w ≠ a then FMap.getD s.windows w 0
          else v / 2 ^ 21 % 2 ^ 31 * 2 ^ 21 + v / 2 % 2 * 2 +
            (if FMap.find s.owned (v / 2 ^ 21 % 2 ^ 31) = none then v % 2 else 0)) ∧
      (∃ t, exec .hostBar2Read s = .next t ∧ { t with hostData := s.hostData } = s ∧
        t.hostData = (List.range s.ev.b).map fun j => bar2Byte s (a + j)) ∧
      (a % 2 ^ 21 + s.ev.bytes.length ≤ 2 ^ 21 → s.ev.bytes ≠ [] →
        let w := FMap.getD s.windows (a / 2 ^ 21) 0
        let pa := w / 2 ^ 21 % 2 ^ 31 * 2 ^ 21 + a % 2 ^ 21
        exec .hostBar2Write s = .next
          (if w % 4 = 3 ∧ pa + s.ev.bytes.length ≤ s.memBytes then s.homeWrite pa s.ev.bytes else s)) ∧
      (s.ev.b ≠ 4 → a % 8 = 0 → 0x400 ≤ a → a < 0x800 → ∃ t, exec .registerWrite s = .next t ∧
        { t with mbData := s.mbData } = s ∧ t.bar0 a = v ∧
        ∀ o, (o < a - 0x400 ∨ a - 0x400 + 8 ≤ o) → Memory.read t.mbData o = Memory.read s.mbData o)) ∧
    (s.dstate ≠ 2 → ∀ i ∈ [Instr.qpiWrite, .qcfgWrite, .jrelWrite, .hostWindowWrite, .hostBar2Read, .hostBar2Write,
      .registerWrite],
      exec i s = .next s) ∧
    (∀ s1, s.writeSpr (a * 256) true 0x10E s.ev.v = some s1 → exec .bankcfgWrite s = .next s1) ∧
    (∀ s1, s.writeSpr 0 true (0x106 + a % 4) s.ev.v = some s1 → exec .domWrite s = .next s1) ∧
    (∀ s1, s.writeSpr 0 true 0x105 s.ev.v = some s1 → exec .hselWrite s = .next s1) ∧
    (9 ≤ v % 2 ^ 5 → v % 2 ^ 5 ≤ 20 → ∃ t, exec .ptbrWrite s = .next t ∧ { t with asids := s.asids } = s ∧
      ∀ n, t.asidAt n = if n = a then { s.asidAt n with ptbr := BitVec.ofNat 64 (ptbrStored v) } else s.asidAt n) ∧
    (v % 2 ^ 5 < 9 ∨ 20 < v % 2 ^ 5 → exec .ptbrWrite s = .next s)

/-- R99 to R105, R113, R116, R429, R432: the device takes the head command of a queue. One that fails an admission check has
a journal entry that is FAULTED with the number of the check; a launch is PLACED when its resources are there and held by
its queue otherwise; the other kinds act on their target. A ring that cannot be read sets ADDR. A held launch is granted,
and a waiting resume reloads, when the resources are there. A command that fails a later check has still used up its nonce
(the model's choice, log 17). -/
def Obligations.QueueCommands : Prop :=
  ∀ (s : State) (c : List Byte),
    let q := s.ev.a
    let x := s.queueAt q
    let kind := argAt c 0 1
    let asid := if argAt c 4 2 = 0 then x.asid else argAt c 4 2
    let target := if 2 ≤ kind ∧ kind ≤ 4 then argAt c 8 4 else 0
    let s0 := { s with lastQueue := q }
    (headCommand s q c →
      (∀ n i, takesKind i kind → s.failedCheck c x.asid false false = some n →
        let j := (s0.acceptNonce c asid false (some n)).jNew target kind q asid (argAt c 72 8)
        exec i s = .next ((consumed j.1 q).endCommand c j.2 q 7 n)) ∧
      (∀ i, takesKind i kind → kind ≠ 1 → s.failedCheck c x.asid false false = none →
        let j := (s0.acceptNonce c asid false none).jNew target kind q asid (argAt c 72 8)
        exec i s = .next (if kind = 2 then (consumed j.1 q).beginDrain c j.2 q
          else if kind = 3 then (consumed j.1 q).beginResume c j.2 q else (consumed j.1 q).doAbort c j.2 q)) ∧
      (kind = 1 → s.failedCheck c x.asid false false = none →
        let l := (s0.acceptNonce c asid false none).takeLid
        let j := l.1.jNew l.2 1 q asid (argAt c 72 8)
        let y := j.1.makeLaunch c l.2 asid j.2 q
        let s4 := consumed { j.1 with launches := j.1.launches ++ [y] } q
        (∀ s5, s4.grant y = some s5 → exec .launchCommand s = .next s5) ∧
        (s4.grant y = none → ∃ t, exec .launchCommand s = .next t ∧ { t with queues := s4.queues } = s4 ∧
          (t.queueAt q).hold = some l.2))) ∧
    (s.queueReady q = true → s.ringOk x = false → ∃ t, exec .ringReadFailure s = .next t ∧
      { t with queues := s.queues } = s ∧
      ∀ p, t.queueAt p = if p = q then { s.queueAt p with addrErr := true } else s.queueAt p) ∧
    (∀ lid l s1, x.hold = some lid → s.launch? lid = some l → l.state = 1 → s.grant l = some s1 →
      ∃ t, exec .admissionGrant s = .next t ∧ { t with queues := s1.queues } = s1 ∧
        ∀ p, t.queueAt p = if p = q then { s1.queueAt p with hold := none } else s1.queueAt p) ∧
    (∀ l r s1, s.launch? q = some l → l.resume = some r → s.placeScratch l = some s1 →
      exec .resumeReload s = .next (s1.reload l r))

/-- R108 to R111, R141, R437, R438, R460 to R464: a mailbox command that runs completes as its row of the command table
says: refused when its arguments are too short or out of range, busy where the table says so, else with its effect and its
response. TELEM answers with the telemetry record, the resets reset. The model's choices: DQ_OPEN of an open queue is refused
(log 43), a step of a command that does not run changes nothing (log 62), FN_RESET is answered outside READY too (log 87). -/
def Obligations.MailboxCommands : Prop :=
  (∀ (i : Instr) (s : State) (a : List Byte) (code need : Nat) (r : MailResult),
    mailResult i s a = some (code, need, r) →
    (s.mbArgs code = some a → exec i s = .next (if a.length < need then s.answer 2 [] else mailEnd s r)) ∧
    (s.mbArgs code = none → exec i s = .next s)) ∧
  (∀ s : State,
    (s.ev.c = 1 → s.sideOn = true → exec .telem s = .next (s.answer 1 s.telemetry)) ∧
    (∀ a, s.ev.c ≠ 1 → s.mbArgs 0x60 = some a → exec .telem s = .next (s.answer 1 s.telemetry)) ∧
    (∀ a, s.mbArgs 0x70 = some a → exec .fnReset s =
      .next (if s.dstate = 2 then (s.answer 1 []).functionReset else s.answer 1 [])) ∧
    (∀ a, s.ev.c ≠ 1 → s.mbArgs 0x71 = some a → exec .devReset s = .next s.devReset) ∧
    (s.ev.c = 1 → s.sideOn = true → exec .devReset s = .next (s.answer 1 []).devReset) ∧
    s.devReset.trips = 0 ∧ s.telemetry.length = 128)

/-- R94, R98, R103, R117 to R119, R435 to R437, R460 to R463: resets, power, heat, containment and the side-band, each of
which completes on every state. A conventional reset leaves the reset state but for what flash, drives and peers hold, the
side-band's record, the count of thermal trips and what boot sets: RECOVERY for an image that the ROM refuses, BOOT_FAIL
with the firmware's code, else READY. Power loss and a thermal trip stop every clock; a trip comes of a junction at 110 °C or
a rail above 5000 A, and is counted. A function-level
reset leaves no launch, task, waiter, swap or enabled queue, every PI and CI 0, and the ASIDs and drives as they were; each
launch that it ends, and a command that acts on it, has a journal entry that is FENCED for reason 0x0D. An image is stored where
the manual lets it. A trigger (a junction at 95 °C, a rail above 4750 A for 10 µs or 2400 W of power) lowers a die's duty by
4, not below 4, and 10 ms without one raise it. A fence marks its unit
and takes away what it held. A soft error poisons its grain. -/
def Obligations.ResetsAndPower : Prop :=
  ∀ s : State,
    let r := State.reset
    (∃ t, exec .conventionalReset s = .next t ∧
      { t with
        tick := r.tick, boots := r.boots, inputs := r.inputs, drives := r.drives, peers := r.peers, trips := r.trips
        bootImage := r.bootImage, fwImage := r.fwImage, sideband := r.sideband, msix := r.msix, dstate := r.dstate
        bootErr := r.bootErr, mdieMask := r.mdieMask, cluMask := r.cluMask, jbase := r.jbase, hselVar := r.hselVar } = r ∧
      t.tick = s.tick ∧ t.boots = s.boots + 1 ∧ t.inputs = s.inputs ∧ t.drives = s.drives ∧ t.peers = s.peers ∧
      t.trips = s.trips ∧ t.bootImage = s.bootImage ∧ t.msix = 16 :: s.msix ∧
      (let code := Config.bringUp s.bootImage % 256
       if romAccepts s.bootImage = false then t.dstate = 4 ∧ t.bootErr = 0 ∧ t.fwImage = []
       else if code ≠ 0 then t.dstate = 3 ∧ t.bootErr = code ∧ t.fwImage = s.bootImage
       else t.dstate = 2 ∧ t.bootErr = 0 ∧ t.fwImage = s.bootImage ∧
         t.jbase = Config.journalBase ∧ t.cluMask = Config.usableClusters % 2 ^ 64 ∧
         (match Config.idleMdie with
          | none => t.mdieMask = 0xFFFF ∧ t.hselVar = 0
          | some i => t.mdieMask = 0xFFFF - 2 ^ (i % 16) ∧ t.hselVar = 1))) ∧
    (∃ t, exec .powerLoss s = .next t ∧ t.power = false ∧ t.sideOn = false ∧ t.mem = [] ∧ t.slots = [] ∧ t.launches = [] ∧
      t.drives = s.drives ∧ t.peers = s.peers ∧ t.bootImage = s.bootImage ∧ t.trips = s.trips) ∧
    (let trips : Prop := 1100 ≤ s.ev.b ∨ 5000 < s.ev.c
     (trips → ∀ i, i = .thermalTrip ∨ i = .throttleTest → ∃ t, exec i s = .next t ∧
        t.power = false ∧ t.sideOn = true ∧ t.mem = [] ∧ t.slots = [] ∧ t.launches = [] ∧
        t.drives = s.drives ∧ t.peers = s.peers ∧ t.bootImage = s.bootImage ∧ t.trips = (s.trips + 1) % 2 ^ 32) ∧
     (¬trips → exec .thermalTrip s = .next s)) ∧
    (s.dstate = 2 → ∃ t, exec .functionLevelReset s = .next t ∧ t.waits = [] ∧ t.swaps = [] ∧ t.notices = [] ∧
      t.mbRun = 0 ∧ t.launches = [] ∧ t.asids = s.asids ∧ t.drives = s.drives ∧ t.msix.head? = some 16 ∧
      (∀ p ∈ t.slots, p.2.mode = .idle ∧ p.2.pend = [] ∧ p.2.deque = []) ∧
      (∀ p ∈ t.queues, p.2.en = false ∧ p.2.hold = none ∧ p.2.pi = 0 ∧ p.2.ci = 0) ∧
      (let u := (s.slots.map fun p => p.1).foldl State.stopSlot s
       u.mem = s.mem ∧ u.launches = s.launches ∧ t.mem = (s.launches.foldl State.fenceLaunch u).mem) ∧
      (∀ p ∈ t.cores, p.2.copies = [] ∧ p.2.inbox = [] ∧ p.2.residuals = [] ∧ p.2.tas = [] ∧ p.2.streams = [])) ∧
    (∀ (l : Launch), uncached s (s.jAddr l.seq) 64 →
      let v := s.fenceLaunch l
      entryReads v l.seq 8 0x0D ∧ (∀ y ∈ v.launches, y.lid ≠ l.lid) ∧
      (∀ c, l.drain = some c → l.resume = none → c.seq % 2 ^ 16 ≠ l.seq % 2 ^ 16 → uncached s (s.jAddr c.seq) 64 →
        entryReads v c.seq 8 0x0D) ∧
      ∀ a, (a < s.jbase ∨ s.jbase + 2 ^ 22 ≤ a) → Memory.read v.mem a = Memory.read s.mem a) ∧
    (s.dstate ≠ 2 → exec .functionLevelReset s = .next s) ∧
    ((s.dstate = 2 ∨ s.dstate = 3) → exec .firmwareUpdate s = .next { s with bootImage := s.ev.bytes }) ∧
    (s.dstate ≠ 2 → s.dstate ≠ 3 → exec .firmwareUpdate s = .next s) ∧
    (s.dstate = 4 → exec .recoveryImage s =
      .next (if romAccepts s.ev.bytes = true then { s with bootImage := s.ev.bytes } else s)) ∧
    (s.dstate ≠ 4 → exec .recoveryImage s = .next s) ∧
    (s.sideOn = true → exec .pldmDiscovery s = .next { s with sideband := [0, 2, 5] :: s.sideband } ∧
      (∀ f, s.telemFields[s.ev.a]? = some f →
        exec .pldmSensorRead s = .next { s with sideband := leBytes f.1 f.2 :: s.sideband }) ∧
      (s.telemFields.length ≤ s.ev.a → exec .pldmSensorRead s = .next { s with sideband := [] :: s.sideband })) ∧
    (s.sideOn = false → exec .pldmDiscovery s = .next s ∧ exec .pldmSensorRead s = .next s) ∧
    (let k := s.ev.a % 4
     let d := s.dieAt k
     let sets (t : State) (x : Die) : Prop := { t with dies := s.dies } = s ∧ ∀ n, t.dieAt n = if n = k then x else s.dieAt n
     let trigger : Prop :=
       950 ≤ s.ev.b ∨ (4750 < s.ev.c ∧ 10 ≤ natOfBytes s.ev.bytes) ∨ 2400000 < s.ev.v.toNat
     (s.ev.b < 1100 → s.ev.c ≤ 5000 → trigger → ∃ t, exec .throttleTest s = .next t ∧
        sets t (if d.duty ≤ 4 then { d with trig := s.clk }
          else { d with duty := max 4 (d.duty - 4), steps := (d.steps + 1) % 2 ^ 32, trig := s.clk })) ∧
     (s.ev.b < 1100 → s.ev.c ≤ 5000 → ¬trigger → exec .throttleTest s = .next s) ∧
     (d.duty < min 16 d.cap → d.trig + 7000000 ≤ s.clk → ∃ t, exec .throttleRelax s = .next t ∧
        sets t { d with duty := min (d.duty + 4) (min 16 d.cap), trig := s.clk }) ∧
     (min 16 d.cap ≤ d.duty ∨ s.clk < d.trig + 7000000 → exec .throttleRelax s = .next s)) ∧
    (∃ t, exec .containmentFence s = .next t ∧ t.msix.head? = some 16 ∧
      (s.ev.a = 0 →
        let k := s.ev.b % 64
        t.fencedClusters = s.fencedClusters ||| 2 ^ k ∧ FMap.find t.clusters k = none ∧
          (∀ p ∈ t.slots, cluOf p.1 = k → p.2 = { halted := true }) ∧ (∀ p ∈ t.cores, cluOfCore p.1 ≠ k) ∧ ∀ w ∈ t.waits, cluOf w.tid ≠ k) ∧
      (s.ev.a = 1 →
        let n := s.ev.b % 4
        t.fencedDies = s.fencedDies ||| 2 ^ n ∧ t.fencedClusters = s.fencedClusters ||| (2 ^ 16 - 1) * 2 ^ (16 * n) ∧
          (t.dieAt n).dq = []) ∧
      (s.ev.a = 2 →
        let m := s.ev.b % 16
        t.fencedMdies = s.fencedMdies ||| 2 ^ m ∧ ∀ c ∈ t.mem, t.storeOf c.1 ≠ m) ∧
      (s.ev.a = 3 → t.fencedLinks = s.fencedLinks ||| 2 ^ (s.ev.b % 24)) ∧
      (4 ≤ s.ev.a → t = { s with fencedFlash := s.fencedFlash ||| 2 ^ (s.ev.b % 4), msix := 16 :: s.msix })) ∧
    (let a := s.ev.a
     let size := if s.ev.b = 7 then 7 else if s.ev.b = 9 then 9 else 5
     (a < s.memBytes → s.ev.c ≠ 1 → ∃ t, exec .homeSoftError s = .next t ∧
       { t with poison := s.poison, mended := s.mended } = s ∧ FMap.find t.mended (a / 2 ^ size * 2 ^ size) = none ∧
       ∀ b, FMap.find t.poison b = if b = a / 2 ^ size * 2 ^ size then some (2 ^ size) else FMap.find s.poison b) ∧
     (a < s.memBytes → s.ev.c = 1 →
       let g := max 7 size
       exec .homeSoftError s = .next
         ((grainBases 6 (a / 2 ^ g * 2 ^ g) (2 ^ g)).foldl (fun s b => s.homeWrite b poisonBlock) s)) ∧
     (s.memBytes ≤ a → exec .homeSoftError s = .next s))

/-- R20, R112, R136, R139, R160, R169, R182, R192 to R194, R197, R421, R428 to R434, R455 to R457: the steps of slots and
launches. Each completes when what it waits for is there: a probe takes what it has chosen, a thief starts its entry, a rest
ends, a due fault is taken (by a user handler with the deferred-fault record, where one is there), a result arrives and is
written once its shadow has ended, a line is filled, a sleeping core takes its depth, a drain saves, expires and finishes, a
launch retires, a quiescent launch traps, and the slot at the head of a deadlocked core's pool order traps with what its
request lacks. That a thief takes this trap with the pc at which its task would start is the model's choice (log 60). -/
def Obligations.SchedulingSteps : Prop :=
  ∀ s : State,
    let u := s.ev.a
    let x := s.slotAt u
    (∀ v e, x.mode = .idle → s.usable.testBit (u / 256) = true → s.chooseAt u 8 (s.pressedVictims u) = some (v, e) →
      exec .probePass s = .next (s.take u v e)) ∧
    (∀ e d, x.mode = .starting e d →
      let scope := if e.kind = 1 then 3 else if d then edgeScope (s.frInfo e.frame).holder (u / 16) else if e.moved then 3 else 2
      exec .thiefResume s = .next ((s.acquire u scope).startOrPark u e d)) ∧
    (x.mode = .resting → (x.notice = true → ∃ t, exec .workNotice s = .next t ∧ onlySlot u s t ∧
        t.slotAt u = { x with mode := .idle, notice := false }) ∧
      (x.restAt + 1024 ≤ s.clk → ∃ t, exec .stealWaitExpiry s = .next t ∧ onlySlot u s t ∧
        t.slotAt u = { x with mode := .idle, notice := false })) ∧
    (∀ i p c acc v, x.ended = some (i, p) → x.mode = .running → p.arrived = true → p.out = .fault c acc v →
      exec .trapEntry s = .next (s.deferTrap u)) ∧
    (∀ p c acc v, x.pend = [p] → p.left = 0 → x.mode = .running → p.arrived = true → p.out = .fault c acc v →
      (∀ e ∈ (s.coreAt (u / 16)).wideq, e.tid ≠ u) → supCause c = false → c < 256 → x.sup = false → x.uh = false →
      x.sh = false → x.tvec ≠ 0 → ∃ t, exec .trapEntry s = .next t ∧ onlySlot u s t ∧
        (t.slotAt u).pc = x.tvec ∧ (t.slotAt u).tpc = x.pc ∧ (t.slotAt u).tval = v ∧ (t.slotAt u).uh = true ∧
        (t.slotAt u).tcau = BitVec.ofNat 64 (c + acc * 2 ^ 10 + 2 ^ 8) ∧ (t.slotAt u).udef.dfp = p.iaddr ∧
        (t.slotAt u).udef.dfv = p.va) ∧
    (∀ p, x.pend = [p] → x.mode = .running → p.arrived = false →
      (0 < p.left → ∃ t, exec .shadowResultArrival s = .next t ∧ onlySlot u s t ∧
        t.slotAt u = { x with pend := [{ p with arrived := true }] }) ∧
      (∀ v, p.left = 0 → p.out = .value v → ∃ t, exec .shadowResultArrival s = .next t ∧ onlySlot u s t ∧
        (t.slotAt u).pend = [] ∧ (t.slotAt u).pc = x.pc ∧
        ∀ r, (t.slotAt u).reg r = if r = p.dest ∧ r ≠ 0 then v else x.reg r)) ∧
    (x.mode = .running → x.fetchMiss = true →
      (∀ va, s.missAddr u = some va →
        (∀ s1 pa pte size, s.xlate u x.asid accFetch va = (s1, .ok pa pte size) → exec .walkCompletion s = .next s1) ∧
        (∀ s1, s.fillLine u va = .ok () s1 → ∃ t, exec .instructionCacheFill s = .next t ∧ onlySlot u s1 t ∧
          t.slotAt u = { s1.slotAt u with fetchMiss := false })) ∧
      (s.missAddr u = none → exec .walkCompletion s = .next s ∧
        ∃ t, exec .instructionCacheFill s = .next t ∧ onlySlot u s t ∧ t.slotAt u = { x with fetchMiss := false })) ∧
    (∃ t, exec .coreSleep s = .next t ∧ { t with cores := s.cores } = s ∧
      ∀ k, t.coreAt k = if k ≠ u then s.coreAt k
        else { s.coreAt k with
          depth := if (List.range 16).any (fun j =>
            (s.slotAt (u * 16 + j)).mode = .running || (s.slotAt (u * 16 + j)).mode = .held) then 0 else (s.coreAt k).cslp }) ∧
    (∀ l, (s.launches.find? fun l => (s.remaining l.lid).contains u) = some l → s.mayForce l = true →
      exec .forcedSave s = .next (s.saveSlot l u)) ∧
    (∃ t, exec .drainLimitExpiry s = .next t ∧ { t with launches := s.launches } = s ∧
      t.launches = s.launches.map fun l => if l.lid ≠ u then l
        else { l with drain := l.drain.map fun c => if c.limit ≤ s.clk then { c with expired := true } else c }) ∧
    (∀ l c, s.launch? u = some l → l.drain = some c → s.drainDone l = true →
      exec .drainFinish s = .next (s.finishDrain l c)) ∧
    (∀ l st r d, s.launch? u = some l → l.ending = some (st, r, d) →
      exec .launchRetire s = .next (s.finishEnd l st r d)) ∧
    (∀ l, s.launch? u = some l → l.ending = none → l.rootEnded = true → l.donated = 0 → l.drain = none →
      (l.state = 2 ∨ l.state = 3) → (∀ c ∈ s.cores, ∀ x ∈ c.2.copies, x.lid = u → x.finished = true) →
      (∀ x ∈ s.swaps, x.lid = u → x.id = 0) →
      exec .launchRetire s = .next (((domainSettled s l.domain).jRunFirst u).finishEnd l 6 0 0)) ∧
    (∀ l w, s.launch? u = some l → s.quietHead l.lid = some w → s.quiescent l = true →
      let r := s.raiseQwait w
      exec .qwait s = .next (if r.2 = true then r.1.modLaunch l.lid fun y => { y with quiet := true } else r.1)) ∧
    (∀ w rest, s.poolWaits u = w :: rest → s.deadlocked u = true →
      let y := s.slotAt w.tid
      let lack := BitVec.ofNat 64 (s.shortfall w.tid w.op)
      let r := (s.withdraw w).trapSlot w.tid (trapBits cWINDEADLOCK 0) lack
      let n := if r.2 = true then r.1.modCore u fun c => { c with deadlockShown := true, poolAt := s.clk } else r.1
      let shown := (s.coreAt u).deadlockShown
      (shown = false → exec .winDeadlock s = .next n) ∧
      (shown = true → (s.coreAt u).poolAt + 1024 ≤ s.clk → exec .winDeadlockRetry s = .next n) ∧
      (y.pend = [] → (∀ e ∈ (s.coreAt (w.tid / 16)).wideq, e.tid ≠ w.tid) → s.stvec ≠ 0 → y.sh = false →
        (n.slotAt w.tid).pc = s.stvec ∧ (n.slotAt w.tid).sup = true ∧ (n.slotAt w.tid).sval = lack ∧
        (n.slotAt w.tid).sepc = match w.op with
          | .start e _ => BitVec.ofNat 64 (e.pc / 2 * 2)
          | _ => y.pc))

/-- R15, R96, R151, R167, R195, R283 to R285, R291 to R293, R296, R299 to R301, R325, R333 to R336, R348, R359 to R366, R369,
R387, R435, R436: the steps of memory, homes, engines and peers. Each completes when what it waits for is there, and does
what its rule says to the queue that it serves and to the bytes that it moves. A swap-out puts its page in transit, writes
its record and ends with the page on its drive; a swap-in checks the record, writes the page's bytes at their home and ends
with the page resident; a copy step moves the bytes of its spans, or its row of a tile, or ends with its status. The model's
choices: a read stream keeps the elements as they are in memory and converts them when they are popped (log 78); the drive is
written when its write is confirmed, and not at all on an error (log 41). -/
def Obligations.MemorySteps : Prop :=
  ∀ s : State,
    let a := s.ev.a
    let b := s.ev.b
    let k := s.coreAt a
    let h := s.homeAt a
    (∀ e r, k.wideq = e :: r → exec .wideCompletion s =
      .next ((s.modCore a fun c => { c with wideq := r }).modSlot e.tid fun x =>
        { x with
          vregs := if e.vd < x.vcount then
              FMap.put x.vregs e.vd (mkVec fun i => if e.act.getLsbD i then laneOf e.lanes i else laneOf (x.vreg e.vd) i)
            else x.vregs
          flg := x.flg ||| e.flags })) ∧
    (∀ e, k.storeBuf[b]? = some e → s.mayLeave a b = true → exec .storeBufferLeave s =
      .next ((s.modCore a fun c => { c with storeBuf := c.storeBuf.take b ++ c.storeBuf.drop (b + 1) }).performStore
        a e.lid e.loc e.bytes)) ∧
    (s.notices.contains (a, b, s.ev.v.toNat) = true → exec .pageNotice s = .next (s.pageNotice a b s.ev.v.toNat)) ∧
    (∀ x, s.swaps[a]? = some x →
      (x.out = true → x.phase = 0 → exec .swapOut s = .next (s.swapOutStart a x)) ∧
      (x.out = true → x.phase = 2 → exec .swapOut s = .next (s.swapOutEnd a x)) ∧
      (x.out = false → x.phase = 0 → exec .swapIn s = .next (s.swapInStart a x)) ∧
      (x.out = false → x.phase = 2 → exec .swapIn s = .next (s.swapInEnd a x)) ∧
      (x.phase = 1 ∨ x.phase = 4 →
        ∃ t ok, exec .nvmeCompletion s = .next t ∧ (ok = true → b = 1) ∧
          let write := x.phase = 1 ∧ x.out = true ∧ ok = true
          t = { s with
            drives := if write then
                FMap.put s.drives x.drive (Memory.writeN (FMap.getD s.drives x.drive []) (4096 * x.lba) x.data)
              else s.drives
            swaps := s.swaps.set a { x with phase := if write ∧ x.opt.testBit 0 = true then 4 else 2, ok := ok } })) ∧
    (∀ x, s.swaps[a]? = some x → x.out = true →
      (x.phase = 0 → (s.pageEntry x.asid x.vpn = none → exec .swapOut s = .next (s.endSwap a x 4)) ∧
        ∀ pa e, s.pageEntry x.asid x.vpn = some (pa, e) →
          (¬mayLeavePage s x e → exec .swapOut s = .next (s.endSwap a x 4)) ∧
          (let u := pageStill s x pa e
           let bad := (List.range 16).any fun g => u.homePoisoned (ptePA e + 4096 * g) 4096 (pteDOM e)
           mayLeavePage s x e →
            (bad = true → exec .swapOut s = .next (((u.putPte pa e).notifyPage x.asid x.vpn).endSwap a x 2)) ∧
            (bad = false → ∃ t, exec .swapOut s = .next t ∧ t.drives = u.drives ∧
              (t.asidAt x.asid).iv = (u.asidAt x.asid).iv + 1 ∧
              t.swaps = u.swaps.set a { x with
                phase := 1, ptePa := pa
                data := makeRecord x.asid x.vpn (pteD e) (u.asidAt x.asid).key (Config.bootCount + u.boots)
                  (u.asidAt x.asid).iv (u.pageBlocks (ptePA e) (pteDOM e)) }))) ∧
      (x.phase = 2 → x.ptePa % 8 = 0 → uncached s x.ptePa 8 →
        let e := s.homeNat x.ptePa 8
        ∃ t, exec .swapOut s = .next t ∧ swapEnded s t a x (if x.ok then 1 else 2) ∧ entryWritten s t x.ptePa
          (if x.ok then e / 2 % 2 ^ 14 * 2 + 2 ^ 16 * x.drive + 2 ^ 18 * x.lba + 2 ^ 62 + 2 ^ 63 * b2n (x.opt.testBit 1)
          else e - 2 ^ 15 * b2n (e.testBit 15)))) ∧
    (∀ asid vpn boot n desc key blocks,
      let kept := blocks.filter fun y => !(desc && Block.fmt y = fmtEMPTY)
      let r := makeRecord asid vpn desc key boot n blocks
      argAt r 0 4 = 0x50415753 ∧ argAt r 4 2 = 1 ∧ argAt r 6 2 = asid % 2 ^ 16 ∧ argAt r 8 8 = vpn % 2 ^ 64 ∧
        argAt r 16 2 = (kept.flatten.length / 64) % 2 ^ 16 ∧ argAt r 18 2 = b2n desc ∧ r.length % 4096 = 0) ∧
    (∀ x, s.swaps[a]? = some x → x.out = false →
      (x.phase = 0 → ∀ pa e, s.pageEntry x.asid x.vpn = some (pa, e) →
        pteV e = false → pteS e = true → pteT e = false → x.dest ≠ 0 → ownedByOther s.owned x.asid x.dest 16 = false →
        pa % 8 = 0 → uncached s pa 8 → ∃ t, exec .swapIn s = .next t ∧ entryWritten s t pa (e + 2 ^ 15) ∧
          t.swaps = s.swaps.set a
            { x with phase := 1, ptePa := pa, drive := e / 2 ^ 16 % 2 ^ 2, lba := e / 2 ^ 18 % 2 ^ 40 }) ∧
      (x.phase = 2 →
        let disk := FMap.getD s.drives x.drive []
        let r := Memory.readN disk (4096 * x.lba) (17 * 4096)
        let key := (s.asidAt x.asid).key
        let e := s.homeNat x.ptePa 8
        let lost := (List.range 16).any fun g => s.homeFenced (x.dest + 4096 * g) (pteDOM e)
        (∀ code, ((x.ok = false ∨ lost = true) ∧ code = 2) ∨
            (x.ok = true ∧ lost = false ∧
              (recordBad x.asid x.vpn key r = some code ∨
                (recordBad x.asid x.vpn key r = none ∧ openRecord key r = none ∧ code = 3))) →
          x.ptePa % 8 = 0 → uncached s x.ptePa 8 → ∃ t, exec .swapIn s = .next t ∧ swapEnded s t a x code ∧
            entryWritten s t x.ptePa (e - 2 ^ 15 * b2n (e.testBit 15) - 2 ^ 63 * b2n (e.testBit 63)) ∧
            t.drives = s.drives) ∧
        (∀ kept, x.ok = true → lost = false → recordBad x.asid x.vpn key r = none → openRecord key r = some kept →
          ownedByOther s.owned x.asid x.dest 16 = false →
          let u := (List.range 1024).foldl (fun u j =>
            u.slicePut (u.homeOf (pteDOM e) (x.dest + 64 * j)) (x.dest + 64 * j) (FMap.getD kept j emptyBlock)
              (List.replicate 64 true) (pteCK e != 0)) (s.recall x.dest (2 ^ 16))
          let n := 1 + (64 * argAt r 16 2 + 4095) / 4096
          x.ptePa % 8 = 0 → uncached u x.ptePa 8 → ∃ t, exec .swapIn s = .next t ∧ swapEnded u t a x 1 ∧
            entryWritten u t x.ptePa (e / 2 % 2 ^ 14 * 2 + 1 + x.dest + 2 ^ 63 * b2n (e.testBit 63)) ∧
            t.drives = if x.id ≠ 0 ∧ x.opt.testBit 0 = true then
                FMap.put u.drives x.drive (disk.filter fun y => !(4096 * x.lba ≤ y.1 && y.1 < 4096 * (x.lba + n)))
              else u.drives))) ∧
    (∀ c, k.copies[b]? = some c → c.finished = false →
      (c.over = false → exec .copyArrival s = .next (if c.kind = 0 then s.cpyStep a b c else s.rowStep a b c)) ∧
      (c.over = true → c.notify = false → c.status = 0 →
        exec .copyCompletion s = .next ((s.setCopy a b { c with finished := true }).serveCopy a))) ∧
    (∀ c, k.copies[b]? = some c → c.finished = false → c.over = false → c.kind = 0 → c.toRead ≠ 0 →
      let from_ := (c.src + c.done + c.ahead.length) % 2 ^ 64
      let to_ := (c.dst + c.done) % 2 ^ 64
      let n := c.chunk
      (∀ cause acc v s1, s.copyResolve c 0 from_ c.toRead = .stop (.trap cause acc v) s1 →
        exec .copyArrival s = .next (s1.setCopy a b { c with status := if cause = 3 then 1 else 3 })) ∧
      (∀ cs s1 s2, s.copyResolve c 0 from_ c.toRead = .ok cs s1 → s1.pointReads a cs = (none, s2) →
        exec .copyArrival s = .next (s2.setCopy a b { c with status := 6 })) ∧
      (∀ cs s1 new s2 cause acc v s3, s.copyResolve c 0 from_ c.toRead = .ok cs s1 → s1.pointReads a cs = (some new, s2) →
        s2.copyResolve c 1 to_ n = .stop (.trap cause acc v) s3 →
        exec .copyArrival s = .next (s3.setCopy a b { c with status := if cause = 3 then 2 else 4 })) ∧
      (∀ cs s1 new s2 ds s3, s.copyResolve c 0 from_ c.toRead = .ok cs s1 → s1.pointReads a cs = (some new, s2) →
        s2.copyResolve c 1 to_ n = .ok ds s3 → (∀ d ∈ ds, s3.locFenced d.loc = false) →
        (∀ d ∈ ds, d.loc.described = true → c.dst % 64 = 0 ∧ c.len % 64 = 0) → c.bar = false →
        let bs := c.ahead ++ new
        exec .copyArrival s = .next ((s3.pointWrites a c.lid ds (bs.take n)).setCopy a b { c with
          done := c.done + n, ahead := bs.drop n, bytes := c.bytes + n, ranges := c.ranges ++ keyParts ds }))) ∧
    (∀ (core lid : Nat) (bs : List Byte), nothingOut s core →
      (∀ q off va n, s.pointRead core { loc := .sram q off, len := n, va := va } =
        (some (Memory.readN (s.cluAt q).sram off n), s)) ∧
      (∀ q off j y, Memory.read ((s.pointWrite core lid (.sram q off) bs).cluAt j).sram y =
        if j = q ∧ off ≤ y ∧ y < off + bs.length then bs.getD (y - off) 0 else Memory.read (s.cluAt j).sram y) ∧
      (∀ pa ck g dom va n, ck ≠ 0 → n ≠ 0 → pa % 64 + n ≤ 64 → lineReady s (s.homeOf dom pa) pa →
        s.homePoisoned pa n dom = false → ∃ s1,
          s.pointRead core { loc := .phys pa ck g false dom, len := n, va := va } =
            (some (s.sliceSee (s.homeOf dom pa) pa n), s1) ∧ bytesKept s s1) ∧
      (∀ pa ck g d dom, ck ≠ 0 → bs ≠ [] → pa % 64 + bs.length ≤ 64 → lineReady s (s.homeOf dom pa) pa →
        let t := s.pointWrite core lid (.phys pa ck g d dom) bs
        ∀ y, y / 64 = pa / 64 → t.sliceByte (s.homeOf dom pa) y =
          if pa ≤ y ∧ y < pa + bs.length then bs.getD (y - pa) 0 else s.sliceByte (s.homeOf dom pa) y)) ∧
    (∀ c cs s1 row s2, k.copies[b]? = some c → c.finished = false → c.over = false → c.kind ≠ 0 → c.bar = false →
      s.copyResolve c 0 (((c.src : Int) + c.done * c.stride) % 2 ^ 64).toNat 128 = .ok cs s1 →
      s1.pointReads a cs = (some row, s2) → ∃ t, exec .copyArrival s = .next t ∧
        (c.done ≠ 0 → c.recv.Nodup → ∀ r ∈ c.recv, ∀ y, FMap.find (s2.coreAt r.1).tas r.2 = some y →
          FMap.find (t.coreAt r.1).tas r.2 = some { y with data := Memory.writeN y.data (128 * c.done) row }) ∧
        (c.done = 0 → c.kind = 1 → c.tile < (s2.slotAt c.tid).tcount → s2.tileHeld c.tid c.tile = false →
          ∀ st y, FMap.find (s2.slotAt c.tid).tmap c.tile = some st →
            FMap.find (s2.coreAt (c.tid / 16)).tas st = some y →
            FMap.find (t.coreAt (c.tid / 16)).tas st = some
              { y with tag := c.tileTag, side := [], data := Memory.writeN y.data 0 row }) ∧
        (c.done = 0 → c.kind = 1 → (s2.slotAt c.tid).tcount ≤ c.tile → ∀ st, (t.coreAt a).copies[b]? = some st →
          st.status = 7 ∧ st.recv = [])) ∧
    (∀ st, FMap.find k.streams b = some st →
      (st.buf.length < 8 → st.rcd.dir = 0 →
        ∀ els s1, Run.mapList (fun j s => s.fetchElem st.tid st.rcd (st.pos + j)) (List.range 32) s = .ok els s1 →
        ∃ t v, exec .streamFetch s = .next t ∧ FMap.find (t.coreAt a).streams b = some { st with
          pos := st.pos + 32, buf := st.buf ++ [v], fault := none, told := false, waiting := none } ∧
          v.lanes = [] ∧
          ∀ j e, (j, e) ∈ v.raw ↔ els[j]? = some (some e)) ∧
      (st.rcd.dir = 1 → st.rcd.desc = false → ∀ v r fl s1, st.buf = v :: r →
        s.writePlain st v (min 32 (st.rcd.total - st.pos)) = .ok fl s1 →
        ∃ t, exec .streamWrite s = .next t ∧ FMap.find (t.coreAt a).streams b = some { st with
          pos := st.pos + min 32 (st.rcd.total - st.pos), buf := r, fault := none, told := false, waiting := none })) ∧
    (∀ i r, k.oldestTo b = some (i, .acc r) → exec .accumulateRequest s = .next (s.arriveAt a i)) ∧
    (∀ i r, k.oldestTo b = some (i, .amo r) → s.relReady a r = true → exec .atomicRequest s = .next (s.serveAt a i)) ∧
    (∀ i r, (k.accAns.findIdx? fun r => r.req.home = b) = some i → k.accAns[i]? = some r →
      exec .accumulateAnswer s =
        .next ((s.modCore a fun c => { c with accAns := c.accAns.take i ++ c.accAns.drop (i + 1) }).takeAnswer r)) ∧
    (∀ i r, (k.remapped.findIdx? fun r => !k.out.any fun q => s.staleReq q && q.granule = r.granule) = some i →
      k.remapped[i]? = some r →
      let n := s.homeOf r.target.1 r.target.2
      exec .remapReturn s = .next ((s.modCore a fun c =>
        { c with
          remapped := c.remapped.take i ++ c.remapped.drop (i + 1), out := putBack (r.setHome n) c.out
          issued := countAdd c.issued n 1 }).markAgain a n r.granule)) ∧
    (∀ e, h.wq[b]? = some e → h.mayApply b = true → exec .writeQueueApply s = .next (s.applyEntry a b)) ∧
    (∃ t, exec .releaseMarker s = .next t ∧ { t with homes := s.homes } = s ∧
      (t.homeAt a).markers = h.markers.filter fun m =>
        m.1 ≠ b ∨ ¬(FMap.getD h.received m.1 0 + 2 ^ 32 - m.2 % 2 ^ 32) % 2 ^ 32 < 2 ^ 31) ∧
    (s.ev.c = 0 → exec .writeBack s = .next (s.cluOut (a * 16) a b) ∧
      (FMap.find (s.cluAt a).grains b = none → ∃ t, exec .writeBack s = .next t ∧ bytesKept s t)) ∧
    (s.ev.c = 1 → (∀ g, FMap.find k.l1 b = some g → g.isDirty = true →
        exec .writeBack s = .next ((s.mergeUp a b g).modCore a fun c => { c with l1 := FMap.put c.l1 b g.clean })) ∧
      (FMap.find k.l1 b = none → exec .writeBack s = .next s)) ∧
    (1 < s.ev.c → exec .writeBack s = .next (s.lineDrop a b)) ∧
    (∀ x, (k.wanted.find? fun x => x.key = b) = some x → s.mayAsk a x = true →
      exec .ownershipRequest s = .next ((s.openDir (a / 16) x []).askDir a x)) ∧
    (∀ d, FMap.find (s.cluAt (a / 16)).dir b = some d → d.awaits (a % 16) = true →
      exec .invalidationAck s =
        .next (((s.l1Give a b).setDir (a / 16) b (d.answer (a % 16))).settleDir (a / 16) b)) ∧
    (∀ d c g, FMap.find (s.cluAt (a / 16)).dir b = some d → d.request = some (c, [a % 16]) → FMap.find k.l1 b = none →
      FMap.find (s.coreAt (a / 16 * 16 + c)).l1 b = some g →
      ∃ t, exec .invalidationAck s = .next t ∧ { t with clusters := s.clusters } = s ∧
        FMap.find (t.cluAt (a / 16)).dir b =
          some { d with sharers := [], coarse := false, owner := some c, request := none }) ∧
    (∀ d, FMap.find (s.cluAt (a / 16)).dir b = some d → d.owner = some (a % 16) → d.request = none →
      FMap.find k.l1 b = none →
      ∃ t, exec .evictionNotice s = .next t ∧ { t with clusters := s.clusters } = s ∧
        FMap.find (t.cluAt (a / 16)).dir b = none) ∧
    (∀ d c g, FMap.find (s.cluAt (a / 16)).dir b = some d → d.request = some (c, [a % 16]) → FMap.find k.l1 b = none →
      FMap.find (s.coreAt (a / 16 * 16 + c)).l1 b = some g →
      ∃ t, exec .evictionNotice s = .next t ∧ { t with clusters := s.clusters } = s ∧
        FMap.find (t.cluAt (a / 16)).dir b =
          some { d with sharers := [], coarse := false, owner := some c, request := none }) ∧
    (s.ev.c = 1 → exec .peerReadRequest s = .next { s with hostData := (List.range b).map fun i => s.deviceByte (a + i) } ∧
      exec .peerWrite s = .next (s.homeWrite a (s.ev.bytes.take (s.memBytes - a)))) ∧
    (s.ev.c ≠ 1 → isPeerKey b = true → exec .peerReadRequest s =
      .next (s.remoteIn a (b / 64 * 64) (s.ev.v.toNat % 64))) ∧
    (s.ev.c = 2 → exec .peerWrite s = .next (s.performRemote b a s.ev.bytes)) ∧
    (s.ev.c = 0 → ∀ w rest, h.remoteOut = w :: rest → exec .peerWrite s =
      .next (((s.modHome a fun x => { x with remoteOut := rest }).modCore w.core fun c =>
        { c with remoteAcks := c.remoteAcks + 1 }).performRemote w.dev w.pa w.bytes)) ∧
    (∃ t, exec .remoteWriteAck s = .next t ∧ { t with cores := s.cores } = s ∧
      ∀ c, t.coreAt c = if c = a then { s.coreAt c with remoteAcks := k.remoteAcks - 1 } else s.coreAt c) ∧
    (∃ t, exec .acquireDropNotice s = .next t ∧ { t with homes := s.homes } = s ∧ (t.homeAt a).remote = []) ∧
    (∀ w lid hd d, s.donOut[a]? = some (w, lid, hd, d) → s.ev.c ≠ 1 →
      let n := s.donationAnswer hd
      let s1 := { s with donOut := s.donOut.take a ++ s.donOut.drop (a + 1) }
      exec .donationReceive s = .next (if n = 0 then s1.donationEnter hd 0 d
        else { s1 with donIn := s1.donIn ++ [(n, w, lid, hd, d)] })) ∧
    (∀ hd, s.donationAnswer hd < 3 ∧
      (hd / 2 ^ 32 % 2 ^ 12 = Config.deviceId % 2 ^ 12 → s.donationAnswer hd = s.donqAnswer hd) ∧
      (hd / 2 ^ 32 % 2 ^ 12 ≠ Config.deviceId % 2 ^ 12 → Config.knownDevice (hd / 2 ^ 32 % 2 ^ 12) = false →
        s.donationAnswer hd = 1)) ∧
    (∀ n w lid hd d, s.donIn[a]? = some (n, w, lid, hd, d) → (s.coreAt (w / 16)).inbox.length < 256 →
      ((s.launch? lid).isSome = true → ∃ t, exec .donationReply s = .next t ∧ (t.slotAt w).latch = true) ∧
      (s.launch? lid = none → exec .donationReply s = .next { s with donIn := s.donIn.take a ++ s.donIn.drop (a + 1) })) ∧
    ((s.cluAt a).beatAt + 700 * s.lease ≤ s.clk → s.usable.testBit a = true → ∃ t, exec .leaseHeartbeat s = .next t ∧
      (t.cluAt a).beatAt = s.clk ∧ t.mem = s.mem ∧
      ∀ n l, l ∈ (t.homeAt n).leases → l.cl = a → l.dead = false → l.beat = s.clk) ∧
    (∀ l, (h.leases.find? fun l => !l.read && l.pa = b && s.lapsed l && !s.usable.testBit l.cl) = some l → l.desc = false →
      ∃ t, exec .writeLeaseExpiry s = .next t ∧
        FMap.find t.poison (l.pa / 2 ^ l.size * 2 ^ l.size) = some (2 ^ l.size)) ∧
    (∀ l, (h.leases.find? fun l => l.read && l.pa = b && s.lapsed l && !s.usable.testBit l.cl) = some l →
      ∃ t, exec .readLeaseExpiry s = .next t ∧
      { t with homes := s.homes } = s ∧ FMap.find (t.homeAt a).remote b = none) ∧
    (∀ r, (k.residuals.find? fun r => r.req.pa = b && s.residualDue r) = some r →
      exec .residualAgeExpiry s = .next (s.sendResidual a r)) ∧
    (s.clk / 256 ≠ s.window → ∃ t, exec .quotaWindowStart s = .next t ∧ t.window = s.clk / 256 ∧ t.quotaNow = s.hqota ∧
      (∀ n, (t.homeAt n).quota = []) ∧ t.slots = s.slots ∧ t.mem = s.mem)
end

