-- ==== Sys2Proof/Laws/Encoding.lean ====
section
/-!
SUPPORT. Encoding and decoding: each field of a layout reads back from the word that holds it, and a word of a major
opcode reaches the function of that major.
-/
namespace Sys2Proof

/-! ### Fields of concatenated bits -/

theorem field_low {v w : Nat} (x : BitVec v) (y : BitVec w) : (x ++ y).extractLsb' 0 w = y := by
  simp [BitVec.extractLsb'_append_eq_of_add_le]

theorem field_above {v w : Nat} (x : BitVec v) (y : BitVec w) (s n : Nat) :
    (x ++ y).extractLsb' (w + s) n = x.extractLsb' s n := by
  rw [BitVec.extractLsb'_append_eq_of_le (Nat.le_add_right w s), Nat.add_sub_cancel_left]

theorem field_top {v : Nat} (x : BitVec v) : x.extractLsb' 0 v = x := by simp

theorem word_halves (w : BitVec 32) : w.extractLsb' 16 16 ++ w.extractLsb' 0 16 = w := by
  apply BitVec.eq_of_getLsbD_eq
  intro i h
  rw [BitVec.getLsbD_append]
  by_cases h1 : i < 16
  · simp [h1]
  · simp [h1, Nat.add_sub_cancel' (Nat.le_of_not_lt h1)]
    omega

/-! ### The length of an instruction (R58) -/

/-- A word whose bit 0 is set is read whole. -/
theorem decodeHalves_word {w : BitVec 32} {i : Instr} (rest : List (BitVec 16)) (h : w.extractLsb' 0 7 &&& 1#7 = 1#7)
    (hd : decodeWord w = .ok i) : decodeHalves (halvesOfWord w ++ rest) = .ok (i, 2) := by
  have h0 : (w.extractLsb' 0 16).getLsbD 0 = true := by
    have := congrArg (fun x => x.getLsbD 0) h
    simpa using this
  show decodeHalves (w.extractLsb' 0 16 :: w.extractLsb' 16 16 :: rest) = _
  simp only [decodeHalves, h0, if_true, word_halves, hd]

theorem accept_ok {cs : List (Bool × DecodeError)} {i : Instr} (h : firstFailure (cs ++ i.checks) = none) :
    accept cs i = .ok i := by
  simp only [accept, h]

theorem wf_checks {i : Instr} (h : i.wf = true) : firstFailure i.checks = none := by
  simpa [Instr.wf] using h

/-! ### The fields of each layout -/

theorem fmtS_op (la : BitVec 4) (fn : BitVec 6) (b : BitVec 5) (a : BitVec 5) (d : BitVec 5) (op : BitVec 7) :
    (fmtS la fn b a d op).extractLsb' 0 7 = op :=
  field_low _ _
theorem fmtS_d (la : BitVec 4) (fn : BitVec 6) (b : BitVec 5) (a : BitVec 5) (d : BitVec 5) (op : BitVec 7) :
    (fmtS la fn b a d op).extractLsb' 7 5 = d :=
  (field_above _ op 0 5).trans <| field_low _ _
theorem fmtS_a (la : BitVec 4) (fn : BitVec 6) (b : BitVec 5) (a : BitVec 5) (d : BitVec 5) (op : BitVec 7) :
    (fmtS la fn b a d op).extractLsb' 12 5 = a :=
  (field_above _ op 5 5).trans <| (field_above _ d 0 5).trans <| field_low _ _
theorem fmtS_b (la : BitVec 4) (fn : BitVec 6) (b : BitVec 5) (a : BitVec 5) (d : BitVec 5) (op : BitVec 7) :
    (fmtS la fn b a d op).extractLsb' 17 5 = b :=
  (field_above _ op 10 5).trans <| (field_above _ d 5 5).trans <| (field_above _ a 0 5).trans <| field_low _ _
theorem fmtS_fn (la : BitVec 4) (fn : BitVec 6) (b : BitVec 5) (a : BitVec 5) (d : BitVec 5) (op : BitVec 7) :
    (fmtS la fn b a d op).extractLsb' 22 6 = fn :=
  (field_above _ op 15 6).trans <| (field_above _ d 10 6).trans <| (field_above _ a 5 6).trans <| (field_above _ b 0 6).trans <| field_low _ _
theorem fmtS_la (la : BitVec 4) (fn : BitVec 6) (b : BitVec 5) (a : BitVec 5) (d : BitVec 5) (op : BitVec 7) :
    (fmtS la fn b a d op).extractLsb' 28 4 = la :=
  (field_above _ op 21 4).trans <| (field_above _ d 16 4).trans <| (field_above _ a 11 4).trans <| (field_above _ b 6 4).trans <| (field_above _ fn 0 4).trans <| field_top _
theorem fmtI_op (imm : BitVec 15) (a : BitVec 5) (d : BitVec 5) (op : BitVec 7) :
    (fmtI imm a d op).extractLsb' 0 7 = op :=
  field_low _ _
theorem fmtI_d (imm : BitVec 15) (a : BitVec 5) (d : BitVec 5) (op : BitVec 7) :
    (fmtI imm a d op).extractLsb' 7 5 = d :=
  (field_above _ op 0 5).trans <| field_low _ _
theorem fmtI_a (imm : BitVec 15) (a : BitVec 5) (d : BitVec 5) (op : BitVec 7) :
    (fmtI imm a d op).extractLsb' 12 5 = a :=
  (field_above _ op 5 5).trans <| (field_above _ d 0 5).trans <| field_low _ _
theorem fmtI_imm (imm : BitVec 15) (a : BitVec 5) (d : BitVec 5) (op : BitVec 7) :
    (fmtI imm a d op).extractLsb' 17 15 = imm :=
  (field_above _ op 10 15).trans <| (field_above _ d 5 15).trans <| (field_above _ a 0 15).trans <| field_top _
theorem fmtSh_op (sel : BitVec 2) (z : BitVec 7) (amt : BitVec 6) (a : BitVec 5) (d : BitVec 5) (op : BitVec 7) :
    (fmtSh sel z amt a d op).extractLsb' 0 7 = op :=
  field_low _ _
theorem fmtSh_d (sel : BitVec 2) (z : BitVec 7) (amt : BitVec 6) (a : BitVec 5) (d : BitVec 5) (op : BitVec 7) :
    (fmtSh sel z amt a d op).extractLsb' 7 5 = d :=
  (field_above _ op 0 5).trans <| field_low _ _
theorem fmtSh_a (sel : BitVec 2) (z : BitVec 7) (amt : BitVec 6) (a : BitVec 5) (d : BitVec 5) (op : BitVec 7) :
    (fmtSh sel z amt a d op).extractLsb' 12 5 = a :=
  (field_above _ op 5 5).trans <| (field_above _ d 0 5).trans <| field_low _ _
theorem fmtSh_amt (sel : BitVec 2) (z : BitVec 7) (amt : BitVec 6) (a : BitVec 5) (d : BitVec 5) (op : BitVec 7) :
    (fmtSh sel z amt a d op).extractLsb' 17 6 = amt :=
  (field_above _ op 10 6).trans <| (field_above _ d 5 6).trans <| (field_above _ a 0 6).trans <| field_low _ _
theorem fmtSh_z (sel : BitVec 2) (z : BitVec 7) (amt : BitVec 6) (a : BitVec 5) (d : BitVec 5) (op : BitVec 7) :
    (fmtSh sel z amt a d op).extractLsb' 23 7 = z :=
  (field_above _ op 16 7).trans <| (field_above _ d 11 7).trans <| (field_above _ a 6 7).trans <| (field_above _ amt 0 7).trans <| field_low _ _
theorem fmtSh_sel (sel : BitVec 2) (z : BitVec 7) (amt : BitVec 6) (a : BitVec 5) (d : BitVec 5) (op : BitVec 7) :
    (fmtSh sel z amt a d op).extractLsb' 30 2 = sel :=
  (field_above _ op 23 2).trans <| (field_above _ d 18 2).trans <| (field_above _ a 13 2).trans <| (field_above _ amt 7 2).trans <| (field_above _ z 0 2).trans <| field_top _
theorem fmtBf_op (sel : BitVec 1) (z : BitVec 2) (pos : BitVec 6) (len1 : BitVec 6) (a : BitVec 5) (d : BitVec 5) (op : BitVec 7) :
    (fmtBf sel z pos len1 a d op).extractLsb' 0 7 = op :=
  field_low _ _
theorem fmtBf_d (sel : BitVec 1) (z : BitVec 2) (pos : BitVec 6) (len1 : BitVec 6) (a : BitVec 5) (d : BitVec 5) (op : BitVec 7) :
    (fmtBf sel z pos len1 a d op).extractLsb' 7 5 = d :=
  (field_above _ op 0 5).trans <| field_low _ _
theorem fmtBf_a (sel : BitVec 1) (z : BitVec 2) (pos : BitVec 6) (len1 : BitVec 6) (a : BitVec 5) (d : BitVec 5) (op : BitVec 7) :
    (fmtBf sel z pos len1 a d op).extractLsb' 12 5 = a :=
  (field_above _ op 5 5).trans <| (field_above _ d 0 5).trans <| field_low _ _
theorem fmtBf_len1 (sel : BitVec 1) (z : BitVec 2) (pos : BitVec 6) (len1 : BitVec 6) (a : BitVec 5) (d : BitVec 5) (op : BitVec 7) :
    (fmtBf sel z pos len1 a d op).extractLsb' 17 6 = len1 :=
  (field_above _ op 10 6).trans <| (field_above _ d 5 6).trans <| (field_above _ a 0 6).trans <| field_low _ _
theorem fmtBf_pos (sel : BitVec 1) (z : BitVec 2) (pos : BitVec 6) (len1 : BitVec 6) (a : BitVec 5) (d : BitVec 5) (op : BitVec 7) :
    (fmtBf sel z pos len1 a d op).extractLsb' 23 6 = pos :=
  (field_above _ op 16 6).trans <| (field_above _ d 11 6).trans <| (field_above _ a 6 6).trans <| (field_above _ len1 0 6).trans <| field_low _ _
theorem fmtBf_z (sel : BitVec 1) (z : BitVec 2) (pos : BitVec 6) (len1 : BitVec 6) (a : BitVec 5) (d : BitVec 5) (op : BitVec 7) :
    (fmtBf sel z pos len1 a d op).extractLsb' 29 2 = z :=
  (field_above _ op 22 2).trans <| (field_above _ d 17 2).trans <| (field_above _ a 12 2).trans <| (field_above _ len1 6 2).trans <| (field_above _ pos 0 2).trans <| field_low _ _
theorem fmtBf_sel (sel : BitVec 1) (z : BitVec 2) (pos : BitVec 6) (len1 : BitVec 6) (a : BitVec 5) (d : BitVec 5) (op : BitVec 7) :
    (fmtBf sel z pos len1 a d op).extractLsb' 31 1 = sel :=
  (field_above _ op 24 1).trans <| (field_above _ d 19 1).trans <| (field_above _ a 14 1).trans <| (field_above _ len1 8 1).trans <| (field_above _ pos 2 1).trans <| (field_above _ z 0 1).trans <| field_top _
theorem fmtU_op (imm : BitVec 20) (d : BitVec 5) (op : BitVec 7) :
    (fmtU imm d op).extractLsb' 0 7 = op :=
  field_low _ _
theorem fmtU_d (imm : BitVec 20) (d : BitVec 5) (op : BitVec 7) :
    (fmtU imm d op).extractLsb' 7 5 = d :=
  (field_above _ op 0 5).trans <| field_low _ _
theorem fmtU_imm (imm : BitVec 20) (d : BitVec 5) (op : BitVec 7) :
    (fmtU imm d op).extractLsb' 12 20 = imm :=
  (field_above _ op 5 20).trans <| (field_above _ d 0 20).trans <| field_top _
theorem fmtB_op (off : BitVec 12) (cond : BitVec 3) (b : BitVec 5) (a : BitVec 5) (op : BitVec 7) :
    (fmtB off cond b a op).extractLsb' 0 7 = op :=
  field_low _ _
theorem fmtB_a (off : BitVec 12) (cond : BitVec 3) (b : BitVec 5) (a : BitVec 5) (op : BitVec 7) :
    (fmtB off cond b a op).extractLsb' 7 5 = a :=
  (field_above _ op 0 5).trans <| field_low _ _
theorem fmtB_b (off : BitVec 12) (cond : BitVec 3) (b : BitVec 5) (a : BitVec 5) (op : BitVec 7) :
    (fmtB off cond b a op).extractLsb' 12 5 = b :=
  (field_above _ op 5 5).trans <| (field_above _ a 0 5).trans <| field_low _ _
theorem fmtB_cond (off : BitVec 12) (cond : BitVec 3) (b : BitVec 5) (a : BitVec 5) (op : BitVec 7) :
    (fmtB off cond b a op).extractLsb' 17 3 = cond :=
  (field_above _ op 10 3).trans <| (field_above _ a 5 3).trans <| (field_above _ b 0 3).trans <| field_low _ _
theorem fmtB_off (off : BitVec 12) (cond : BitVec 3) (b : BitVec 5) (a : BitVec 5) (op : BitVec 7) :
    (fmtB off cond b a op).extractLsb' 20 12 = off :=
  (field_above _ op 13 12).trans <| (field_above _ a 8 12).trans <| (field_above _ b 3 12).trans <| (field_above _ cond 0 12).trans <| field_top _
theorem fmtJ_op (off : BitVec 20) (d : BitVec 5) (op : BitVec 7) :
    (fmtJ off d op).extractLsb' 0 7 = op :=
  field_low _ _
theorem fmtJ_d (off : BitVec 20) (d : BitVec 5) (op : BitVec 7) :
    (fmtJ off d op).extractLsb' 7 5 = d :=
  (field_above _ op 0 5).trans <| field_low _ _
theorem fmtJ_off (off : BitVec 20) (d : BitVec 5) (op : BitVec 7) :
    (fmtJ off d op).extractLsb' 12 20 = off :=
  (field_above _ op 5 20).trans <| (field_above _ d 0 20).trans <| field_top _
theorem fmtSr_op (sel : BitVec 2) (z : BitVec 1) (sr : BitVec 12) (a : BitVec 5) (d : BitVec 5) (op : BitVec 7) :
    (fmtSr sel z sr a d op).extractLsb' 0 7 = op :=
  field_low _ _
theorem fmtSr_d (sel : BitVec 2) (z : BitVec 1) (sr : BitVec 12) (a : BitVec 5) (d : BitVec 5) (op : BitVec 7) :
    (fmtSr sel z sr a d op).extractLsb' 7 5 = d :=
  (field_above _ op 0 5).trans <| field_low _ _
theorem fmtSr_a (sel : BitVec 2) (z : BitVec 1) (sr : BitVec 12) (a : BitVec 5) (d : BitVec 5) (op : BitVec 7) :
    (fmtSr sel z sr a d op).extractLsb' 12 5 = a :=
  (field_above _ op 5 5).trans <| (field_above _ d 0 5).trans <| field_low _ _
theorem fmtSr_sr (sel : BitVec 2) (z : BitVec 1) (sr : BitVec 12) (a : BitVec 5) (d : BitVec 5) (op : BitVec 7) :
    (fmtSr sel z sr a d op).extractLsb' 17 12 = sr :=
  (field_above _ op 10 12).trans <| (field_above _ d 5 12).trans <| (field_above _ a 0 12).trans <| field_low _ _
theorem fmtSr_z (sel : BitVec 2) (z : BitVec 1) (sr : BitVec 12) (a : BitVec 5) (d : BitVec 5) (op : BitVec 7) :
    (fmtSr sel z sr a d op).extractLsb' 29 1 = z :=
  (field_above _ op 22 1).trans <| (field_above _ d 17 1).trans <| (field_above _ a 12 1).trans <| (field_above _ sr 0 1).trans <| field_low _ _
theorem fmtSr_sel (sel : BitVec 2) (z : BitVec 1) (sr : BitVec 12) (a : BitVec 5) (d : BitVec 5) (op : BitVec 7) :
    (fmtSr sel z sr a d op).extractLsb' 30 2 = sel :=
  (field_above _ op 23 2).trans <| (field_above _ d 18 2).trans <| (field_above _ a 13 2).trans <| (field_above _ sr 1 2).trans <| (field_above _ z 0 2).trans <| field_top _
theorem fmtM_op (imm : BitVec 11) (la : BitVec 4) (a : BitVec 5) (d : BitVec 5) (op : BitVec 7) :
    (fmtM imm la a d op).extractLsb' 0 7 = op :=
  field_low _ _
theorem fmtM_d (imm : BitVec 11) (la : BitVec 4) (a : BitVec 5) (d : BitVec 5) (op : BitVec 7) :
    (fmtM imm la a d op).extractLsb' 7 5 = d :=
  (field_above _ op 0 5).trans <| field_low _ _
theorem fmtM_a (imm : BitVec 11) (la : BitVec 4) (a : BitVec 5) (d : BitVec 5) (op : BitVec 7) :
    (fmtM imm la a d op).extractLsb' 12 5 = a :=
  (field_above _ op 5 5).trans <| (field_above _ d 0 5).trans <| field_low _ _
theorem fmtM_la (imm : BitVec 11) (la : BitVec 4) (a : BitVec 5) (d : BitVec 5) (op : BitVec 7) :
    (fmtM imm la a d op).extractLsb' 17 4 = la :=
  (field_above _ op 10 4).trans <| (field_above _ d 5 4).trans <| (field_above _ a 0 4).trans <| field_low _ _
theorem fmtM_imm (imm : BitVec 11) (la : BitVec 4) (a : BitVec 5) (d : BitVec 5) (op : BitVec 7) :
    (fmtM imm la a d op).extractLsb' 21 11 = imm :=
  (field_above _ op 14 11).trans <| (field_above _ d 9 11).trans <| (field_above _ a 4 11).trans <| (field_above _ la 0 11).trans <| field_top _
theorem fmtO_op (fn : BitVec 3) (la : BitVec 4) (scope : BitVec 3) (b : BitVec 5) (a : BitVec 5) (d : BitVec 5) (op : BitVec 7) :
    (fmtO fn la scope b a d op).extractLsb' 0 7 = op :=
  field_low _ _
theorem fmtO_d (fn : BitVec 3) (la : BitVec 4) (scope : BitVec 3) (b : BitVec 5) (a : BitVec 5) (d : BitVec 5) (op : BitVec 7) :
    (fmtO fn la scope b a d op).extractLsb' 7 5 = d :=
  (field_above _ op 0 5).trans <| field_low _ _
theorem fmtO_a (fn : BitVec 3) (la : BitVec 4) (scope : BitVec 3) (b : BitVec 5) (a : BitVec 5) (d : BitVec 5) (op : BitVec 7) :
    (fmtO fn la scope b a d op).extractLsb' 12 5 = a :=
  (field_above _ op 5 5).trans <| (field_above _ d 0 5).trans <| field_low _ _
theorem fmtO_b (fn : BitVec 3) (la : BitVec 4) (scope : BitVec 3) (b : BitVec 5) (a : BitVec 5) (d : BitVec 5) (op : BitVec 7) :
    (fmtO fn la scope b a d op).extractLsb' 17 5 = b :=
  (field_above _ op 10 5).trans <| (field_above _ d 5 5).trans <| (field_above _ a 0 5).trans <| field_low _ _
theorem fmtO_scope (fn : BitVec 3) (la : BitVec 4) (scope : BitVec 3) (b : BitVec 5) (a : BitVec 5) (d : BitVec 5) (op : BitVec 7) :
    (fmtO fn la scope b a d op).extractLsb' 22 3 = scope :=
  (field_above _ op 15 3).trans <| (field_above _ d 10 3).trans <| (field_above _ a 5 3).trans <| (field_above _ b 0 3).trans <| field_low _ _
theorem fmtO_la (fn : BitVec 3) (la : BitVec 4) (scope : BitVec 3) (b : BitVec 5) (a : BitVec 5) (d : BitVec 5) (op : BitVec 7) :
    (fmtO fn la scope b a d op).extractLsb' 25 4 = la :=
  (field_above _ op 18 4).trans <| (field_above _ d 13 4).trans <| (field_above _ a 8 4).trans <| (field_above _ b 3 4).trans <| (field_above _ scope 0 4).trans <| field_low _ _
theorem fmtO_fn (fn : BitVec 3) (la : BitVec 4) (scope : BitVec 3) (b : BitVec 5) (a : BitVec 5) (d : BitVec 5) (op : BitVec 7) :
    (fmtO fn la scope b a d op).extractLsb' 29 3 = fn :=
  (field_above _ op 22 3).trans <| (field_above _ d 17 3).trans <| (field_above _ a 12 3).trans <| (field_above _ b 7 3).trans <| (field_above _ scope 4 3).trans <| (field_above _ la 0 3).trans <| field_top _
theorem fmtA_op (sz : BitVec 1) (fn : BitVec 4) (ord : BitVec 2) (scope : BitVec 3) (b : BitVec 5) (a : BitVec 5) (d : BitVec 5) (op : BitVec 7) :
    (fmtA sz fn ord scope b a d op).extractLsb' 0 7 = op :=
  field_low _ _
theorem fmtA_d (sz : BitVec 1) (fn : BitVec 4) (ord : BitVec 2) (scope : BitVec 3) (b : BitVec 5) (a : BitVec 5) (d : BitVec 5) (op : BitVec 7) :
    (fmtA sz fn ord scope b a d op).extractLsb' 7 5 = d :=
  (field_above _ op 0 5).trans <| field_low _ _
theorem fmtA_a (sz : BitVec 1) (fn : BitVec 4) (ord : BitVec 2) (scope : BitVec 3) (b : BitVec 5) (a : BitVec 5) (d : BitVec 5) (op : BitVec 7) :
    (fmtA sz fn ord scope b a d op).extractLsb' 12 5 = a :=
  (field_above _ op 5 5).trans <| (field_above _ d 0 5).trans <| field_low _ _
theorem fmtA_b (sz : BitVec 1) (fn : BitVec 4) (ord : BitVec 2) (scope : BitVec 3) (b : BitVec 5) (a : BitVec 5) (d : BitVec 5) (op : BitVec 7) :
    (fmtA sz fn ord scope b a d op).extractLsb' 17 5 = b :=
  (field_above _ op 10 5).trans <| (field_above _ d 5 5).trans <| (field_above _ a 0 5).trans <| field_low _ _
theorem fmtA_scope (sz : BitVec 1) (fn : BitVec 4) (ord : BitVec 2) (scope : BitVec 3) (b : BitVec 5) (a : BitVec 5) (d : BitVec 5) (op : BitVec 7) :
    (fmtA sz fn ord scope b a d op).extractLsb' 22 3 = scope :=
  (field_above _ op 15 3).trans <| (field_above _ d 10 3).trans <| (field_above _ a 5 3).trans <| (field_above _ b 0 3).trans <| field_low _ _
theorem fmtA_ord (sz : BitVec 1) (fn : BitVec 4) (ord : BitVec 2) (scope : BitVec 3) (b : BitVec 5) (a : BitVec 5) (d : BitVec 5) (op : BitVec 7) :
    (fmtA sz fn ord scope b a d op).extractLsb' 25 2 = ord :=
  (field_above _ op 18 2).trans <| (field_above _ d 13 2).trans <| (field_above _ a 8 2).trans <| (field_above _ b 3 2).trans <| (field_above _ scope 0 2).trans <| field_low _ _
theorem fmtA_fn (sz : BitVec 1) (fn : BitVec 4) (ord : BitVec 2) (scope : BitVec 3) (b : BitVec 5) (a : BitVec 5) (d : BitVec 5) (op : BitVec 7) :
    (fmtA sz fn ord scope b a d op).extractLsb' 27 4 = fn :=
  (field_above _ op 20 4).trans <| (field_above _ d 15 4).trans <| (field_above _ a 10 4).trans <| (field_above _ b 5 4).trans <| (field_above _ scope 2 4).trans <| (field_above _ ord 0 4).trans <| field_low _ _
theorem fmtA_sz (sz : BitVec 1) (fn : BitVec 4) (ord : BitVec 2) (scope : BitVec 3) (b : BitVec 5) (a : BitVec 5) (d : BitVec 5) (op : BitVec 7) :
    (fmtA sz fn ord scope b a d op).extractLsb' 31 1 = sz :=
  (field_above _ op 24 1).trans <| (field_above _ d 19 1).trans <| (field_above _ a 14 1).trans <| (field_above _ b 9 1).trans <| (field_above _ scope 6 1).trans <| (field_above _ ord 4 1).trans <| (field_above _ fn 0 1).trans <| field_top _
theorem fmtSs_op (la : BitVec 4) (fn : BitVec 6) (kind : BitVec 2) (sc : BitVec 3) (a : BitVec 5) (d : BitVec 5) (op : BitVec 7) :
    (fmtSs la fn kind sc a d op).extractLsb' 0 7 = op :=
  field_low _ _
theorem fmtSs_d (la : BitVec 4) (fn : BitVec 6) (kind : BitVec 2) (sc : BitVec 3) (a : BitVec 5) (d : BitVec 5) (op : BitVec 7) :
    (fmtSs la fn kind sc a d op).extractLsb' 7 5 = d :=
  (field_above _ op 0 5).trans <| field_low _ _
theorem fmtSs_a (la : BitVec 4) (fn : BitVec 6) (kind : BitVec 2) (sc : BitVec 3) (a : BitVec 5) (d : BitVec 5) (op : BitVec 7) :
    (fmtSs la fn kind sc a d op).extractLsb' 12 5 = a :=
  (field_above _ op 5 5).trans <| (field_above _ d 0 5).trans <| field_low _ _
theorem fmtSs_sc (la : BitVec 4) (fn : BitVec 6) (kind : BitVec 2) (sc : BitVec 3) (a : BitVec 5) (d : BitVec 5) (op : BitVec 7) :
    (fmtSs la fn kind sc a d op).extractLsb' 17 3 = sc :=
  (field_above _ op 10 3).trans <| (field_above _ d 5 3).trans <| (field_above _ a 0 3).trans <| field_low _ _
theorem fmtSs_kind (la : BitVec 4) (fn : BitVec 6) (kind : BitVec 2) (sc : BitVec 3) (a : BitVec 5) (d : BitVec 5) (op : BitVec 7) :
    (fmtSs la fn kind sc a d op).extractLsb' 20 2 = kind :=
  (field_above _ op 13 2).trans <| (field_above _ d 8 2).trans <| (field_above _ a 3 2).trans <| (field_above _ sc 0 2).trans <| field_low _ _
theorem fmtSs_fn (la : BitVec 4) (fn : BitVec 6) (kind : BitVec 2) (sc : BitVec 3) (a : BitVec 5) (d : BitVec 5) (op : BitVec 7) :
    (fmtSs la fn kind sc a d op).extractLsb' 22 6 = fn :=
  (field_above _ op 15 6).trans <| (field_above _ d 10 6).trans <| (field_above _ a 5 6).trans <| (field_above _ sc 2 6).trans <| (field_above _ kind 0 6).trans <| field_low _ _
theorem fmtSs_la (la : BitVec 4) (fn : BitVec 6) (kind : BitVec 2) (sc : BitVec 3) (a : BitVec 5) (d : BitVec 5) (op : BitVec 7) :
    (fmtSs la fn kind sc a d op).extractLsb' 28 4 = la :=
  (field_above _ op 21 4).trans <| (field_above _ d 16 4).trans <| (field_above _ a 11 4).trans <| (field_above _ sc 8 4).trans <| (field_above _ kind 6 4).trans <| (field_above _ fn 0 4).trans <| field_top _
theorem fmtTr_op (sel : BitVec 4) (code : BitVec 11) (a : BitVec 5) (d : BitVec 5) (op : BitVec 7) :
    (fmtTr sel code a d op).extractLsb' 0 7 = op :=
  field_low _ _
theorem fmtTr_d (sel : BitVec 4) (code : BitVec 11) (a : BitVec 5) (d : BitVec 5) (op : BitVec 7) :
    (fmtTr sel code a d op).extractLsb' 7 5 = d :=
  (field_above _ op 0 5).trans <| field_low _ _
theorem fmtTr_a (sel : BitVec 4) (code : BitVec 11) (a : BitVec 5) (d : BitVec 5) (op : BitVec 7) :
    (fmtTr sel code a d op).extractLsb' 12 5 = a :=
  (field_above _ op 5 5).trans <| (field_above _ d 0 5).trans <| field_low _ _
theorem fmtTr_code (sel : BitVec 4) (code : BitVec 11) (a : BitVec 5) (d : BitVec 5) (op : BitVec 7) :
    (fmtTr sel code a d op).extractLsb' 17 11 = code :=
  (field_above _ op 10 11).trans <| (field_above _ d 5 11).trans <| (field_above _ a 0 11).trans <| field_low _ _
theorem fmtTr_sel (sel : BitVec 4) (code : BitVec 11) (a : BitVec 5) (d : BitVec 5) (op : BitVec 7) :
    (fmtTr sel code a d op).extractLsb' 28 4 = sel :=
  (field_above _ op 21 4).trans <| (field_above _ d 16 4).trans <| (field_above _ a 11 4).trans <| (field_above _ code 0 4).trans <| field_top _
theorem fmtV_op (fn : BitVec 4) (k : BitVec 3) (b : BitVec 6) (a : BitVec 6) (d : BitVec 6) (op : BitVec 7) :
    (fmtV fn k b a d op).extractLsb' 0 7 = op :=
  field_low _ _
theorem fmtV_d (fn : BitVec 4) (k : BitVec 3) (b : BitVec 6) (a : BitVec 6) (d : BitVec 6) (op : BitVec 7) :
    (fmtV fn k b a d op).extractLsb' 7 6 = d :=
  (field_above _ op 0 6).trans <| field_low _ _
theorem fmtV_a (fn : BitVec 4) (k : BitVec 3) (b : BitVec 6) (a : BitVec 6) (d : BitVec 6) (op : BitVec 7) :
    (fmtV fn k b a d op).extractLsb' 13 6 = a :=
  (field_above _ op 6 6).trans <| (field_above _ d 0 6).trans <| field_low _ _
theorem fmtV_b (fn : BitVec 4) (k : BitVec 3) (b : BitVec 6) (a : BitVec 6) (d : BitVec 6) (op : BitVec 7) :
    (fmtV fn k b a d op).extractLsb' 19 6 = b :=
  (field_above _ op 12 6).trans <| (field_above _ d 6 6).trans <| (field_above _ a 0 6).trans <| field_low _ _
theorem fmtV_k (fn : BitVec 4) (k : BitVec 3) (b : BitVec 6) (a : BitVec 6) (d : BitVec 6) (op : BitVec 7) :
    (fmtV fn k b a d op).extractLsb' 25 3 = k :=
  (field_above _ op 18 3).trans <| (field_above _ d 12 3).trans <| (field_above _ a 6 3).trans <| (field_above _ b 0 3).trans <| field_low _ _
theorem fmtV_fn (fn : BitVec 4) (k : BitVec 3) (b : BitVec 6) (a : BitVec 6) (d : BitVec 6) (op : BitVec 7) :
    (fmtV fn k b a d op).extractLsb' 28 4 = fn :=
  (field_above _ op 21 4).trans <| (field_above _ d 15 4).trans <| (field_above _ a 9 4).trans <| (field_above _ b 3 4).trans <| (field_above _ k 0 4).trans <| field_top _
theorem fmtV4_op (k1en : BitVec 1) (c : BitVec 6) (b : BitVec 6) (a : BitVec 6) (d : BitVec 6) (op : BitVec 7) :
    (fmtV4 k1en c b a d op).extractLsb' 0 7 = op :=
  field_low _ _
theorem fmtV4_d (k1en : BitVec 1) (c : BitVec 6) (b : BitVec 6) (a : BitVec 6) (d : BitVec 6) (op : BitVec 7) :
    (fmtV4 k1en c b a d op).extractLsb' 7 6 = d :=
  (field_above _ op 0 6).trans <| field_low _ _
theorem fmtV4_a (k1en : BitVec 1) (c : BitVec 6) (b : BitVec 6) (a : BitVec 6) (d : BitVec 6) (op : BitVec 7) :
    (fmtV4 k1en c b a d op).extractLsb' 13 6 = a :=
  (field_above _ op 6 6).trans <| (field_above _ d 0 6).trans <| field_low _ _
theorem fmtV4_b (k1en : BitVec 1) (c : BitVec 6) (b : BitVec 6) (a : BitVec 6) (d : BitVec 6) (op : BitVec 7) :
    (fmtV4 k1en c b a d op).extractLsb' 19 6 = b :=
  (field_above _ op 12 6).trans <| (field_above _ d 6 6).trans <| (field_above _ a 0 6).trans <| field_low _ _
theorem fmtV4_c (k1en : BitVec 1) (c : BitVec 6) (b : BitVec 6) (a : BitVec 6) (d : BitVec 6) (op : BitVec 7) :
    (fmtV4 k1en c b a d op).extractLsb' 25 6 = c :=
  (field_above _ op 18 6).trans <| (field_above _ d 12 6).trans <| (field_above _ a 6 6).trans <| (field_above _ b 0 6).trans <| field_low _ _
theorem fmtV4_k1en (k1en : BitVec 1) (c : BitVec 6) (b : BitVec 6) (a : BitVec 6) (d : BitVec 6) (op : BitVec 7) :
    (fmtV4 k1en c b a d op).extractLsb' 31 1 = k1en :=
  (field_above _ op 24 1).trans <| (field_above _ d 18 1).trans <| (field_above _ a 12 1).trans <| (field_above _ b 6 1).trans <| (field_above _ c 0 1).trans <| field_top _
theorem fmtVM_op (mode : BitVec 3) (ty : BitVec 3) (k : BitVec 3) (x : BitVec 5) (s : BitVec 5) (v : BitVec 6) (op : BitVec 7) :
    (fmtVM mode ty k x s v op).extractLsb' 0 7 = op :=
  field_low _ _
theorem fmtVM_v (mode : BitVec 3) (ty : BitVec 3) (k : BitVec 3) (x : BitVec 5) (s : BitVec 5) (v : BitVec 6) (op : BitVec 7) :
    (fmtVM mode ty k x s v op).extractLsb' 7 6 = v :=
  (field_above _ op 0 6).trans <| field_low _ _
theorem fmtVM_s (mode : BitVec 3) (ty : BitVec 3) (k : BitVec 3) (x : BitVec 5) (s : BitVec 5) (v : BitVec 6) (op : BitVec 7) :
    (fmtVM mode ty k x s v op).extractLsb' 13 5 = s :=
  (field_above _ op 6 5).trans <| (field_above _ v 0 5).trans <| field_low _ _
theorem fmtVM_x (mode : BitVec 3) (ty : BitVec 3) (k : BitVec 3) (x : BitVec 5) (s : BitVec 5) (v : BitVec 6) (op : BitVec 7) :
    (fmtVM mode ty k x s v op).extractLsb' 18 5 = x :=
  (field_above _ op 11 5).trans <| (field_above _ v 5 5).trans <| (field_above _ s 0 5).trans <| field_low _ _
theorem fmtVM_k (mode : BitVec 3) (ty : BitVec 3) (k : BitVec 3) (x : BitVec 5) (s : BitVec 5) (v : BitVec 6) (op : BitVec 7) :
    (fmtVM mode ty k x s v op).extractLsb' 23 3 = k :=
  (field_above _ op 16 3).trans <| (field_above _ v 10 3).trans <| (field_above _ s 5 3).trans <| (field_above _ x 0 3).trans <| field_low _ _
theorem fmtVM_ty (mode : BitVec 3) (ty : BitVec 3) (k : BitVec 3) (x : BitVec 5) (s : BitVec 5) (v : BitVec 6) (op : BitVec 7) :
    (fmtVM mode ty k x s v op).extractLsb' 26 3 = ty :=
  (field_above _ op 19 3).trans <| (field_above _ v 13 3).trans <| (field_above _ s 8 3).trans <| (field_above _ x 3 3).trans <| (field_above _ k 0 3).trans <| field_low _ _
theorem fmtVM_mode (mode : BitVec 3) (ty : BitVec 3) (k : BitVec 3) (x : BitVec 5) (s : BitVec 5) (v : BitVec 6) (op : BitVec 7) :
    (fmtVM mode ty k x s v op).extractLsb' 29 3 = mode :=
  (field_above _ op 22 3).trans <| (field_above _ v 16 3).trans <| (field_above _ s 11 3).trans <| (field_above _ x 6 3).trans <| (field_above _ k 3 3).trans <| (field_above _ ty 0 3).trans <| field_top _
theorem fmtSB_op (z1 : BitVec 4) (fn : BitVec 6) (z2 : BitVec 4) (a : BitVec 5) (v : BitVec 6) (op : BitVec 7) :
    (fmtSB z1 fn z2 a v op).extractLsb' 0 7 = op :=
  field_low _ _
theorem fmtSB_v (z1 : BitVec 4) (fn : BitVec 6) (z2 : BitVec 4) (a : BitVec 5) (v : BitVec 6) (op : BitVec 7) :
    (fmtSB z1 fn z2 a v op).extractLsb' 7 6 = v :=
  (field_above _ op 0 6).trans <| field_low _ _
theorem fmtSB_a (z1 : BitVec 4) (fn : BitVec 6) (z2 : BitVec 4) (a : BitVec 5) (v : BitVec 6) (op : BitVec 7) :
    (fmtSB z1 fn z2 a v op).extractLsb' 13 5 = a :=
  (field_above _ op 6 5).trans <| (field_above _ v 0 5).trans <| field_low _ _
theorem fmtSB_z2 (z1 : BitVec 4) (fn : BitVec 6) (z2 : BitVec 4) (a : BitVec 5) (v : BitVec 6) (op : BitVec 7) :
    (fmtSB z1 fn z2 a v op).extractLsb' 18 4 = z2 :=
  (field_above _ op 11 4).trans <| (field_above _ v 5 4).trans <| (field_above _ a 0 4).trans <| field_low _ _
theorem fmtSB_fn (z1 : BitVec 4) (fn : BitVec 6) (z2 : BitVec 4) (a : BitVec 5) (v : BitVec 6) (op : BitVec 7) :
    (fmtSB z1 fn z2 a v op).extractLsb' 22 6 = fn :=
  (field_above _ op 15 6).trans <| (field_above _ v 9 6).trans <| (field_above _ a 4 6).trans <| (field_above _ z2 0 6).trans <| field_low _ _
theorem fmtSB_z1 (z1 : BitVec 4) (fn : BitVec 6) (z2 : BitVec 4) (a : BitVec 5) (v : BitVec 6) (op : BitVec 7) :
    (fmtSB z1 fn z2 a v op).extractLsb' 28 4 = z1 :=
  (field_above _ op 21 4).trans <| (field_above _ v 15 4).trans <| (field_above _ a 10 4).trans <| (field_above _ z2 6 4).trans <| (field_above _ fn 0 4).trans <| field_top _
theorem fmtT_op (fn : BitVec 5) (kind : BitVec 4) (tc : BitVec 4) (tb : BitVec 4) (ta : BitVec 4) (td : BitVec 4) (op : BitVec 7) :
    (fmtT fn kind tc tb ta td op).extractLsb' 0 7 = op :=
  field_low _ _
theorem fmtT_td (fn : BitVec 5) (kind : BitVec 4) (tc : BitVec 4) (tb : BitVec 4) (ta : BitVec 4) (td : BitVec 4) (op : BitVec 7) :
    (fmtT fn kind tc tb ta td op).extractLsb' 7 4 = td :=
  (field_above _ op 0 4).trans <| field_low _ _
theorem fmtT_ta (fn : BitVec 5) (kind : BitVec 4) (tc : BitVec 4) (tb : BitVec 4) (ta : BitVec 4) (td : BitVec 4) (op : BitVec 7) :
    (fmtT fn kind tc tb ta td op).extractLsb' 11 4 = ta :=
  (field_above _ op 4 4).trans <| (field_above _ td 0 4).trans <| field_low _ _
theorem fmtT_tb (fn : BitVec 5) (kind : BitVec 4) (tc : BitVec 4) (tb : BitVec 4) (ta : BitVec 4) (td : BitVec 4) (op : BitVec 7) :
    (fmtT fn kind tc tb ta td op).extractLsb' 15 4 = tb :=
  (field_above _ op 8 4).trans <| (field_above _ td 4 4).trans <| (field_above _ ta 0 4).trans <| field_low _ _
theorem fmtT_tc (fn : BitVec 5) (kind : BitVec 4) (tc : BitVec 4) (tb : BitVec 4) (ta : BitVec 4) (td : BitVec 4) (op : BitVec 7) :
    (fmtT fn kind tc tb ta td op).extractLsb' 19 4 = tc :=
  (field_above _ op 12 4).trans <| (field_above _ td 8 4).trans <| (field_above _ ta 4 4).trans <| (field_above _ tb 0 4).trans <| field_low _ _
theorem fmtT_kind (fn : BitVec 5) (kind : BitVec 4) (tc : BitVec 4) (tb : BitVec 4) (ta : BitVec 4) (td : BitVec 4) (op : BitVec 7) :
    (fmtT fn kind tc tb ta td op).extractLsb' 23 4 = kind :=
  (field_above _ op 16 4).trans <| (field_above _ td 12 4).trans <| (field_above _ ta 8 4).trans <| (field_above _ tb 4 4).trans <| (field_above _ tc 0 4).trans <| field_low _ _
theorem fmtT_fn (fn : BitVec 5) (kind : BitVec 4) (tc : BitVec 4) (tb : BitVec 4) (ta : BitVec 4) (td : BitVec 4) (op : BitVec 7) :
    (fmtT fn kind tc tb ta td op).extractLsb' 27 5 = fn :=
  (field_above _ op 20 5).trans <| (field_above _ td 16 5).trans <| (field_above _ ta 12 5).trans <| (field_above _ tb 8 5).trans <| (field_above _ tc 4 5).trans <| (field_above _ kind 0 5).trans <| field_top _
theorem fmtTM_op (z : BitVec 7) (tag : BitVec 4) (stride : BitVec 5) (s : BitVec 5) (d : BitVec 4) (op : BitVec 7) :
    (fmtTM z tag stride s d op).extractLsb' 0 7 = op :=
  field_low _ _
theorem fmtTM_d (z : BitVec 7) (tag : BitVec 4) (stride : BitVec 5) (s : BitVec 5) (d : BitVec 4) (op : BitVec 7) :
    (fmtTM z tag stride s d op).extractLsb' 7 4 = d :=
  (field_above _ op 0 4).trans <| field_low _ _
theorem fmtTM_s (z : BitVec 7) (tag : BitVec 4) (stride : BitVec 5) (s : BitVec 5) (d : BitVec 4) (op : BitVec 7) :
    (fmtTM z tag stride s d op).extractLsb' 11 5 = s :=
  (field_above _ op 4 5).trans <| (field_above _ d 0 5).trans <| field_low _ _
theorem fmtTM_stride (z : BitVec 7) (tag : BitVec 4) (stride : BitVec 5) (s : BitVec 5) (d : BitVec 4) (op : BitVec 7) :
    (fmtTM z tag stride s d op).extractLsb' 16 5 = stride :=
  (field_above _ op 9 5).trans <| (field_above _ d 5 5).trans <| (field_above _ s 0 5).trans <| field_low _ _
theorem fmtTM_tag (z : BitVec 7) (tag : BitVec 4) (stride : BitVec 5) (s : BitVec 5) (d : BitVec 4) (op : BitVec 7) :
    (fmtTM z tag stride s d op).extractLsb' 21 4 = tag :=
  (field_above _ op 14 4).trans <| (field_above _ d 10 4).trans <| (field_above _ s 5 4).trans <| (field_above _ stride 0 4).trans <| field_low _ _
theorem fmtTM_z (z : BitVec 7) (tag : BitVec 4) (stride : BitVec 5) (s : BitVec 5) (d : BitVec 4) (op : BitVec 7) :
    (fmtTM z tag stride s d op).extractLsb' 25 7 = z :=
  (field_above _ op 18 7).trans <| (field_above _ d 14 7).trans <| (field_above _ s 9 7).trans <| (field_above _ stride 4 7).trans <| (field_above _ tag 0 7).trans <| field_top _
theorem fmtC_op (fn : BitVec 5) (c : BitVec 5) (b : BitVec 5) (a : BitVec 5) (d : BitVec 5) (op : BitVec 7) :
    (fmtC fn c b a d op).extractLsb' 0 7 = op :=
  field_low _ _
theorem fmtC_d (fn : BitVec 5) (c : BitVec 5) (b : BitVec 5) (a : BitVec 5) (d : BitVec 5) (op : BitVec 7) :
    (fmtC fn c b a d op).extractLsb' 7 5 = d :=
  (field_above _ op 0 5).trans <| field_low _ _
theorem fmtC_a (fn : BitVec 5) (c : BitVec 5) (b : BitVec 5) (a : BitVec 5) (d : BitVec 5) (op : BitVec 7) :
    (fmtC fn c b a d op).extractLsb' 12 5 = a :=
  (field_above _ op 5 5).trans <| (field_above _ d 0 5).trans <| field_low _ _
theorem fmtC_b (fn : BitVec 5) (c : BitVec 5) (b : BitVec 5) (a : BitVec 5) (d : BitVec 5) (op : BitVec 7) :
    (fmtC fn c b a d op).extractLsb' 17 5 = b :=
  (field_above _ op 10 5).trans <| (field_above _ d 5 5).trans <| (field_above _ a 0 5).trans <| field_low _ _
theorem fmtC_c (fn : BitVec 5) (c : BitVec 5) (b : BitVec 5) (a : BitVec 5) (d : BitVec 5) (op : BitVec 7) :
    (fmtC fn c b a d op).extractLsb' 22 5 = c :=
  (field_above _ op 15 5).trans <| (field_above _ d 10 5).trans <| (field_above _ a 5 5).trans <| (field_above _ b 0 5).trans <| field_low _ _
theorem fmtC_fn (fn : BitVec 5) (c : BitVec 5) (b : BitVec 5) (a : BitVec 5) (d : BitVec 5) (op : BitVec 7) :
    (fmtC fn c b a d op).extractLsb' 27 5 = fn :=
  (field_above _ op 20 5).trans <| (field_above _ d 15 5).trans <| (field_above _ a 10 5).trans <| (field_above _ b 5 5).trans <| (field_above _ c 0 5).trans <| field_top _

/-! ### The function of each major opcode (R65) -/

theorem decode_Major00 (la : BitVec 4) (fn : BitVec 6) (b : BitVec 5) (a : BitVec 5) (d : BitVec 5) :
    decodeWord (fmtS la fn b a d 1#7) = decMajor00 la fn b a d := by
  unfold decodeWord
  rw [fmtS_op]
  show decMajor00 _ _ _ _ _ = _
  rw [fmtS_la, fmtS_fn, fmtS_b, fmtS_a, fmtS_d]
theorem decode_Major01 (imm : BitVec 15) (a : BitVec 5) (d : BitVec 5) :
    decodeWord (fmtI imm a d 3#7) = decMajor01 imm a d := by
  unfold decodeWord
  rw [fmtI_op]
  show decMajor01 _ _ _ = _
  rw [fmtI_imm, fmtI_a, fmtI_d]
theorem decode_Major02 (imm : BitVec 15) (a : BitVec 5) (d : BitVec 5) :
    decodeWord (fmtI imm a d 5#7) = decMajor02 imm a d := by
  unfold decodeWord
  rw [fmtI_op]
  show decMajor02 _ _ _ = _
  rw [fmtI_imm, fmtI_a, fmtI_d]
theorem decode_Major03 (imm : BitVec 15) (a : BitVec 5) (d : BitVec 5) :
    decodeWord (fmtI imm a d 7#7) = decMajor03 imm a d := by
  unfold decodeWord
  rw [fmtI_op]
  show decMajor03 _ _ _ = _
  rw [fmtI_imm, fmtI_a, fmtI_d]
theorem decode_Major04 (imm : BitVec 15) (a : BitVec 5) (d : BitVec 5) :
    decodeWord (fmtI imm a d 9#7) = decMajor04 imm a d := by
  unfold decodeWord
  rw [fmtI_op]
  show decMajor04 _ _ _ = _
  rw [fmtI_imm, fmtI_a, fmtI_d]
theorem decode_Major05 (imm : BitVec 15) (a : BitVec 5) (d : BitVec 5) :
    decodeWord (fmtI imm a d 11#7) = decMajor05 imm a d := by
  unfold decodeWord
  rw [fmtI_op]
  show decMajor05 _ _ _ = _
  rw [fmtI_imm, fmtI_a, fmtI_d]
theorem decode_Major06 (imm : BitVec 15) (a : BitVec 5) (d : BitVec 5) :
    decodeWord (fmtI imm a d 13#7) = decMajor06 imm a d := by
  unfold decodeWord
  rw [fmtI_op]
  show decMajor06 _ _ _ = _
  rw [fmtI_imm, fmtI_a, fmtI_d]
theorem decode_Major07 (imm : BitVec 15) (a : BitVec 5) (d : BitVec 5) :
    decodeWord (fmtI imm a d 15#7) = decMajor07 imm a d := by
  unfold decodeWord
  rw [fmtI_op]
  show decMajor07 _ _ _ = _
  rw [fmtI_imm, fmtI_a, fmtI_d]
theorem decode_Major08 (sel : BitVec 2) (z : BitVec 7) (amt : BitVec 6) (a : BitVec 5) (d : BitVec 5) :
    decodeWord (fmtSh sel z amt a d 17#7) = decMajor08 sel z amt a d := by
  unfold decodeWord
  rw [fmtSh_op]
  show decMajor08 _ _ _ _ _ = _
  rw [fmtSh_sel, fmtSh_z, fmtSh_amt, fmtSh_a, fmtSh_d]
theorem decode_Major09 (sel : BitVec 1) (z : BitVec 2) (pos : BitVec 6) (len1 : BitVec 6) (a : BitVec 5) (d : BitVec 5) :
    decodeWord (fmtBf sel z pos len1 a d 19#7) = decMajor09 sel z pos len1 a d := by
  unfold decodeWord
  rw [fmtBf_op]
  show decMajor09 _ _ _ _ _ _ = _
  rw [fmtBf_sel, fmtBf_z, fmtBf_pos, fmtBf_len1, fmtBf_a, fmtBf_d]
theorem decode_Major0A (imm : BitVec 20) (d : BitVec 5) :
    decodeWord (fmtU imm d 21#7) = decMajor0A imm d := by
  unfold decodeWord
  rw [fmtU_op]
  show decMajor0A _ _ = _
  rw [fmtU_imm, fmtU_d]
theorem decode_Major0B (imm : BitVec 20) (d : BitVec 5) :
    decodeWord (fmtU imm d 23#7) = decMajor0B imm d := by
  unfold decodeWord
  rw [fmtU_op]
  show decMajor0B _ _ = _
  rw [fmtU_imm, fmtU_d]
theorem decode_Major0C (off : BitVec 12) (cond : BitVec 3) (b : BitVec 5) (a : BitVec 5) :
    decodeWord (fmtB off cond b a 25#7) = decMajor0C off cond b a := by
  unfold decodeWord
  rw [fmtB_op]
  show decMajor0C _ _ _ _ = _
  rw [fmtB_off, fmtB_cond, fmtB_b, fmtB_a]
theorem decode_Major0D (off : BitVec 20) (d : BitVec 5) :
    decodeWord (fmtJ off d 27#7) = decMajor0D off d := by
  unfold decodeWord
  rw [fmtJ_op]
  show decMajor0D _ _ = _
  rw [fmtJ_off, fmtJ_d]
theorem decode_Major0E (imm : BitVec 15) (a : BitVec 5) (d : BitVec 5) :
    decodeWord (fmtI imm a d 29#7) = decMajor0E imm a d := by
  unfold decodeWord
  rw [fmtI_op]
  show decMajor0E _ _ _ = _
  rw [fmtI_imm, fmtI_a, fmtI_d]
theorem decode_Major0F (sel : BitVec 2) (z : BitVec 1) (sr : BitVec 12) (a : BitVec 5) (d : BitVec 5) :
    decodeWord (fmtSr sel z sr a d 31#7) = decMajor0F sel z sr a d := by
  unfold decodeWord
  rw [fmtSr_op]
  show decMajor0F _ _ _ _ _ = _
  rw [fmtSr_sel, fmtSr_z, fmtSr_sr, fmtSr_a, fmtSr_d]
theorem decode_Major10 (imm : BitVec 11) (la : BitVec 4) (a : BitVec 5) (d : BitVec 5) :
    decodeWord (fmtM imm la a d 33#7) = decMajor10 imm la a d := by
  unfold decodeWord
  rw [fmtM_op]
  show decMajor10 _ _ _ _ = _
  rw [fmtM_imm, fmtM_la, fmtM_a, fmtM_d]
theorem decode_Major11 (imm : BitVec 11) (la : BitVec 4) (a : BitVec 5) (d : BitVec 5) :
    decodeWord (fmtM imm la a d 35#7) = decMajor11 imm la a d := by
  unfold decodeWord
  rw [fmtM_op]
  show decMajor11 _ _ _ _ = _
  rw [fmtM_imm, fmtM_la, fmtM_a, fmtM_d]
theorem decode_Major12 (imm : BitVec 11) (la : BitVec 4) (a : BitVec 5) (d : BitVec 5) :
    decodeWord (fmtM imm la a d 37#7) = decMajor12 imm la a d := by
  unfold decodeWord
  rw [fmtM_op]
  show decMajor12 _ _ _ _ = _
  rw [fmtM_imm, fmtM_la, fmtM_a, fmtM_d]
theorem decode_Major13 (imm : BitVec 11) (la : BitVec 4) (a : BitVec 5) (d : BitVec 5) :
    decodeWord (fmtM imm la a d 39#7) = decMajor13 imm la a d := by
  unfold decodeWord
  rw [fmtM_op]
  show decMajor13 _ _ _ _ = _
  rw [fmtM_imm, fmtM_la, fmtM_a, fmtM_d]
theorem decode_Major14 (imm : BitVec 11) (la : BitVec 4) (a : BitVec 5) (d : BitVec 5) :
    decodeWord (fmtM imm la a d 41#7) = decMajor14 imm la a d := by
  unfold decodeWord
  rw [fmtM_op]
  show decMajor14 _ _ _ _ = _
  rw [fmtM_imm, fmtM_la, fmtM_a, fmtM_d]
theorem decode_Major15 (imm : BitVec 11) (la : BitVec 4) (a : BitVec 5) (d : BitVec 5) :
    decodeWord (fmtM imm la a d 43#7) = decMajor15 imm la a d := by
  unfold decodeWord
  rw [fmtM_op]
  show decMajor15 _ _ _ _ = _
  rw [fmtM_imm, fmtM_la, fmtM_a, fmtM_d]
theorem decode_Major16 (imm : BitVec 11) (la : BitVec 4) (a : BitVec 5) (d : BitVec 5) :
    decodeWord (fmtM imm la a d 45#7) = decMajor16 imm la a d := by
  unfold decodeWord
  rw [fmtM_op]
  show decMajor16 _ _ _ _ = _
  rw [fmtM_imm, fmtM_la, fmtM_a, fmtM_d]
theorem decode_Major17 (imm : BitVec 11) (la : BitVec 4) (a : BitVec 5) (d : BitVec 5) :
    decodeWord (fmtM imm la a d 47#7) = decMajor17 imm la a d := by
  unfold decodeWord
  rw [fmtM_op]
  show decMajor17 _ _ _ _ = _
  rw [fmtM_imm, fmtM_la, fmtM_a, fmtM_d]
theorem decode_Major18 (imm : BitVec 11) (la : BitVec 4) (a : BitVec 5) (d : BitVec 5) :
    decodeWord (fmtM imm la a d 49#7) = decMajor18 imm la a d := by
  unfold decodeWord
  rw [fmtM_op]
  show decMajor18 _ _ _ _ = _
  rw [fmtM_imm, fmtM_la, fmtM_a, fmtM_d]
theorem decode_Major19 (imm : BitVec 11) (la : BitVec 4) (a : BitVec 5) (d : BitVec 5) :
    decodeWord (fmtM imm la a d 51#7) = decMajor19 imm la a d := by
  unfold decodeWord
  rw [fmtM_op]
  show decMajor19 _ _ _ _ = _
  rw [fmtM_imm, fmtM_la, fmtM_a, fmtM_d]
theorem decode_Major1A (imm : BitVec 11) (la : BitVec 4) (a : BitVec 5) (d : BitVec 5) :
    decodeWord (fmtM imm la a d 53#7) = decMajor1A imm la a d := by
  unfold decodeWord
  rw [fmtM_op]
  show decMajor1A _ _ _ _ = _
  rw [fmtM_imm, fmtM_la, fmtM_a, fmtM_d]
theorem decode_Major1B (fn : BitVec 3) (la : BitVec 4) (scope : BitVec 3) (b : BitVec 5) (a : BitVec 5) (d : BitVec 5) :
    decodeWord (fmtO fn la scope b a d 55#7) = decMajor1B fn la scope b a d := by
  unfold decodeWord
  rw [fmtO_op]
  show decMajor1B _ _ _ _ _ _ = _
  rw [fmtO_fn, fmtO_la, fmtO_scope, fmtO_b, fmtO_a, fmtO_d]
theorem decode_Major1C (fn : BitVec 3) (la : BitVec 4) (scope : BitVec 3) (b : BitVec 5) (a : BitVec 5) (d : BitVec 5) :
    decodeWord (fmtO fn la scope b a d 57#7) = decMajor1C fn la scope b a d := by
  unfold decodeWord
  rw [fmtO_op]
  show decMajor1C _ _ _ _ _ _ = _
  rw [fmtO_fn, fmtO_la, fmtO_scope, fmtO_b, fmtO_a, fmtO_d]
theorem decode_Major1D (sz : BitVec 1) (fn : BitVec 4) (ord : BitVec 2) (scope : BitVec 3) (b : BitVec 5) (a : BitVec 5) (d : BitVec 5) :
    decodeWord (fmtA sz fn ord scope b a d 59#7) = decMajor1D sz fn ord scope b a d := by
  unfold decodeWord
  rw [fmtA_op]
  show decMajor1D _ _ _ _ _ _ _ = _
  rw [fmtA_sz, fmtA_fn, fmtA_ord, fmtA_scope, fmtA_b, fmtA_a, fmtA_d]
theorem decode_Major1E (sz : BitVec 1) (fn : BitVec 4) (ord : BitVec 2) (scope : BitVec 3) (b : BitVec 5) (a : BitVec 5) (d : BitVec 5) :
    decodeWord (fmtA sz fn ord scope b a d 61#7) = decMajor1E sz fn ord scope b a d := by
  unfold decodeWord
  rw [fmtA_op]
  show decMajor1E _ _ _ _ _ _ _ = _
  rw [fmtA_sz, fmtA_fn, fmtA_ord, fmtA_scope, fmtA_b, fmtA_a, fmtA_d]
theorem decode_Major1F (la : BitVec 4) (fn : BitVec 6) (kind : BitVec 2) (sc : BitVec 3) (a : BitVec 5) (d : BitVec 5) :
    decodeWord (fmtSs la fn kind sc a d 63#7) = decMajor1F la fn kind sc a d := by
  unfold decodeWord
  rw [fmtSs_op]
  show decMajor1F _ _ _ _ _ _ = _
  rw [fmtSs_la, fmtSs_fn, fmtSs_kind, fmtSs_sc, fmtSs_a, fmtSs_d]
theorem decode_Major20 (la : BitVec 4) (fn : BitVec 6) (b : BitVec 5) (a : BitVec 5) (d : BitVec 5) :
    decodeWord (fmtS la fn b a d 65#7) = decMajor20 la fn b a d := by
  unfold decodeWord
  rw [fmtS_op]
  show decMajor20 _ _ _ _ _ = _
  rw [fmtS_la, fmtS_fn, fmtS_b, fmtS_a, fmtS_d]
theorem decode_Major21 (sel : BitVec 4) (code : BitVec 11) (a : BitVec 5) (d : BitVec 5) :
    decodeWord (fmtTr sel code a d 67#7) = decMajor21 sel code a d := by
  unfold decodeWord
  rw [fmtTr_op]
  show decMajor21 _ _ _ _ = _
  rw [fmtTr_sel, fmtTr_code, fmtTr_a, fmtTr_d]
theorem decode_Major24 (fn : BitVec 4) (k : BitVec 3) (b : BitVec 6) (a : BitVec 6) (d : BitVec 6) :
    decodeWord (fmtV fn k b a d 73#7) = decMajor24 fn k b a d := by
  unfold decodeWord
  rw [fmtV_op]
  show decMajor24 _ _ _ _ _ = _
  rw [fmtV_fn, fmtV_k, fmtV_b, fmtV_a, fmtV_d]
theorem decode_Major25 (fn : BitVec 4) (k : BitVec 3) (b : BitVec 6) (a : BitVec 6) (d : BitVec 6) :
    decodeWord (fmtV fn k b a d 75#7) = decMajor25 fn k b a d := by
  unfold decodeWord
  rw [fmtV_op]
  show decMajor25 _ _ _ _ _ = _
  rw [fmtV_fn, fmtV_k, fmtV_b, fmtV_a, fmtV_d]
theorem decode_Major26 (fn : BitVec 4) (k : BitVec 3) (b : BitVec 6) (a : BitVec 6) (d : BitVec 6) :
    decodeWord (fmtV fn k b a d 77#7) = decMajor26 fn k b a d := by
  unfold decodeWord
  rw [fmtV_op]
  show decMajor26 _ _ _ _ _ = _
  rw [fmtV_fn, fmtV_k, fmtV_b, fmtV_a, fmtV_d]
theorem decode_Major27 (fn : BitVec 4) (k : BitVec 3) (b : BitVec 6) (a : BitVec 6) (d : BitVec 6) :
    decodeWord (fmtV fn k b a d 79#7) = decMajor27 fn k b a d := by
  unfold decodeWord
  rw [fmtV_op]
  show decMajor27 _ _ _ _ _ = _
  rw [fmtV_fn, fmtV_k, fmtV_b, fmtV_a, fmtV_d]
theorem decode_Major28 (k1en : BitVec 1) (c : BitVec 6) (b : BitVec 6) (a : BitVec 6) (d : BitVec 6) :
    decodeWord (fmtV4 k1en c b a d 81#7) = decMajor28 k1en c b a d := by
  unfold decodeWord
  rw [fmtV4_op]
  show decMajor28 _ _ _ _ _ = _
  rw [fmtV4_k1en, fmtV4_c, fmtV4_b, fmtV4_a, fmtV4_d]
theorem decode_Major29 (k1en : BitVec 1) (c : BitVec 6) (b : BitVec 6) (a : BitVec 6) (d : BitVec 6) :
    decodeWord (fmtV4 k1en c b a d 83#7) = decMajor29 k1en c b a d := by
  unfold decodeWord
  rw [fmtV4_op]
  show decMajor29 _ _ _ _ _ = _
  rw [fmtV4_k1en, fmtV4_c, fmtV4_b, fmtV4_a, fmtV4_d]
theorem decode_Major2A (k1en : BitVec 1) (c : BitVec 6) (b : BitVec 6) (a : BitVec 6) (d : BitVec 6) :
    decodeWord (fmtV4 k1en c b a d 85#7) = decMajor2A k1en c b a d := by
  unfold decodeWord
  rw [fmtV4_op]
  show decMajor2A _ _ _ _ _ = _
  rw [fmtV4_k1en, fmtV4_c, fmtV4_b, fmtV4_a, fmtV4_d]
theorem decode_Major2C (mode : BitVec 3) (ty : BitVec 3) (k : BitVec 3) (x : BitVec 5) (s : BitVec 5) (v : BitVec 6) :
    decodeWord (fmtVM mode ty k x s v 89#7) = decMajor2C mode ty k x s v := by
  unfold decodeWord
  rw [fmtVM_op]
  show decMajor2C _ _ _ _ _ _ = _
  rw [fmtVM_mode, fmtVM_ty, fmtVM_k, fmtVM_x, fmtVM_s, fmtVM_v]
theorem decode_Major2D (mode : BitVec 3) (ty : BitVec 3) (k : BitVec 3) (x : BitVec 5) (s : BitVec 5) (v : BitVec 6) :
    decodeWord (fmtVM mode ty k x s v 91#7) = decMajor2D mode ty k x s v := by
  unfold decodeWord
  rw [fmtVM_op]
  show decMajor2D _ _ _ _ _ _ = _
  rw [fmtVM_mode, fmtVM_ty, fmtVM_k, fmtVM_x, fmtVM_s, fmtVM_v]
theorem decode_Major2E (mode : BitVec 3) (ty : BitVec 3) (k : BitVec 3) (x : BitVec 5) (s : BitVec 5) (v : BitVec 6) :
    decodeWord (fmtVM mode ty k x s v 93#7) = decMajor2E mode ty k x s v := by
  unfold decodeWord
  rw [fmtVM_op]
  show decMajor2E _ _ _ _ _ _ = _
  rw [fmtVM_mode, fmtVM_ty, fmtVM_k, fmtVM_x, fmtVM_s, fmtVM_v]
theorem decode_Major2F (z1 : BitVec 4) (fn : BitVec 6) (z2 : BitVec 4) (a : BitVec 5) (v : BitVec 6) :
    decodeWord (fmtSB z1 fn z2 a v 95#7) = decMajor2F z1 fn z2 a v := by
  unfold decodeWord
  rw [fmtSB_op]
  show decMajor2F _ _ _ _ _ = _
  rw [fmtSB_z1, fmtSB_fn, fmtSB_z2, fmtSB_a, fmtSB_v]
theorem decode_Major30 (fn : BitVec 5) (kind : BitVec 4) (tc : BitVec 4) (tb : BitVec 4) (ta : BitVec 4) (td : BitVec 4) :
    decodeWord (fmtT fn kind tc tb ta td 97#7) = decMajor30 fn kind tc tb ta td := by
  unfold decodeWord
  rw [fmtT_op]
  show decMajor30 _ _ _ _ _ _ = _
  rw [fmtT_fn, fmtT_kind, fmtT_tc, fmtT_tb, fmtT_ta, fmtT_td]
theorem decode_Major31 (z : BitVec 7) (tag : BitVec 4) (stride : BitVec 5) (s : BitVec 5) (d : BitVec 4) :
    decodeWord (fmtTM z tag stride s d 99#7) = decMajor31 z tag stride s d := by
  unfold decodeWord
  rw [fmtTM_op]
  show decMajor31 _ _ _ _ _ = _
  rw [fmtTM_z, fmtTM_tag, fmtTM_stride, fmtTM_s, fmtTM_d]
theorem decode_Major32 (z : BitVec 7) (tag : BitVec 4) (stride : BitVec 5) (s : BitVec 5) (d : BitVec 4) :
    decodeWord (fmtTM z tag stride s d 101#7) = decMajor32 z tag stride s d := by
  unfold decodeWord
  rw [fmtTM_op]
  show decMajor32 _ _ _ _ _ = _
  rw [fmtTM_z, fmtTM_tag, fmtTM_stride, fmtTM_s, fmtTM_d]
theorem decode_Major33 (fn : BitVec 5) (c : BitVec 5) (b : BitVec 5) (a : BitVec 5) (d : BitVec 5) :
    decodeWord (fmtC fn c b a d 103#7) = decMajor33 fn c b a d := by
  unfold decodeWord
  rw [fmtC_op]
  show decMajor33 _ _ _ _ _ = _
  rw [fmtC_fn, fmtC_c, fmtC_b, fmtC_a, fmtC_d]

/-! ### Fields that two places hold (R65) -/

theorem join_3_2 : ∀ x : BitVec 5, x.extractLsb' 3 2 ++ x.extractLsb' 0 3 = x := by decide
theorem join_4_1 : ∀ x : BitVec 5, x.extractLsb' 4 1 ++ x.extractLsb' 0 4 = x := by decide
theorem join_4_2 : ∀ x : BitVec 6, x.extractLsb' 4 2 ++ x.extractLsb' 0 4 = x := by decide
theorem join_6_1 : ∀ x : BitVec 7, x.extractLsb' 6 1 ++ x.extractLsb' 0 6 = x := by decide

/-! ### Compact forms (R63) -/

theorem decode_compact (m : BitVec 1) (b d : BitVec 5) (op4 : BitVec 4) :
    decodeHalf (fmtCompact m b d op4) = decCompact m b d op4 := by
  have h1 : (fmtCompact m b d op4).extractLsb' 15 1 = m :=
    (field_above _ 0#1 14 1).trans <| (field_above _ op4 10 1).trans <| (field_above _ d 5 1).trans <|
      (field_above _ b 0 1).trans <| field_top _
  have h2 : (fmtCompact m b d op4).extractLsb' 10 5 = b :=
    (field_above _ 0#1 9 5).trans <| (field_above _ op4 5 5).trans <| (field_above _ d 0 5).trans <| field_low _ _
  have h3 : (fmtCompact m b d op4).extractLsb' 5 5 = d :=
    (field_above _ 0#1 4 5).trans <| (field_above _ op4 0 5).trans <| field_low _ _
  have h4 : (fmtCompact m b d op4).extractLsb' 1 4 = op4 := (field_above _ 0#1 0 4).trans <| field_low _ _
  unfold decodeHalf
  rw [h1, h2, h3, h4]

/-- A halfword whose bit 0 is clear is read alone. -/
theorem decodeHalves_half {i : Instr} (m : BitVec 1) (b d : BitVec 5) (op4 : BitVec 4) (rest : List (BitVec 16))
    (hd : decCompact m b d op4 = .ok i) : decodeHalves ([fmtCompact m b d op4] ++ rest) = .ok (i, 1) := by
  have h0 : (fmtCompact m b d op4).getLsbD 0 = false := by
    have h : (fmtCompact m b d op4).extractLsb' 0 1 = 0#1 := field_low _ _
    have := congrArg (fun x => x.getLsbD 0) h
    simpa using this
  show decodeHalves (fmtCompact m b d op4 :: rest) = _
  simp only [decodeHalves, h0, Bool.false_eq_true, if_false, decode_compact, hd]

/-! ### Bytes (R58) -/

theorem half_bytes (h : BitVec 16) : h.extractLsb' 8 8 ++ h.extractLsb' 0 8 = h := by
  apply BitVec.eq_of_getLsbD_eq
  intro i hi
  rw [BitVec.getLsbD_append]
  by_cases h1 : i < 8
  · simp [h1]
  · simp [h1, Nat.add_sub_cancel' (Nat.le_of_not_lt h1)]
    omega

/-- Halfwords read back from their bytes, whatever follows. -/
theorem halvesOfBytes_flatMap (hs : List (BitVec 16)) (rest : List (BitVec 8)) :
    halvesOfBytes (hs.flatMap bytesOfHalf ++ rest) = hs ++ halvesOfBytes rest := by
  induction hs with
  | nil => rfl
  | cons h hs ih =>
    show (h.extractLsb' 8 8 ++ h.extractLsb' 0 8) :: halvesOfBytes (hs.flatMap bytesOfHalf ++ rest) = _
    rw [half_bytes, ih]; rfl

theorem flatMap_bytesOfHalf_length (hs : List (BitVec 16)) : (hs.flatMap bytesOfHalf).length = 2 * hs.length := by
  induction hs with
  | nil => rfl
  | cons h hs ih => simp [List.flatMap_cons, bytesOfHalf, ih]; omega

end Sys2Proof
end

