-- ==== Sys2Proof/Laws/Tables.lean ====
section
/-!
SUPPORT. Laws of sparse tables and memories: a read after a write, and the canonical form that every write keeps.
-/
namespace Sys2Proof.Machine

variable {α : Type}

/-! ### Read after write -/

theorem FMap.find_put_same (m : FMap α) (k : Nat) (v : α) : FMap.find (FMap.put m k v) k = some v := by
  induction m with
  | nil => simp [FMap.put, FMap.find]
  | cons c m ih =>
    obtain ⟨j, w⟩ := c
    simp only [FMap.put]
    split
    · simp [FMap.find]
    · split
      · simp [FMap.find]
      · rename_i _ h
        simp [FMap.find, Ne.symm h, ih]

theorem FMap.find_put_other (m : FMap α) {k a : Nat} (v : α) (h : a ≠ k) :
    FMap.find (FMap.put m k v) a = FMap.find m a := by
  induction m with
  | nil => simp [FMap.put, FMap.find, Ne.symm h]
  | cons c m ih =>
    obtain ⟨j, w⟩ := c
    simp only [FMap.put]
    split
    · simp [FMap.find, Ne.symm h]
    · split
      · rename_i _ hk
        subst hk
        simp [FMap.find, Ne.symm h]
      · simp only [FMap.find, ih]

theorem FMap.find_put (m : FMap α) (k a : Nat) (v : α) :
    FMap.find (FMap.put m k v) a = if a = k then some v else FMap.find m a := by
  split
  · next h => rw [h, FMap.find_put_same]
  · next h => exact FMap.find_put_other m v h

theorem FMap.find_del (m : FMap α) (k a : Nat) :
    FMap.find (FMap.del m k) a = if a = k then none else FMap.find m a := by
  induction m with
  | nil => simp [FMap.del, FMap.find]
  | cons c m ih =>
    obtain ⟨j, w⟩ := c
    simp only [FMap.del]
    by_cases hk : k = j
    · subst hk
      by_cases ha : a = k
      · subst ha
        simpa [FMap.find] using ih
      · simp [FMap.find, ih, ha, Ne.symm ha]
    · by_cases ha : a = k
      · subst ha
        simp [FMap.find, hk, Ne.symm hk, ih]
      · simp [FMap.find, hk, ih, ha]

theorem FMap.getD_put (m : FMap α) (k a : Nat) (v d : α) :
    FMap.getD (FMap.put m k v) a d = if a = k then v else FMap.getD m a d := by
  unfold FMap.getD
  rw [FMap.find_put]
  split <;> rfl

theorem FMap.getD_store [DecidableEq α] (m : FMap α) (k a : Nat) (v d : α) :
    FMap.getD (FMap.store m k d v) a d = if a = k then v else FMap.getD m a d := by
  unfold FMap.store
  split
  · next h =>
    unfold FMap.getD
    rw [FMap.find_del]
    split <;> simp [h]
  · exact FMap.getD_put m k a v d

/-- A byte read after a byte write. -/
theorem Memory.read_write (m : Memory) (k a : Nat) (b : Byte) :
    Memory.read (Memory.write m k b) a = if a = k then b else Memory.read m a :=
  FMap.getD_store m k a b 0

/-- A byte read after a write of several bytes. -/
theorem Memory.read_writeN (bs : List Byte) : ∀ (m : Memory) (k a : Nat),
    Memory.read (Memory.writeN m k bs) a =
      if k ≤ a ∧ a < k + bs.length then bs.getD (a - k) 0 else Memory.read m a := by
  induction bs with
  | nil =>
    intro m k a
    have h : ¬(k ≤ a ∧ a < k + ([] : List Byte).length) := by simp
    rw [if_neg h]
    rfl
  | cons b bs ih =>
    intro m k a
    simp only [Memory.writeN, ih, Memory.read_write, List.length_cons]
    by_cases h1 : a = k
    · subst h1
      have h2 : ¬(a + 1 ≤ a ∧ a < a + 1 + bs.length) := by omega
      have h3 : a ≤ a ∧ a < a + (bs.length + 1) := by omega
      rw [if_neg h2, if_pos h3, if_pos rfl]
      simp
    · by_cases h2 : k + 1 ≤ a ∧ a < k + 1 + bs.length
      · have h3 : k ≤ a ∧ a < k + (bs.length + 1) := by omega
        rw [if_pos h2, if_pos h3]
        have h4 : a - k = (a - (k + 1)) + 1 := by omega
        rw [h4]
        simp
      · have h3 : ¬(k ≤ a ∧ a < k + (bs.length + 1)) := by omega
        rw [if_neg h2, if_neg h3, if_neg h1]

/-! ### The canonical form -/

theorem FMap.above_mono {lo lo' : Nat} {m : FMap α} (h : lo' ≤ lo) (hm : FMap.above lo m = true) :
    FMap.above lo' m = true := by
  cases m with
  | nil => rfl
  | cons c m =>
    simp only [FMap.above, Bool.and_eq_true, decide_eq_true_eq] at hm ⊢
    exact ⟨by omega, hm.2⟩

theorem FMap.above_put {lo k : Nat} (v : α) (hk : lo < k) : ∀ {m : FMap α}, FMap.above lo m = true →
    FMap.above lo (FMap.put m k v) = true := by
  intro m
  induction m generalizing lo with
  | nil => intro _; simp [FMap.put, FMap.above, hk]
  | cons c m ih =>
    obtain ⟨j, w⟩ := c
    intro hm
    simp only [FMap.above, Bool.and_eq_true, decide_eq_true_eq] at hm
    simp only [FMap.put]
    split
    · next h => simp [FMap.above, hk, h, hm.2]
    · split
      · next _ h => subst h; simp [FMap.above, hk, hm.2]
      · next h1 h2 =>
        have h3 : j < k := by omega
        simp [FMap.above, hm.1, ih h3 hm.2]

theorem FMap.above_del {lo : Nat} (k : Nat) : ∀ {m : FMap α}, FMap.above lo m = true →
    FMap.above lo (FMap.del m k) = true := by
  intro m
  induction m generalizing lo with
  | nil => intro _; rfl
  | cons c m ih =>
    obtain ⟨j, w⟩ := c
    intro hm
    simp only [FMap.above, Bool.and_eq_true, decide_eq_true_eq] at hm
    simp only [FMap.del]
    split
    · exact ih (FMap.above_mono (by omega) hm.2)
    · simp [FMap.above, hm.1, ih hm.2]

theorem FMap.sorted_of_above {lo : Nat} {m : FMap α} (h : FMap.above lo m = true) : FMap.sorted m = true := by
  cases m with
  | nil => rfl
  | cons c m =>
    simp only [FMap.above, Bool.and_eq_true] at h
    exact h.2

theorem FMap.sorted_put (k : Nat) (v : α) {m : FMap α} (h : FMap.sorted m = true) :
    FMap.sorted (FMap.put m k v) = true := by
  cases m with
  | nil => rfl
  | cons c m =>
    obtain ⟨j, w⟩ := c
    simp only [FMap.sorted] at h
    simp only [FMap.put]
    split
    · next hk => simp [FMap.sorted, FMap.above, hk, h]
    · split
      · next _ hk => subst hk; simpa [FMap.sorted] using h
      · next h1 h2 => simpa [FMap.sorted] using FMap.above_put v (by omega) h

theorem FMap.sorted_del (k : Nat) {m : FMap α} (h : FMap.sorted m = true) : FMap.sorted (FMap.del m k) = true := by
  cases m with
  | nil => rfl
  | cons c m =>
    obtain ⟨j, w⟩ := c
    simp only [FMap.sorted] at h
    simp only [FMap.del]
    split
    · exact FMap.sorted_of_above (FMap.above_del k h)
    · exact FMap.above_del k h

theorem FMap.sorted_store [DecidableEq α] (k : Nat) (d v : α) {m : FMap α} (h : FMap.sorted m = true) :
    FMap.sorted (FMap.store m k d v) = true := by
  unfold FMap.store
  split
  · exact FMap.sorted_del k h
  · exact FMap.sorted_put k v h

theorem FMap.mem_put {m : FMap α} {k : Nat} {v : α} {c : Nat × α} (h : c ∈ FMap.put m k v) : c = (k, v) ∨ c ∈ m := by
  induction m with
  | nil => simpa [FMap.put] using h
  | cons e m ih =>
    obtain ⟨j, w⟩ := e
    simp only [FMap.put] at h
    split at h
    · simpa using h
    · split at h
      · rcases List.mem_cons.mp h with h | h
        · exact .inl h
        · exact .inr (List.mem_cons_of_mem _ h)
      · rcases List.mem_cons.mp h with h | h
        · exact .inr (h ▸ List.mem_cons_self)
        · rcases ih h with h | h
          · exact .inl h
          · exact .inr (List.mem_cons_of_mem _ h)

theorem FMap.mem_del {m : FMap α} {k : Nat} {c : Nat × α} (h : c ∈ FMap.del m k) : c ∈ m := by
  induction m with
  | nil => simp [FMap.del] at h
  | cons e m ih =>
    obtain ⟨j, w⟩ := e
    simp only [FMap.del] at h
    split at h
    · exact List.mem_cons_of_mem _ (ih h)
    · rcases List.mem_cons.mp h with h | h
      · exact h ▸ List.mem_cons_self
      · exact List.mem_cons_of_mem _ (ih h)

/-- A byte write keeps the canonical form. -/
theorem Memory.wf_write {m : Memory} (a : Nat) (b : Byte) (h : Memory.wf m = true) :
    Memory.wf (Memory.write m a b) = true := by
  simp only [Memory.wf, Bool.and_eq_true, List.all_eq_true] at h ⊢
  refine ⟨FMap.sorted_store a 0 b h.1, fun c hc => ?_⟩
  unfold Memory.write FMap.store at hc
  split at hc
  · exact h.2 c (FMap.mem_del hc)
  · next hb =>
    rcases FMap.mem_put hc with rfl | hc
    · simpa using hb
    · exact h.2 c hc

/-- A write of several bytes keeps the canonical form. -/
theorem Memory.wf_writeN (bs : List Byte) : ∀ {m : Memory} (a : Nat), Memory.wf m = true →
    Memory.wf (Memory.writeN m a bs) = true := by
  induction bs with
  | nil => intro m a h; exact h
  | cons b bs ih => intro m a h; exact ih (a + 1) (Memory.wf_write a b h)

/-- A write of a number keeps the canonical form. -/
theorem Memory.wf_writeNat {m : Memory} (a n w : Nat) (h : Memory.wf m = true) :
    Memory.wf (Memory.writeNat m a n w) = true := Memory.wf_writeN _ a h

end Sys2Proof.Machine
end

