-- ==== Sys2Proof/Laws/State.lean ====
section
/-!
SUPPORT. What each update of the state leaves as it was, one lemma for each field, and what it makes of the field it
names. Updates by a function are written as updates by a value.
-/
namespace Sys2Proof.Machine

/-! ### setSlot -/

@[simp] theorem State.setSlot_power (s : State) (t : Nat) (x : Slot) : (s.setSlot t x).power = s.power := rfl
@[simp] theorem State.setSlot_sideOn (s : State) (t : Nat) (x : Slot) : (s.setSlot t x).sideOn = s.sideOn := rfl
@[simp] theorem State.setSlot_boots (s : State) (t : Nat) (x : Slot) : (s.setSlot t x).boots = s.boots := rfl
@[simp] theorem State.setSlot_clk (s : State) (t : Nat) (x : Slot) : (s.setSlot t x).clk = s.clk := rfl
@[simp] theorem State.setSlot_tick (s : State) (t : Nat) (x : Slot) : (s.setSlot t x).tick = s.tick := rfl
@[simp] theorem State.setSlot_cur (s : State) (t : Nat) (x : Slot) : (s.setSlot t x).cur = s.cur := rfl
@[simp] theorem State.setSlot_ev (s : State) (t : Nat) (x : Slot) : (s.setSlot t x).ev = s.ev := rfl
@[simp] theorem State.setSlot_inputs (s : State) (t : Nat) (x : Slot) : (s.setSlot t x).inputs = s.inputs := rfl
@[simp] theorem State.setSlot_cores (s : State) (t : Nat) (x : Slot) : (s.setSlot t x).cores = s.cores := rfl
@[simp] theorem State.setSlot_clusters (s : State) (t : Nat) (x : Slot) : (s.setSlot t x).clusters = s.clusters := rfl
@[simp] theorem State.setSlot_dies (s : State) (t : Nat) (x : Slot) : (s.setSlot t x).dies = s.dies := rfl
@[simp] theorem State.setSlot_homes (s : State) (t : Nat) (x : Slot) : (s.setSlot t x).homes = s.homes := rfl
@[simp] theorem State.setSlot_waits (s : State) (t : Nat) (x : Slot) : (s.setSlot t x).waits = s.waits := rfl
@[simp] theorem State.setSlot_mem (s : State) (t : Nat) (x : Slot) : (s.setSlot t x).mem = s.mem := rfl
@[simp] theorem State.setSlot_poison (s : State) (t : Nat) (x : Slot) : (s.setSlot t x).poison = s.poison := rfl
@[simp] theorem State.setSlot_mended (s : State) (t : Nat) (x : Slot) : (s.setSlot t x).mended = s.mended := rfl
@[simp] theorem State.setSlot_stvec (s : State) (t : Nat) (x : Slot) : (s.setSlot t x).stvec = s.stvec := rfl
@[simp] theorem State.setSlot_hselVar (s : State) (t : Nat) (x : Slot) : (s.setSlot t x).hselVar = s.hselVar := rfl
@[simp] theorem State.setSlot_doms (s : State) (t : Nat) (x : Slot) : (s.setSlot t x).doms = s.doms := rfl
@[simp] theorem State.setSlot_hqota (s : State) (t : Nat) (x : Slot) : (s.setSlot t x).hqota = s.hqota := rfl
@[simp] theorem State.setSlot_quotaNow (s : State) (t : Nat) (x : Slot) : (s.setSlot t x).quotaNow = s.quotaNow := rfl
@[simp] theorem State.setSlot_window (s : State) (t : Nat) (x : Slot) : (s.setSlot t x).window = s.window := rfl
@[simp] theorem State.setSlot_drnl (s : State) (t : Nat) (x : Slot) : (s.setSlot t x).drnl = s.drnl := rfl
@[simp] theorem State.setSlot_lease (s : State) (t : Nat) (x : Slot) : (s.setSlot t x).lease = s.lease := rfl
@[simp] theorem State.setSlot_asids (s : State) (t : Nat) (x : Slot) : (s.setSlot t x).asids = s.asids := rfl
@[simp] theorem State.setSlot_owned (s : State) (t : Nat) (x : Slot) : (s.setSlot t x).owned = s.owned := rfl
@[simp] theorem State.setSlot_launches (s : State) (t : Nat) (x : Slot) : (s.setSlot t x).launches = s.launches := rfl
@[simp] theorem State.setSlot_nextLid (s : State) (t : Nat) (x : Slot) : (s.setSlot t x).nextLid = s.nextLid := rfl
@[simp] theorem State.setSlot_jhead (s : State) (t : Nat) (x : Slot) : (s.setSlot t x).jhead = s.jhead := rfl
@[simp] theorem State.setSlot_jrel (s : State) (t : Nat) (x : Slot) : (s.setSlot t x).jrel = s.jrel := rfl
@[simp] theorem State.setSlot_queues (s : State) (t : Nat) (x : Slot) : (s.setSlot t x).queues = s.queues := rfl
@[simp] theorem State.setSlot_lastQueue (s : State) (t : Nat) (x : Slot) : (s.setSlot t x).lastQueue = s.lastQueue := rfl
@[simp] theorem State.setSlot_dstate (s : State) (t : Nat) (x : Slot) : (s.setSlot t x).dstate = s.dstate := rfl
@[simp] theorem State.setSlot_bootErr (s : State) (t : Nat) (x : Slot) : (s.setSlot t x).bootErr = s.bootErr := rfl
@[simp] theorem State.setSlot_mdieMask (s : State) (t : Nat) (x : Slot) : (s.setSlot t x).mdieMask = s.mdieMask := rfl
@[simp] theorem State.setSlot_fwImage (s : State) (t : Nat) (x : Slot) : (s.setSlot t x).fwImage = s.fwImage := rfl
@[simp] theorem State.setSlot_cluMask (s : State) (t : Nat) (x : Slot) : (s.setSlot t x).cluMask = s.cluMask := rfl
@[simp] theorem State.setSlot_jbase (s : State) (t : Nat) (x : Slot) : (s.setSlot t x).jbase = s.jbase := rfl
@[simp] theorem State.setSlot_windows (s : State) (t : Nat) (x : Slot) : (s.setSlot t x).windows = s.windows := rfl
@[simp] theorem State.setSlot_mbRun (s : State) (t : Nat) (x : Slot) : (s.setSlot t x).mbRun = s.mbRun := rfl
@[simp] theorem State.setSlot_mbLen (s : State) (t : Nat) (x : Slot) : (s.setSlot t x).mbLen = s.mbLen := rfl
@[simp] theorem State.setSlot_mbSts (s : State) (t : Nat) (x : Slot) : (s.setSlot t x).mbSts = s.mbSts := rfl
@[simp] theorem State.setSlot_mbResp (s : State) (t : Nat) (x : Slot) : (s.setSlot t x).mbResp = s.mbResp := rfl
@[simp] theorem State.setSlot_mbData (s : State) (t : Nat) (x : Slot) : (s.setSlot t x).mbData = s.mbData := rfl
@[simp] theorem State.setSlot_msixTable (s : State) (t : Nat) (x : Slot) : (s.setSlot t x).msixTable = s.msixTable := rfl
@[simp] theorem State.setSlot_msix (s : State) (t : Nat) (x : Slot) : (s.setSlot t x).msix = s.msix := rfl
@[simp] theorem State.setSlot_hostData (s : State) (t : Nat) (x : Slot) : (s.setSlot t x).hostData = s.hostData := rfl
@[simp] theorem State.setSlot_donqs (s : State) (t : Nat) (x : Slot) : (s.setSlot t x).donqs = s.donqs := rfl
@[simp] theorem State.setSlot_donOut (s : State) (t : Nat) (x : Slot) : (s.setSlot t x).donOut = s.donOut := rfl
@[simp] theorem State.setSlot_donIn (s : State) (t : Nat) (x : Slot) : (s.setSlot t x).donIn = s.donIn := rfl
@[simp] theorem State.setSlot_swaps (s : State) (t : Nat) (x : Slot) : (s.setSlot t x).swaps = s.swaps := rfl
@[simp] theorem State.setSlot_nextSwap (s : State) (t : Nat) (x : Slot) : (s.setSlot t x).nextSwap = s.nextSwap := rfl
@[simp] theorem State.setSlot_swapStatus (s : State) (t : Nat) (x : Slot) : (s.setSlot t x).swapStatus = s.swapStatus := rfl
@[simp] theorem State.setSlot_swapKept (s : State) (t : Nat) (x : Slot) : (s.setSlot t x).swapKept = s.swapKept := rfl
@[simp] theorem State.setSlot_notices (s : State) (t : Nat) (x : Slot) : (s.setSlot t x).notices = s.notices := rfl
@[simp] theorem State.setSlot_drives (s : State) (t : Nat) (x : Slot) : (s.setSlot t x).drives = s.drives := rfl
@[simp] theorem State.setSlot_peers (s : State) (t : Nat) (x : Slot) : (s.setSlot t x).peers = s.peers := rfl
@[simp] theorem State.setSlot_fencedClusters (s : State) (t : Nat) (x : Slot) : (s.setSlot t x).fencedClusters = s.fencedClusters := rfl
@[simp] theorem State.setSlot_fencedDies (s : State) (t : Nat) (x : Slot) : (s.setSlot t x).fencedDies = s.fencedDies := rfl
@[simp] theorem State.setSlot_fencedMdies (s : State) (t : Nat) (x : Slot) : (s.setSlot t x).fencedMdies = s.fencedMdies := rfl
@[simp] theorem State.setSlot_fencedLinks (s : State) (t : Nat) (x : Slot) : (s.setSlot t x).fencedLinks = s.fencedLinks := rfl
@[simp] theorem State.setSlot_fencedFlash (s : State) (t : Nat) (x : Slot) : (s.setSlot t x).fencedFlash = s.fencedFlash := rfl
@[simp] theorem State.setSlot_breakHalt (s : State) (t : Nat) (x : Slot) : (s.setSlot t x).breakHalt = s.breakHalt := rfl
@[simp] theorem State.setSlot_trips (s : State) (t : Nat) (x : Slot) : (s.setSlot t x).trips = s.trips := rfl
@[simp] theorem State.setSlot_bootImage (s : State) (t : Nat) (x : Slot) : (s.setSlot t x).bootImage = s.bootImage := rfl
@[simp] theorem State.setSlot_sideband (s : State) (t : Nat) (x : Slot) : (s.setSlot t x).sideband = s.sideband := rfl

/-! ### setCore -/

@[simp] theorem State.setCore_power (s : State) (c : Nat) (x : Core) : (s.setCore c x).power = s.power := rfl
@[simp] theorem State.setCore_sideOn (s : State) (c : Nat) (x : Core) : (s.setCore c x).sideOn = s.sideOn := rfl
@[simp] theorem State.setCore_boots (s : State) (c : Nat) (x : Core) : (s.setCore c x).boots = s.boots := rfl
@[simp] theorem State.setCore_clk (s : State) (c : Nat) (x : Core) : (s.setCore c x).clk = s.clk := rfl
@[simp] theorem State.setCore_tick (s : State) (c : Nat) (x : Core) : (s.setCore c x).tick = s.tick := rfl
@[simp] theorem State.setCore_cur (s : State) (c : Nat) (x : Core) : (s.setCore c x).cur = s.cur := rfl
@[simp] theorem State.setCore_ev (s : State) (c : Nat) (x : Core) : (s.setCore c x).ev = s.ev := rfl
@[simp] theorem State.setCore_inputs (s : State) (c : Nat) (x : Core) : (s.setCore c x).inputs = s.inputs := rfl
@[simp] theorem State.setCore_slots (s : State) (c : Nat) (x : Core) : (s.setCore c x).slots = s.slots := rfl
@[simp] theorem State.setCore_clusters (s : State) (c : Nat) (x : Core) : (s.setCore c x).clusters = s.clusters := rfl
@[simp] theorem State.setCore_dies (s : State) (c : Nat) (x : Core) : (s.setCore c x).dies = s.dies := rfl
@[simp] theorem State.setCore_homes (s : State) (c : Nat) (x : Core) : (s.setCore c x).homes = s.homes := rfl
@[simp] theorem State.setCore_waits (s : State) (c : Nat) (x : Core) : (s.setCore c x).waits = s.waits := rfl
@[simp] theorem State.setCore_mem (s : State) (c : Nat) (x : Core) : (s.setCore c x).mem = s.mem := rfl
@[simp] theorem State.setCore_poison (s : State) (c : Nat) (x : Core) : (s.setCore c x).poison = s.poison := rfl
@[simp] theorem State.setCore_mended (s : State) (c : Nat) (x : Core) : (s.setCore c x).mended = s.mended := rfl
@[simp] theorem State.setCore_stvec (s : State) (c : Nat) (x : Core) : (s.setCore c x).stvec = s.stvec := rfl
@[simp] theorem State.setCore_hselVar (s : State) (c : Nat) (x : Core) : (s.setCore c x).hselVar = s.hselVar := rfl
@[simp] theorem State.setCore_doms (s : State) (c : Nat) (x : Core) : (s.setCore c x).doms = s.doms := rfl
@[simp] theorem State.setCore_hqota (s : State) (c : Nat) (x : Core) : (s.setCore c x).hqota = s.hqota := rfl
@[simp] theorem State.setCore_quotaNow (s : State) (c : Nat) (x : Core) : (s.setCore c x).quotaNow = s.quotaNow := rfl
@[simp] theorem State.setCore_window (s : State) (c : Nat) (x : Core) : (s.setCore c x).window = s.window := rfl
@[simp] theorem State.setCore_drnl (s : State) (c : Nat) (x : Core) : (s.setCore c x).drnl = s.drnl := rfl
@[simp] theorem State.setCore_lease (s : State) (c : Nat) (x : Core) : (s.setCore c x).lease = s.lease := rfl
@[simp] theorem State.setCore_asids (s : State) (c : Nat) (x : Core) : (s.setCore c x).asids = s.asids := rfl
@[simp] theorem State.setCore_owned (s : State) (c : Nat) (x : Core) : (s.setCore c x).owned = s.owned := rfl
@[simp] theorem State.setCore_launches (s : State) (c : Nat) (x : Core) : (s.setCore c x).launches = s.launches := rfl
@[simp] theorem State.setCore_nextLid (s : State) (c : Nat) (x : Core) : (s.setCore c x).nextLid = s.nextLid := rfl
@[simp] theorem State.setCore_jhead (s : State) (c : Nat) (x : Core) : (s.setCore c x).jhead = s.jhead := rfl
@[simp] theorem State.setCore_jrel (s : State) (c : Nat) (x : Core) : (s.setCore c x).jrel = s.jrel := rfl
@[simp] theorem State.setCore_queues (s : State) (c : Nat) (x : Core) : (s.setCore c x).queues = s.queues := rfl
@[simp] theorem State.setCore_lastQueue (s : State) (c : Nat) (x : Core) : (s.setCore c x).lastQueue = s.lastQueue := rfl
@[simp] theorem State.setCore_dstate (s : State) (c : Nat) (x : Core) : (s.setCore c x).dstate = s.dstate := rfl
@[simp] theorem State.setCore_bootErr (s : State) (c : Nat) (x : Core) : (s.setCore c x).bootErr = s.bootErr := rfl
@[simp] theorem State.setCore_mdieMask (s : State) (c : Nat) (x : Core) : (s.setCore c x).mdieMask = s.mdieMask := rfl
@[simp] theorem State.setCore_fwImage (s : State) (c : Nat) (x : Core) : (s.setCore c x).fwImage = s.fwImage := rfl
@[simp] theorem State.setCore_cluMask (s : State) (c : Nat) (x : Core) : (s.setCore c x).cluMask = s.cluMask := rfl
@[simp] theorem State.setCore_jbase (s : State) (c : Nat) (x : Core) : (s.setCore c x).jbase = s.jbase := rfl
@[simp] theorem State.setCore_windows (s : State) (c : Nat) (x : Core) : (s.setCore c x).windows = s.windows := rfl
@[simp] theorem State.setCore_mbRun (s : State) (c : Nat) (x : Core) : (s.setCore c x).mbRun = s.mbRun := rfl
@[simp] theorem State.setCore_mbLen (s : State) (c : Nat) (x : Core) : (s.setCore c x).mbLen = s.mbLen := rfl
@[simp] theorem State.setCore_mbSts (s : State) (c : Nat) (x : Core) : (s.setCore c x).mbSts = s.mbSts := rfl
@[simp] theorem State.setCore_mbResp (s : State) (c : Nat) (x : Core) : (s.setCore c x).mbResp = s.mbResp := rfl
@[simp] theorem State.setCore_mbData (s : State) (c : Nat) (x : Core) : (s.setCore c x).mbData = s.mbData := rfl
@[simp] theorem State.setCore_msixTable (s : State) (c : Nat) (x : Core) : (s.setCore c x).msixTable = s.msixTable := rfl
@[simp] theorem State.setCore_msix (s : State) (c : Nat) (x : Core) : (s.setCore c x).msix = s.msix := rfl
@[simp] theorem State.setCore_hostData (s : State) (c : Nat) (x : Core) : (s.setCore c x).hostData = s.hostData := rfl
@[simp] theorem State.setCore_donqs (s : State) (c : Nat) (x : Core) : (s.setCore c x).donqs = s.donqs := rfl
@[simp] theorem State.setCore_donOut (s : State) (c : Nat) (x : Core) : (s.setCore c x).donOut = s.donOut := rfl
@[simp] theorem State.setCore_donIn (s : State) (c : Nat) (x : Core) : (s.setCore c x).donIn = s.donIn := rfl
@[simp] theorem State.setCore_swaps (s : State) (c : Nat) (x : Core) : (s.setCore c x).swaps = s.swaps := rfl
@[simp] theorem State.setCore_nextSwap (s : State) (c : Nat) (x : Core) : (s.setCore c x).nextSwap = s.nextSwap := rfl
@[simp] theorem State.setCore_swapStatus (s : State) (c : Nat) (x : Core) : (s.setCore c x).swapStatus = s.swapStatus := rfl
@[simp] theorem State.setCore_swapKept (s : State) (c : Nat) (x : Core) : (s.setCore c x).swapKept = s.swapKept := rfl
@[simp] theorem State.setCore_notices (s : State) (c : Nat) (x : Core) : (s.setCore c x).notices = s.notices := rfl
@[simp] theorem State.setCore_drives (s : State) (c : Nat) (x : Core) : (s.setCore c x).drives = s.drives := rfl
@[simp] theorem State.setCore_peers (s : State) (c : Nat) (x : Core) : (s.setCore c x).peers = s.peers := rfl
@[simp] theorem State.setCore_fencedClusters (s : State) (c : Nat) (x : Core) : (s.setCore c x).fencedClusters = s.fencedClusters := rfl
@[simp] theorem State.setCore_fencedDies (s : State) (c : Nat) (x : Core) : (s.setCore c x).fencedDies = s.fencedDies := rfl
@[simp] theorem State.setCore_fencedMdies (s : State) (c : Nat) (x : Core) : (s.setCore c x).fencedMdies = s.fencedMdies := rfl
@[simp] theorem State.setCore_fencedLinks (s : State) (c : Nat) (x : Core) : (s.setCore c x).fencedLinks = s.fencedLinks := rfl
@[simp] theorem State.setCore_fencedFlash (s : State) (c : Nat) (x : Core) : (s.setCore c x).fencedFlash = s.fencedFlash := rfl
@[simp] theorem State.setCore_breakHalt (s : State) (c : Nat) (x : Core) : (s.setCore c x).breakHalt = s.breakHalt := rfl
@[simp] theorem State.setCore_trips (s : State) (c : Nat) (x : Core) : (s.setCore c x).trips = s.trips := rfl
@[simp] theorem State.setCore_bootImage (s : State) (c : Nat) (x : Core) : (s.setCore c x).bootImage = s.bootImage := rfl
@[simp] theorem State.setCore_sideband (s : State) (c : Nat) (x : Core) : (s.setCore c x).sideband = s.sideband := rfl

/-! ### setClu -/

@[simp] theorem State.setClu_power (s : State) (k : Nat) (x : Cluster) : (s.setClu k x).power = s.power := rfl
@[simp] theorem State.setClu_sideOn (s : State) (k : Nat) (x : Cluster) : (s.setClu k x).sideOn = s.sideOn := rfl
@[simp] theorem State.setClu_boots (s : State) (k : Nat) (x : Cluster) : (s.setClu k x).boots = s.boots := rfl
@[simp] theorem State.setClu_clk (s : State) (k : Nat) (x : Cluster) : (s.setClu k x).clk = s.clk := rfl
@[simp] theorem State.setClu_tick (s : State) (k : Nat) (x : Cluster) : (s.setClu k x).tick = s.tick := rfl
@[simp] theorem State.setClu_cur (s : State) (k : Nat) (x : Cluster) : (s.setClu k x).cur = s.cur := rfl
@[simp] theorem State.setClu_ev (s : State) (k : Nat) (x : Cluster) : (s.setClu k x).ev = s.ev := rfl
@[simp] theorem State.setClu_inputs (s : State) (k : Nat) (x : Cluster) : (s.setClu k x).inputs = s.inputs := rfl
@[simp] theorem State.setClu_slots (s : State) (k : Nat) (x : Cluster) : (s.setClu k x).slots = s.slots := rfl
@[simp] theorem State.setClu_cores (s : State) (k : Nat) (x : Cluster) : (s.setClu k x).cores = s.cores := rfl
@[simp] theorem State.setClu_dies (s : State) (k : Nat) (x : Cluster) : (s.setClu k x).dies = s.dies := rfl
@[simp] theorem State.setClu_homes (s : State) (k : Nat) (x : Cluster) : (s.setClu k x).homes = s.homes := rfl
@[simp] theorem State.setClu_waits (s : State) (k : Nat) (x : Cluster) : (s.setClu k x).waits = s.waits := rfl
@[simp] theorem State.setClu_mem (s : State) (k : Nat) (x : Cluster) : (s.setClu k x).mem = s.mem := rfl
@[simp] theorem State.setClu_poison (s : State) (k : Nat) (x : Cluster) : (s.setClu k x).poison = s.poison := rfl
@[simp] theorem State.setClu_mended (s : State) (k : Nat) (x : Cluster) : (s.setClu k x).mended = s.mended := rfl
@[simp] theorem State.setClu_stvec (s : State) (k : Nat) (x : Cluster) : (s.setClu k x).stvec = s.stvec := rfl
@[simp] theorem State.setClu_hselVar (s : State) (k : Nat) (x : Cluster) : (s.setClu k x).hselVar = s.hselVar := rfl
@[simp] theorem State.setClu_doms (s : State) (k : Nat) (x : Cluster) : (s.setClu k x).doms = s.doms := rfl
@[simp] theorem State.setClu_hqota (s : State) (k : Nat) (x : Cluster) : (s.setClu k x).hqota = s.hqota := rfl
@[simp] theorem State.setClu_quotaNow (s : State) (k : Nat) (x : Cluster) : (s.setClu k x).quotaNow = s.quotaNow := rfl
@[simp] theorem State.setClu_window (s : State) (k : Nat) (x : Cluster) : (s.setClu k x).window = s.window := rfl
@[simp] theorem State.setClu_drnl (s : State) (k : Nat) (x : Cluster) : (s.setClu k x).drnl = s.drnl := rfl
@[simp] theorem State.setClu_lease (s : State) (k : Nat) (x : Cluster) : (s.setClu k x).lease = s.lease := rfl
@[simp] theorem State.setClu_asids (s : State) (k : Nat) (x : Cluster) : (s.setClu k x).asids = s.asids := rfl
@[simp] theorem State.setClu_owned (s : State) (k : Nat) (x : Cluster) : (s.setClu k x).owned = s.owned := rfl
@[simp] theorem State.setClu_launches (s : State) (k : Nat) (x : Cluster) : (s.setClu k x).launches = s.launches := rfl
@[simp] theorem State.setClu_nextLid (s : State) (k : Nat) (x : Cluster) : (s.setClu k x).nextLid = s.nextLid := rfl
@[simp] theorem State.setClu_jhead (s : State) (k : Nat) (x : Cluster) : (s.setClu k x).jhead = s.jhead := rfl
@[simp] theorem State.setClu_jrel (s : State) (k : Nat) (x : Cluster) : (s.setClu k x).jrel = s.jrel := rfl
@[simp] theorem State.setClu_queues (s : State) (k : Nat) (x : Cluster) : (s.setClu k x).queues = s.queues := rfl
@[simp] theorem State.setClu_lastQueue (s : State) (k : Nat) (x : Cluster) : (s.setClu k x).lastQueue = s.lastQueue := rfl
@[simp] theorem State.setClu_dstate (s : State) (k : Nat) (x : Cluster) : (s.setClu k x).dstate = s.dstate := rfl
@[simp] theorem State.setClu_bootErr (s : State) (k : Nat) (x : Cluster) : (s.setClu k x).bootErr = s.bootErr := rfl
@[simp] theorem State.setClu_mdieMask (s : State) (k : Nat) (x : Cluster) : (s.setClu k x).mdieMask = s.mdieMask := rfl
@[simp] theorem State.setClu_fwImage (s : State) (k : Nat) (x : Cluster) : (s.setClu k x).fwImage = s.fwImage := rfl
@[simp] theorem State.setClu_cluMask (s : State) (k : Nat) (x : Cluster) : (s.setClu k x).cluMask = s.cluMask := rfl
@[simp] theorem State.setClu_jbase (s : State) (k : Nat) (x : Cluster) : (s.setClu k x).jbase = s.jbase := rfl
@[simp] theorem State.setClu_windows (s : State) (k : Nat) (x : Cluster) : (s.setClu k x).windows = s.windows := rfl
@[simp] theorem State.setClu_mbRun (s : State) (k : Nat) (x : Cluster) : (s.setClu k x).mbRun = s.mbRun := rfl
@[simp] theorem State.setClu_mbLen (s : State) (k : Nat) (x : Cluster) : (s.setClu k x).mbLen = s.mbLen := rfl
@[simp] theorem State.setClu_mbSts (s : State) (k : Nat) (x : Cluster) : (s.setClu k x).mbSts = s.mbSts := rfl
@[simp] theorem State.setClu_mbResp (s : State) (k : Nat) (x : Cluster) : (s.setClu k x).mbResp = s.mbResp := rfl
@[simp] theorem State.setClu_mbData (s : State) (k : Nat) (x : Cluster) : (s.setClu k x).mbData = s.mbData := rfl
@[simp] theorem State.setClu_msixTable (s : State) (k : Nat) (x : Cluster) : (s.setClu k x).msixTable = s.msixTable := rfl
@[simp] theorem State.setClu_msix (s : State) (k : Nat) (x : Cluster) : (s.setClu k x).msix = s.msix := rfl
@[simp] theorem State.setClu_hostData (s : State) (k : Nat) (x : Cluster) : (s.setClu k x).hostData = s.hostData := rfl
@[simp] theorem State.setClu_donqs (s : State) (k : Nat) (x : Cluster) : (s.setClu k x).donqs = s.donqs := rfl
@[simp] theorem State.setClu_donOut (s : State) (k : Nat) (x : Cluster) : (s.setClu k x).donOut = s.donOut := rfl
@[simp] theorem State.setClu_donIn (s : State) (k : Nat) (x : Cluster) : (s.setClu k x).donIn = s.donIn := rfl
@[simp] theorem State.setClu_swaps (s : State) (k : Nat) (x : Cluster) : (s.setClu k x).swaps = s.swaps := rfl
@[simp] theorem State.setClu_nextSwap (s : State) (k : Nat) (x : Cluster) : (s.setClu k x).nextSwap = s.nextSwap := rfl
@[simp] theorem State.setClu_swapStatus (s : State) (k : Nat) (x : Cluster) : (s.setClu k x).swapStatus = s.swapStatus := rfl
@[simp] theorem State.setClu_swapKept (s : State) (k : Nat) (x : Cluster) : (s.setClu k x).swapKept = s.swapKept := rfl
@[simp] theorem State.setClu_notices (s : State) (k : Nat) (x : Cluster) : (s.setClu k x).notices = s.notices := rfl
@[simp] theorem State.setClu_drives (s : State) (k : Nat) (x : Cluster) : (s.setClu k x).drives = s.drives := rfl
@[simp] theorem State.setClu_peers (s : State) (k : Nat) (x : Cluster) : (s.setClu k x).peers = s.peers := rfl
@[simp] theorem State.setClu_fencedClusters (s : State) (k : Nat) (x : Cluster) : (s.setClu k x).fencedClusters = s.fencedClusters := rfl
@[simp] theorem State.setClu_fencedDies (s : State) (k : Nat) (x : Cluster) : (s.setClu k x).fencedDies = s.fencedDies := rfl
@[simp] theorem State.setClu_fencedMdies (s : State) (k : Nat) (x : Cluster) : (s.setClu k x).fencedMdies = s.fencedMdies := rfl
@[simp] theorem State.setClu_fencedLinks (s : State) (k : Nat) (x : Cluster) : (s.setClu k x).fencedLinks = s.fencedLinks := rfl
@[simp] theorem State.setClu_fencedFlash (s : State) (k : Nat) (x : Cluster) : (s.setClu k x).fencedFlash = s.fencedFlash := rfl
@[simp] theorem State.setClu_breakHalt (s : State) (k : Nat) (x : Cluster) : (s.setClu k x).breakHalt = s.breakHalt := rfl
@[simp] theorem State.setClu_trips (s : State) (k : Nat) (x : Cluster) : (s.setClu k x).trips = s.trips := rfl
@[simp] theorem State.setClu_bootImage (s : State) (k : Nat) (x : Cluster) : (s.setClu k x).bootImage = s.bootImage := rfl
@[simp] theorem State.setClu_sideband (s : State) (k : Nat) (x : Cluster) : (s.setClu k x).sideband = s.sideband := rfl

/-! ### modDie -/

@[simp] theorem State.modDie_power (s : State) (d : Nat) (f : Die → Die) : (s.modDie d f).power = s.power := rfl
@[simp] theorem State.modDie_sideOn (s : State) (d : Nat) (f : Die → Die) : (s.modDie d f).sideOn = s.sideOn := rfl
@[simp] theorem State.modDie_boots (s : State) (d : Nat) (f : Die → Die) : (s.modDie d f).boots = s.boots := rfl
@[simp] theorem State.modDie_clk (s : State) (d : Nat) (f : Die → Die) : (s.modDie d f).clk = s.clk := rfl
@[simp] theorem State.modDie_tick (s : State) (d : Nat) (f : Die → Die) : (s.modDie d f).tick = s.tick := rfl
@[simp] theorem State.modDie_cur (s : State) (d : Nat) (f : Die → Die) : (s.modDie d f).cur = s.cur := rfl
@[simp] theorem State.modDie_ev (s : State) (d : Nat) (f : Die → Die) : (s.modDie d f).ev = s.ev := rfl
@[simp] theorem State.modDie_inputs (s : State) (d : Nat) (f : Die → Die) : (s.modDie d f).inputs = s.inputs := rfl
@[simp] theorem State.modDie_slots (s : State) (d : Nat) (f : Die → Die) : (s.modDie d f).slots = s.slots := rfl
@[simp] theorem State.modDie_cores (s : State) (d : Nat) (f : Die → Die) : (s.modDie d f).cores = s.cores := rfl
@[simp] theorem State.modDie_clusters (s : State) (d : Nat) (f : Die → Die) : (s.modDie d f).clusters = s.clusters := rfl
@[simp] theorem State.modDie_homes (s : State) (d : Nat) (f : Die → Die) : (s.modDie d f).homes = s.homes := rfl
@[simp] theorem State.modDie_waits (s : State) (d : Nat) (f : Die → Die) : (s.modDie d f).waits = s.waits := rfl
@[simp] theorem State.modDie_mem (s : State) (d : Nat) (f : Die → Die) : (s.modDie d f).mem = s.mem := rfl
@[simp] theorem State.modDie_poison (s : State) (d : Nat) (f : Die → Die) : (s.modDie d f).poison = s.poison := rfl
@[simp] theorem State.modDie_mended (s : State) (d : Nat) (f : Die → Die) : (s.modDie d f).mended = s.mended := rfl
@[simp] theorem State.modDie_stvec (s : State) (d : Nat) (f : Die → Die) : (s.modDie d f).stvec = s.stvec := rfl
@[simp] theorem State.modDie_hselVar (s : State) (d : Nat) (f : Die → Die) : (s.modDie d f).hselVar = s.hselVar := rfl
@[simp] theorem State.modDie_doms (s : State) (d : Nat) (f : Die → Die) : (s.modDie d f).doms = s.doms := rfl
@[simp] theorem State.modDie_hqota (s : State) (d : Nat) (f : Die → Die) : (s.modDie d f).hqota = s.hqota := rfl
@[simp] theorem State.modDie_quotaNow (s : State) (d : Nat) (f : Die → Die) : (s.modDie d f).quotaNow = s.quotaNow := rfl
@[simp] theorem State.modDie_window (s : State) (d : Nat) (f : Die → Die) : (s.modDie d f).window = s.window := rfl
@[simp] theorem State.modDie_drnl (s : State) (d : Nat) (f : Die → Die) : (s.modDie d f).drnl = s.drnl := rfl
@[simp] theorem State.modDie_lease (s : State) (d : Nat) (f : Die → Die) : (s.modDie d f).lease = s.lease := rfl
@[simp] theorem State.modDie_asids (s : State) (d : Nat) (f : Die → Die) : (s.modDie d f).asids = s.asids := rfl
@[simp] theorem State.modDie_owned (s : State) (d : Nat) (f : Die → Die) : (s.modDie d f).owned = s.owned := rfl
@[simp] theorem State.modDie_launches (s : State) (d : Nat) (f : Die → Die) : (s.modDie d f).launches = s.launches := rfl
@[simp] theorem State.modDie_nextLid (s : State) (d : Nat) (f : Die → Die) : (s.modDie d f).nextLid = s.nextLid := rfl
@[simp] theorem State.modDie_jhead (s : State) (d : Nat) (f : Die → Die) : (s.modDie d f).jhead = s.jhead := rfl
@[simp] theorem State.modDie_jrel (s : State) (d : Nat) (f : Die → Die) : (s.modDie d f).jrel = s.jrel := rfl
@[simp] theorem State.modDie_queues (s : State) (d : Nat) (f : Die → Die) : (s.modDie d f).queues = s.queues := rfl
@[simp] theorem State.modDie_lastQueue (s : State) (d : Nat) (f : Die → Die) : (s.modDie d f).lastQueue = s.lastQueue := rfl
@[simp] theorem State.modDie_dstate (s : State) (d : Nat) (f : Die → Die) : (s.modDie d f).dstate = s.dstate := rfl
@[simp] theorem State.modDie_bootErr (s : State) (d : Nat) (f : Die → Die) : (s.modDie d f).bootErr = s.bootErr := rfl
@[simp] theorem State.modDie_mdieMask (s : State) (d : Nat) (f : Die → Die) : (s.modDie d f).mdieMask = s.mdieMask := rfl
@[simp] theorem State.modDie_fwImage (s : State) (d : Nat) (f : Die → Die) : (s.modDie d f).fwImage = s.fwImage := rfl
@[simp] theorem State.modDie_cluMask (s : State) (d : Nat) (f : Die → Die) : (s.modDie d f).cluMask = s.cluMask := rfl
@[simp] theorem State.modDie_jbase (s : State) (d : Nat) (f : Die → Die) : (s.modDie d f).jbase = s.jbase := rfl
@[simp] theorem State.modDie_windows (s : State) (d : Nat) (f : Die → Die) : (s.modDie d f).windows = s.windows := rfl
@[simp] theorem State.modDie_mbRun (s : State) (d : Nat) (f : Die → Die) : (s.modDie d f).mbRun = s.mbRun := rfl
@[simp] theorem State.modDie_mbLen (s : State) (d : Nat) (f : Die → Die) : (s.modDie d f).mbLen = s.mbLen := rfl
@[simp] theorem State.modDie_mbSts (s : State) (d : Nat) (f : Die → Die) : (s.modDie d f).mbSts = s.mbSts := rfl
@[simp] theorem State.modDie_mbResp (s : State) (d : Nat) (f : Die → Die) : (s.modDie d f).mbResp = s.mbResp := rfl
@[simp] theorem State.modDie_mbData (s : State) (d : Nat) (f : Die → Die) : (s.modDie d f).mbData = s.mbData := rfl
@[simp] theorem State.modDie_msixTable (s : State) (d : Nat) (f : Die → Die) : (s.modDie d f).msixTable = s.msixTable := rfl
@[simp] theorem State.modDie_msix (s : State) (d : Nat) (f : Die → Die) : (s.modDie d f).msix = s.msix := rfl
@[simp] theorem State.modDie_hostData (s : State) (d : Nat) (f : Die → Die) : (s.modDie d f).hostData = s.hostData := rfl
@[simp] theorem State.modDie_donqs (s : State) (d : Nat) (f : Die → Die) : (s.modDie d f).donqs = s.donqs := rfl
@[simp] theorem State.modDie_donOut (s : State) (d : Nat) (f : Die → Die) : (s.modDie d f).donOut = s.donOut := rfl
@[simp] theorem State.modDie_donIn (s : State) (d : Nat) (f : Die → Die) : (s.modDie d f).donIn = s.donIn := rfl
@[simp] theorem State.modDie_swaps (s : State) (d : Nat) (f : Die → Die) : (s.modDie d f).swaps = s.swaps := rfl
@[simp] theorem State.modDie_nextSwap (s : State) (d : Nat) (f : Die → Die) : (s.modDie d f).nextSwap = s.nextSwap := rfl
@[simp] theorem State.modDie_swapStatus (s : State) (d : Nat) (f : Die → Die) : (s.modDie d f).swapStatus = s.swapStatus := rfl
@[simp] theorem State.modDie_swapKept (s : State) (d : Nat) (f : Die → Die) : (s.modDie d f).swapKept = s.swapKept := rfl
@[simp] theorem State.modDie_notices (s : State) (d : Nat) (f : Die → Die) : (s.modDie d f).notices = s.notices := rfl
@[simp] theorem State.modDie_drives (s : State) (d : Nat) (f : Die → Die) : (s.modDie d f).drives = s.drives := rfl
@[simp] theorem State.modDie_peers (s : State) (d : Nat) (f : Die → Die) : (s.modDie d f).peers = s.peers := rfl
@[simp] theorem State.modDie_fencedClusters (s : State) (d : Nat) (f : Die → Die) : (s.modDie d f).fencedClusters = s.fencedClusters := rfl
@[simp] theorem State.modDie_fencedDies (s : State) (d : Nat) (f : Die → Die) : (s.modDie d f).fencedDies = s.fencedDies := rfl
@[simp] theorem State.modDie_fencedMdies (s : State) (d : Nat) (f : Die → Die) : (s.modDie d f).fencedMdies = s.fencedMdies := rfl
@[simp] theorem State.modDie_fencedLinks (s : State) (d : Nat) (f : Die → Die) : (s.modDie d f).fencedLinks = s.fencedLinks := rfl
@[simp] theorem State.modDie_fencedFlash (s : State) (d : Nat) (f : Die → Die) : (s.modDie d f).fencedFlash = s.fencedFlash := rfl
@[simp] theorem State.modDie_breakHalt (s : State) (d : Nat) (f : Die → Die) : (s.modDie d f).breakHalt = s.breakHalt := rfl
@[simp] theorem State.modDie_trips (s : State) (d : Nat) (f : Die → Die) : (s.modDie d f).trips = s.trips := rfl
@[simp] theorem State.modDie_bootImage (s : State) (d : Nat) (f : Die → Die) : (s.modDie d f).bootImage = s.bootImage := rfl
@[simp] theorem State.modDie_sideband (s : State) (d : Nat) (f : Die → Die) : (s.modDie d f).sideband = s.sideband := rfl

/-! ### modHome -/

@[simp] theorem State.modHome_power (s : State) (h : Nat) (f : Home → Home) : (s.modHome h f).power = s.power := rfl
@[simp] theorem State.modHome_sideOn (s : State) (h : Nat) (f : Home → Home) : (s.modHome h f).sideOn = s.sideOn := rfl
@[simp] theorem State.modHome_boots (s : State) (h : Nat) (f : Home → Home) : (s.modHome h f).boots = s.boots := rfl
@[simp] theorem State.modHome_clk (s : State) (h : Nat) (f : Home → Home) : (s.modHome h f).clk = s.clk := rfl
@[simp] theorem State.modHome_tick (s : State) (h : Nat) (f : Home → Home) : (s.modHome h f).tick = s.tick := rfl
@[simp] theorem State.modHome_cur (s : State) (h : Nat) (f : Home → Home) : (s.modHome h f).cur = s.cur := rfl
@[simp] theorem State.modHome_ev (s : State) (h : Nat) (f : Home → Home) : (s.modHome h f).ev = s.ev := rfl
@[simp] theorem State.modHome_inputs (s : State) (h : Nat) (f : Home → Home) : (s.modHome h f).inputs = s.inputs := rfl
@[simp] theorem State.modHome_slots (s : State) (h : Nat) (f : Home → Home) : (s.modHome h f).slots = s.slots := rfl
@[simp] theorem State.modHome_cores (s : State) (h : Nat) (f : Home → Home) : (s.modHome h f).cores = s.cores := rfl
@[simp] theorem State.modHome_clusters (s : State) (h : Nat) (f : Home → Home) : (s.modHome h f).clusters = s.clusters := rfl
@[simp] theorem State.modHome_dies (s : State) (h : Nat) (f : Home → Home) : (s.modHome h f).dies = s.dies := rfl
@[simp] theorem State.modHome_waits (s : State) (h : Nat) (f : Home → Home) : (s.modHome h f).waits = s.waits := rfl
@[simp] theorem State.modHome_mem (s : State) (h : Nat) (f : Home → Home) : (s.modHome h f).mem = s.mem := rfl
@[simp] theorem State.modHome_poison (s : State) (h : Nat) (f : Home → Home) : (s.modHome h f).poison = s.poison := rfl
@[simp] theorem State.modHome_mended (s : State) (h : Nat) (f : Home → Home) : (s.modHome h f).mended = s.mended := rfl
@[simp] theorem State.modHome_stvec (s : State) (h : Nat) (f : Home → Home) : (s.modHome h f).stvec = s.stvec := rfl
@[simp] theorem State.modHome_hselVar (s : State) (h : Nat) (f : Home → Home) : (s.modHome h f).hselVar = s.hselVar := rfl
@[simp] theorem State.modHome_doms (s : State) (h : Nat) (f : Home → Home) : (s.modHome h f).doms = s.doms := rfl
@[simp] theorem State.modHome_hqota (s : State) (h : Nat) (f : Home → Home) : (s.modHome h f).hqota = s.hqota := rfl
@[simp] theorem State.modHome_quotaNow (s : State) (h : Nat) (f : Home → Home) : (s.modHome h f).quotaNow = s.quotaNow := rfl
@[simp] theorem State.modHome_window (s : State) (h : Nat) (f : Home → Home) : (s.modHome h f).window = s.window := rfl
@[simp] theorem State.modHome_drnl (s : State) (h : Nat) (f : Home → Home) : (s.modHome h f).drnl = s.drnl := rfl
@[simp] theorem State.modHome_lease (s : State) (h : Nat) (f : Home → Home) : (s.modHome h f).lease = s.lease := rfl
@[simp] theorem State.modHome_asids (s : State) (h : Nat) (f : Home → Home) : (s.modHome h f).asids = s.asids := rfl
@[simp] theorem State.modHome_owned (s : State) (h : Nat) (f : Home → Home) : (s.modHome h f).owned = s.owned := rfl
@[simp] theorem State.modHome_launches (s : State) (h : Nat) (f : Home → Home) : (s.modHome h f).launches = s.launches := rfl
@[simp] theorem State.modHome_nextLid (s : State) (h : Nat) (f : Home → Home) : (s.modHome h f).nextLid = s.nextLid := rfl
@[simp] theorem State.modHome_jhead (s : State) (h : Nat) (f : Home → Home) : (s.modHome h f).jhead = s.jhead := rfl
@[simp] theorem State.modHome_jrel (s : State) (h : Nat) (f : Home → Home) : (s.modHome h f).jrel = s.jrel := rfl
@[simp] theorem State.modHome_queues (s : State) (h : Nat) (f : Home → Home) : (s.modHome h f).queues = s.queues := rfl
@[simp] theorem State.modHome_lastQueue (s : State) (h : Nat) (f : Home → Home) : (s.modHome h f).lastQueue = s.lastQueue := rfl
@[simp] theorem State.modHome_dstate (s : State) (h : Nat) (f : Home → Home) : (s.modHome h f).dstate = s.dstate := rfl
@[simp] theorem State.modHome_bootErr (s : State) (h : Nat) (f : Home → Home) : (s.modHome h f).bootErr = s.bootErr := rfl
@[simp] theorem State.modHome_mdieMask (s : State) (h : Nat) (f : Home → Home) : (s.modHome h f).mdieMask = s.mdieMask := rfl
@[simp] theorem State.modHome_fwImage (s : State) (h : Nat) (f : Home → Home) : (s.modHome h f).fwImage = s.fwImage := rfl
@[simp] theorem State.modHome_cluMask (s : State) (h : Nat) (f : Home → Home) : (s.modHome h f).cluMask = s.cluMask := rfl
@[simp] theorem State.modHome_jbase (s : State) (h : Nat) (f : Home → Home) : (s.modHome h f).jbase = s.jbase := rfl
@[simp] theorem State.modHome_windows (s : State) (h : Nat) (f : Home → Home) : (s.modHome h f).windows = s.windows := rfl
@[simp] theorem State.modHome_mbRun (s : State) (h : Nat) (f : Home → Home) : (s.modHome h f).mbRun = s.mbRun := rfl
@[simp] theorem State.modHome_mbLen (s : State) (h : Nat) (f : Home → Home) : (s.modHome h f).mbLen = s.mbLen := rfl
@[simp] theorem State.modHome_mbSts (s : State) (h : Nat) (f : Home → Home) : (s.modHome h f).mbSts = s.mbSts := rfl
@[simp] theorem State.modHome_mbResp (s : State) (h : Nat) (f : Home → Home) : (s.modHome h f).mbResp = s.mbResp := rfl
@[simp] theorem State.modHome_mbData (s : State) (h : Nat) (f : Home → Home) : (s.modHome h f).mbData = s.mbData := rfl
@[simp] theorem State.modHome_msixTable (s : State) (h : Nat) (f : Home → Home) : (s.modHome h f).msixTable = s.msixTable := rfl
@[simp] theorem State.modHome_msix (s : State) (h : Nat) (f : Home → Home) : (s.modHome h f).msix = s.msix := rfl
@[simp] theorem State.modHome_hostData (s : State) (h : Nat) (f : Home → Home) : (s.modHome h f).hostData = s.hostData := rfl
@[simp] theorem State.modHome_donqs (s : State) (h : Nat) (f : Home → Home) : (s.modHome h f).donqs = s.donqs := rfl
@[simp] theorem State.modHome_donOut (s : State) (h : Nat) (f : Home → Home) : (s.modHome h f).donOut = s.donOut := rfl
@[simp] theorem State.modHome_donIn (s : State) (h : Nat) (f : Home → Home) : (s.modHome h f).donIn = s.donIn := rfl
@[simp] theorem State.modHome_swaps (s : State) (h : Nat) (f : Home → Home) : (s.modHome h f).swaps = s.swaps := rfl
@[simp] theorem State.modHome_nextSwap (s : State) (h : Nat) (f : Home → Home) : (s.modHome h f).nextSwap = s.nextSwap := rfl
@[simp] theorem State.modHome_swapStatus (s : State) (h : Nat) (f : Home → Home) : (s.modHome h f).swapStatus = s.swapStatus := rfl
@[simp] theorem State.modHome_swapKept (s : State) (h : Nat) (f : Home → Home) : (s.modHome h f).swapKept = s.swapKept := rfl
@[simp] theorem State.modHome_notices (s : State) (h : Nat) (f : Home → Home) : (s.modHome h f).notices = s.notices := rfl
@[simp] theorem State.modHome_drives (s : State) (h : Nat) (f : Home → Home) : (s.modHome h f).drives = s.drives := rfl
@[simp] theorem State.modHome_peers (s : State) (h : Nat) (f : Home → Home) : (s.modHome h f).peers = s.peers := rfl
@[simp] theorem State.modHome_fencedClusters (s : State) (h : Nat) (f : Home → Home) : (s.modHome h f).fencedClusters = s.fencedClusters := rfl
@[simp] theorem State.modHome_fencedDies (s : State) (h : Nat) (f : Home → Home) : (s.modHome h f).fencedDies = s.fencedDies := rfl
@[simp] theorem State.modHome_fencedMdies (s : State) (h : Nat) (f : Home → Home) : (s.modHome h f).fencedMdies = s.fencedMdies := rfl
@[simp] theorem State.modHome_fencedLinks (s : State) (h : Nat) (f : Home → Home) : (s.modHome h f).fencedLinks = s.fencedLinks := rfl
@[simp] theorem State.modHome_fencedFlash (s : State) (h : Nat) (f : Home → Home) : (s.modHome h f).fencedFlash = s.fencedFlash := rfl
@[simp] theorem State.modHome_breakHalt (s : State) (h : Nat) (f : Home → Home) : (s.modHome h f).breakHalt = s.breakHalt := rfl
@[simp] theorem State.modHome_trips (s : State) (h : Nat) (f : Home → Home) : (s.modHome h f).trips = s.trips := rfl
@[simp] theorem State.modHome_bootImage (s : State) (h : Nat) (f : Home → Home) : (s.modHome h f).bootImage = s.bootImage := rfl
@[simp] theorem State.modHome_sideband (s : State) (h : Nat) (f : Home → Home) : (s.modHome h f).sideband = s.sideband := rfl

/-! ### modAsid -/

@[simp] theorem State.modAsid_power (s : State) (a : Nat) (f : Asid → Asid) : (s.modAsid a f).power = s.power := rfl
@[simp] theorem State.modAsid_sideOn (s : State) (a : Nat) (f : Asid → Asid) : (s.modAsid a f).sideOn = s.sideOn := rfl
@[simp] theorem State.modAsid_boots (s : State) (a : Nat) (f : Asid → Asid) : (s.modAsid a f).boots = s.boots := rfl
@[simp] theorem State.modAsid_clk (s : State) (a : Nat) (f : Asid → Asid) : (s.modAsid a f).clk = s.clk := rfl
@[simp] theorem State.modAsid_tick (s : State) (a : Nat) (f : Asid → Asid) : (s.modAsid a f).tick = s.tick := rfl
@[simp] theorem State.modAsid_cur (s : State) (a : Nat) (f : Asid → Asid) : (s.modAsid a f).cur = s.cur := rfl
@[simp] theorem State.modAsid_ev (s : State) (a : Nat) (f : Asid → Asid) : (s.modAsid a f).ev = s.ev := rfl
@[simp] theorem State.modAsid_inputs (s : State) (a : Nat) (f : Asid → Asid) : (s.modAsid a f).inputs = s.inputs := rfl
@[simp] theorem State.modAsid_slots (s : State) (a : Nat) (f : Asid → Asid) : (s.modAsid a f).slots = s.slots := rfl
@[simp] theorem State.modAsid_cores (s : State) (a : Nat) (f : Asid → Asid) : (s.modAsid a f).cores = s.cores := rfl
@[simp] theorem State.modAsid_clusters (s : State) (a : Nat) (f : Asid → Asid) : (s.modAsid a f).clusters = s.clusters := rfl
@[simp] theorem State.modAsid_dies (s : State) (a : Nat) (f : Asid → Asid) : (s.modAsid a f).dies = s.dies := rfl
@[simp] theorem State.modAsid_homes (s : State) (a : Nat) (f : Asid → Asid) : (s.modAsid a f).homes = s.homes := rfl
@[simp] theorem State.modAsid_waits (s : State) (a : Nat) (f : Asid → Asid) : (s.modAsid a f).waits = s.waits := rfl
@[simp] theorem State.modAsid_mem (s : State) (a : Nat) (f : Asid → Asid) : (s.modAsid a f).mem = s.mem := rfl
@[simp] theorem State.modAsid_poison (s : State) (a : Nat) (f : Asid → Asid) : (s.modAsid a f).poison = s.poison := rfl
@[simp] theorem State.modAsid_mended (s : State) (a : Nat) (f : Asid → Asid) : (s.modAsid a f).mended = s.mended := rfl
@[simp] theorem State.modAsid_stvec (s : State) (a : Nat) (f : Asid → Asid) : (s.modAsid a f).stvec = s.stvec := rfl
@[simp] theorem State.modAsid_hselVar (s : State) (a : Nat) (f : Asid → Asid) : (s.modAsid a f).hselVar = s.hselVar := rfl
@[simp] theorem State.modAsid_doms (s : State) (a : Nat) (f : Asid → Asid) : (s.modAsid a f).doms = s.doms := rfl
@[simp] theorem State.modAsid_hqota (s : State) (a : Nat) (f : Asid → Asid) : (s.modAsid a f).hqota = s.hqota := rfl
@[simp] theorem State.modAsid_quotaNow (s : State) (a : Nat) (f : Asid → Asid) : (s.modAsid a f).quotaNow = s.quotaNow := rfl
@[simp] theorem State.modAsid_window (s : State) (a : Nat) (f : Asid → Asid) : (s.modAsid a f).window = s.window := rfl
@[simp] theorem State.modAsid_drnl (s : State) (a : Nat) (f : Asid → Asid) : (s.modAsid a f).drnl = s.drnl := rfl
@[simp] theorem State.modAsid_lease (s : State) (a : Nat) (f : Asid → Asid) : (s.modAsid a f).lease = s.lease := rfl
@[simp] theorem State.modAsid_owned (s : State) (a : Nat) (f : Asid → Asid) : (s.modAsid a f).owned = s.owned := rfl
@[simp] theorem State.modAsid_launches (s : State) (a : Nat) (f : Asid → Asid) : (s.modAsid a f).launches = s.launches := rfl
@[simp] theorem State.modAsid_nextLid (s : State) (a : Nat) (f : Asid → Asid) : (s.modAsid a f).nextLid = s.nextLid := rfl
@[simp] theorem State.modAsid_jhead (s : State) (a : Nat) (f : Asid → Asid) : (s.modAsid a f).jhead = s.jhead := rfl
@[simp] theorem State.modAsid_jrel (s : State) (a : Nat) (f : Asid → Asid) : (s.modAsid a f).jrel = s.jrel := rfl
@[simp] theorem State.modAsid_queues (s : State) (a : Nat) (f : Asid → Asid) : (s.modAsid a f).queues = s.queues := rfl
@[simp] theorem State.modAsid_lastQueue (s : State) (a : Nat) (f : Asid → Asid) : (s.modAsid a f).lastQueue = s.lastQueue := rfl
@[simp] theorem State.modAsid_dstate (s : State) (a : Nat) (f : Asid → Asid) : (s.modAsid a f).dstate = s.dstate := rfl
@[simp] theorem State.modAsid_bootErr (s : State) (a : Nat) (f : Asid → Asid) : (s.modAsid a f).bootErr = s.bootErr := rfl
@[simp] theorem State.modAsid_mdieMask (s : State) (a : Nat) (f : Asid → Asid) : (s.modAsid a f).mdieMask = s.mdieMask := rfl
@[simp] theorem State.modAsid_fwImage (s : State) (a : Nat) (f : Asid → Asid) : (s.modAsid a f).fwImage = s.fwImage := rfl
@[simp] theorem State.modAsid_cluMask (s : State) (a : Nat) (f : Asid → Asid) : (s.modAsid a f).cluMask = s.cluMask := rfl
@[simp] theorem State.modAsid_jbase (s : State) (a : Nat) (f : Asid → Asid) : (s.modAsid a f).jbase = s.jbase := rfl
@[simp] theorem State.modAsid_windows (s : State) (a : Nat) (f : Asid → Asid) : (s.modAsid a f).windows = s.windows := rfl
@[simp] theorem State.modAsid_mbRun (s : State) (a : Nat) (f : Asid → Asid) : (s.modAsid a f).mbRun = s.mbRun := rfl
@[simp] theorem State.modAsid_mbLen (s : State) (a : Nat) (f : Asid → Asid) : (s.modAsid a f).mbLen = s.mbLen := rfl
@[simp] theorem State.modAsid_mbSts (s : State) (a : Nat) (f : Asid → Asid) : (s.modAsid a f).mbSts = s.mbSts := rfl
@[simp] theorem State.modAsid_mbResp (s : State) (a : Nat) (f : Asid → Asid) : (s.modAsid a f).mbResp = s.mbResp := rfl
@[simp] theorem State.modAsid_mbData (s : State) (a : Nat) (f : Asid → Asid) : (s.modAsid a f).mbData = s.mbData := rfl
@[simp] theorem State.modAsid_msixTable (s : State) (a : Nat) (f : Asid → Asid) : (s.modAsid a f).msixTable = s.msixTable := rfl
@[simp] theorem State.modAsid_msix (s : State) (a : Nat) (f : Asid → Asid) : (s.modAsid a f).msix = s.msix := rfl
@[simp] theorem State.modAsid_hostData (s : State) (a : Nat) (f : Asid → Asid) : (s.modAsid a f).hostData = s.hostData := rfl
@[simp] theorem State.modAsid_donqs (s : State) (a : Nat) (f : Asid → Asid) : (s.modAsid a f).donqs = s.donqs := rfl
@[simp] theorem State.modAsid_donOut (s : State) (a : Nat) (f : Asid → Asid) : (s.modAsid a f).donOut = s.donOut := rfl
@[simp] theorem State.modAsid_donIn (s : State) (a : Nat) (f : Asid → Asid) : (s.modAsid a f).donIn = s.donIn := rfl
@[simp] theorem State.modAsid_swaps (s : State) (a : Nat) (f : Asid → Asid) : (s.modAsid a f).swaps = s.swaps := rfl
@[simp] theorem State.modAsid_nextSwap (s : State) (a : Nat) (f : Asid → Asid) : (s.modAsid a f).nextSwap = s.nextSwap := rfl
@[simp] theorem State.modAsid_swapStatus (s : State) (a : Nat) (f : Asid → Asid) : (s.modAsid a f).swapStatus = s.swapStatus := rfl
@[simp] theorem State.modAsid_swapKept (s : State) (a : Nat) (f : Asid → Asid) : (s.modAsid a f).swapKept = s.swapKept := rfl
@[simp] theorem State.modAsid_notices (s : State) (a : Nat) (f : Asid → Asid) : (s.modAsid a f).notices = s.notices := rfl
@[simp] theorem State.modAsid_drives (s : State) (a : Nat) (f : Asid → Asid) : (s.modAsid a f).drives = s.drives := rfl
@[simp] theorem State.modAsid_peers (s : State) (a : Nat) (f : Asid → Asid) : (s.modAsid a f).peers = s.peers := rfl
@[simp] theorem State.modAsid_fencedClusters (s : State) (a : Nat) (f : Asid → Asid) : (s.modAsid a f).fencedClusters = s.fencedClusters := rfl
@[simp] theorem State.modAsid_fencedDies (s : State) (a : Nat) (f : Asid → Asid) : (s.modAsid a f).fencedDies = s.fencedDies := rfl
@[simp] theorem State.modAsid_fencedMdies (s : State) (a : Nat) (f : Asid → Asid) : (s.modAsid a f).fencedMdies = s.fencedMdies := rfl
@[simp] theorem State.modAsid_fencedLinks (s : State) (a : Nat) (f : Asid → Asid) : (s.modAsid a f).fencedLinks = s.fencedLinks := rfl
@[simp] theorem State.modAsid_fencedFlash (s : State) (a : Nat) (f : Asid → Asid) : (s.modAsid a f).fencedFlash = s.fencedFlash := rfl
@[simp] theorem State.modAsid_breakHalt (s : State) (a : Nat) (f : Asid → Asid) : (s.modAsid a f).breakHalt = s.breakHalt := rfl
@[simp] theorem State.modAsid_trips (s : State) (a : Nat) (f : Asid → Asid) : (s.modAsid a f).trips = s.trips := rfl
@[simp] theorem State.modAsid_bootImage (s : State) (a : Nat) (f : Asid → Asid) : (s.modAsid a f).bootImage = s.bootImage := rfl
@[simp] theorem State.modAsid_sideband (s : State) (a : Nat) (f : Asid → Asid) : (s.modAsid a f).sideband = s.sideband := rfl

/-! ### modQueue -/

@[simp] theorem State.modQueue_power (s : State) (q : Nat) (f : Queue → Queue) : (s.modQueue q f).power = s.power := rfl
@[simp] theorem State.modQueue_sideOn (s : State) (q : Nat) (f : Queue → Queue) : (s.modQueue q f).sideOn = s.sideOn := rfl
@[simp] theorem State.modQueue_boots (s : State) (q : Nat) (f : Queue → Queue) : (s.modQueue q f).boots = s.boots := rfl
@[simp] theorem State.modQueue_clk (s : State) (q : Nat) (f : Queue → Queue) : (s.modQueue q f).clk = s.clk := rfl
@[simp] theorem State.modQueue_tick (s : State) (q : Nat) (f : Queue → Queue) : (s.modQueue q f).tick = s.tick := rfl
@[simp] theorem State.modQueue_cur (s : State) (q : Nat) (f : Queue → Queue) : (s.modQueue q f).cur = s.cur := rfl
@[simp] theorem State.modQueue_ev (s : State) (q : Nat) (f : Queue → Queue) : (s.modQueue q f).ev = s.ev := rfl
@[simp] theorem State.modQueue_inputs (s : State) (q : Nat) (f : Queue → Queue) : (s.modQueue q f).inputs = s.inputs := rfl
@[simp] theorem State.modQueue_slots (s : State) (q : Nat) (f : Queue → Queue) : (s.modQueue q f).slots = s.slots := rfl
@[simp] theorem State.modQueue_cores (s : State) (q : Nat) (f : Queue → Queue) : (s.modQueue q f).cores = s.cores := rfl
@[simp] theorem State.modQueue_clusters (s : State) (q : Nat) (f : Queue → Queue) : (s.modQueue q f).clusters = s.clusters := rfl
@[simp] theorem State.modQueue_dies (s : State) (q : Nat) (f : Queue → Queue) : (s.modQueue q f).dies = s.dies := rfl
@[simp] theorem State.modQueue_homes (s : State) (q : Nat) (f : Queue → Queue) : (s.modQueue q f).homes = s.homes := rfl
@[simp] theorem State.modQueue_waits (s : State) (q : Nat) (f : Queue → Queue) : (s.modQueue q f).waits = s.waits := rfl
@[simp] theorem State.modQueue_mem (s : State) (q : Nat) (f : Queue → Queue) : (s.modQueue q f).mem = s.mem := rfl
@[simp] theorem State.modQueue_poison (s : State) (q : Nat) (f : Queue → Queue) : (s.modQueue q f).poison = s.poison := rfl
@[simp] theorem State.modQueue_mended (s : State) (q : Nat) (f : Queue → Queue) : (s.modQueue q f).mended = s.mended := rfl
@[simp] theorem State.modQueue_stvec (s : State) (q : Nat) (f : Queue → Queue) : (s.modQueue q f).stvec = s.stvec := rfl
@[simp] theorem State.modQueue_hselVar (s : State) (q : Nat) (f : Queue → Queue) : (s.modQueue q f).hselVar = s.hselVar := rfl
@[simp] theorem State.modQueue_doms (s : State) (q : Nat) (f : Queue → Queue) : (s.modQueue q f).doms = s.doms := rfl
@[simp] theorem State.modQueue_hqota (s : State) (q : Nat) (f : Queue → Queue) : (s.modQueue q f).hqota = s.hqota := rfl
@[simp] theorem State.modQueue_quotaNow (s : State) (q : Nat) (f : Queue → Queue) : (s.modQueue q f).quotaNow = s.quotaNow := rfl
@[simp] theorem State.modQueue_window (s : State) (q : Nat) (f : Queue → Queue) : (s.modQueue q f).window = s.window := rfl
@[simp] theorem State.modQueue_drnl (s : State) (q : Nat) (f : Queue → Queue) : (s.modQueue q f).drnl = s.drnl := rfl
@[simp] theorem State.modQueue_lease (s : State) (q : Nat) (f : Queue → Queue) : (s.modQueue q f).lease = s.lease := rfl
@[simp] theorem State.modQueue_asids (s : State) (q : Nat) (f : Queue → Queue) : (s.modQueue q f).asids = s.asids := rfl
@[simp] theorem State.modQueue_owned (s : State) (q : Nat) (f : Queue → Queue) : (s.modQueue q f).owned = s.owned := rfl
@[simp] theorem State.modQueue_launches (s : State) (q : Nat) (f : Queue → Queue) : (s.modQueue q f).launches = s.launches := rfl
@[simp] theorem State.modQueue_nextLid (s : State) (q : Nat) (f : Queue → Queue) : (s.modQueue q f).nextLid = s.nextLid := rfl
@[simp] theorem State.modQueue_jhead (s : State) (q : Nat) (f : Queue → Queue) : (s.modQueue q f).jhead = s.jhead := rfl
@[simp] theorem State.modQueue_jrel (s : State) (q : Nat) (f : Queue → Queue) : (s.modQueue q f).jrel = s.jrel := rfl
@[simp] theorem State.modQueue_lastQueue (s : State) (q : Nat) (f : Queue → Queue) : (s.modQueue q f).lastQueue = s.lastQueue := rfl
@[simp] theorem State.modQueue_dstate (s : State) (q : Nat) (f : Queue → Queue) : (s.modQueue q f).dstate = s.dstate := rfl
@[simp] theorem State.modQueue_bootErr (s : State) (q : Nat) (f : Queue → Queue) : (s.modQueue q f).bootErr = s.bootErr := rfl
@[simp] theorem State.modQueue_mdieMask (s : State) (q : Nat) (f : Queue → Queue) : (s.modQueue q f).mdieMask = s.mdieMask := rfl
@[simp] theorem State.modQueue_fwImage (s : State) (q : Nat) (f : Queue → Queue) : (s.modQueue q f).fwImage = s.fwImage := rfl
@[simp] theorem State.modQueue_cluMask (s : State) (q : Nat) (f : Queue → Queue) : (s.modQueue q f).cluMask = s.cluMask := rfl
@[simp] theorem State.modQueue_jbase (s : State) (q : Nat) (f : Queue → Queue) : (s.modQueue q f).jbase = s.jbase := rfl
@[simp] theorem State.modQueue_windows (s : State) (q : Nat) (f : Queue → Queue) : (s.modQueue q f).windows = s.windows := rfl
@[simp] theorem State.modQueue_mbRun (s : State) (q : Nat) (f : Queue → Queue) : (s.modQueue q f).mbRun = s.mbRun := rfl
@[simp] theorem State.modQueue_mbLen (s : State) (q : Nat) (f : Queue → Queue) : (s.modQueue q f).mbLen = s.mbLen := rfl
@[simp] theorem State.modQueue_mbSts (s : State) (q : Nat) (f : Queue → Queue) : (s.modQueue q f).mbSts = s.mbSts := rfl
@[simp] theorem State.modQueue_mbResp (s : State) (q : Nat) (f : Queue → Queue) : (s.modQueue q f).mbResp = s.mbResp := rfl
@[simp] theorem State.modQueue_mbData (s : State) (q : Nat) (f : Queue → Queue) : (s.modQueue q f).mbData = s.mbData := rfl
@[simp] theorem State.modQueue_msixTable (s : State) (q : Nat) (f : Queue → Queue) : (s.modQueue q f).msixTable = s.msixTable := rfl
@[simp] theorem State.modQueue_msix (s : State) (q : Nat) (f : Queue → Queue) : (s.modQueue q f).msix = s.msix := rfl
@[simp] theorem State.modQueue_hostData (s : State) (q : Nat) (f : Queue → Queue) : (s.modQueue q f).hostData = s.hostData := rfl
@[simp] theorem State.modQueue_donqs (s : State) (q : Nat) (f : Queue → Queue) : (s.modQueue q f).donqs = s.donqs := rfl
@[simp] theorem State.modQueue_donOut (s : State) (q : Nat) (f : Queue → Queue) : (s.modQueue q f).donOut = s.donOut := rfl
@[simp] theorem State.modQueue_donIn (s : State) (q : Nat) (f : Queue → Queue) : (s.modQueue q f).donIn = s.donIn := rfl
@[simp] theorem State.modQueue_swaps (s : State) (q : Nat) (f : Queue → Queue) : (s.modQueue q f).swaps = s.swaps := rfl
@[simp] theorem State.modQueue_nextSwap (s : State) (q : Nat) (f : Queue → Queue) : (s.modQueue q f).nextSwap = s.nextSwap := rfl
@[simp] theorem State.modQueue_swapStatus (s : State) (q : Nat) (f : Queue → Queue) : (s.modQueue q f).swapStatus = s.swapStatus := rfl
@[simp] theorem State.modQueue_swapKept (s : State) (q : Nat) (f : Queue → Queue) : (s.modQueue q f).swapKept = s.swapKept := rfl
@[simp] theorem State.modQueue_notices (s : State) (q : Nat) (f : Queue → Queue) : (s.modQueue q f).notices = s.notices := rfl
@[simp] theorem State.modQueue_drives (s : State) (q : Nat) (f : Queue → Queue) : (s.modQueue q f).drives = s.drives := rfl
@[simp] theorem State.modQueue_peers (s : State) (q : Nat) (f : Queue → Queue) : (s.modQueue q f).peers = s.peers := rfl
@[simp] theorem State.modQueue_fencedClusters (s : State) (q : Nat) (f : Queue → Queue) : (s.modQueue q f).fencedClusters = s.fencedClusters := rfl
@[simp] theorem State.modQueue_fencedDies (s : State) (q : Nat) (f : Queue → Queue) : (s.modQueue q f).fencedDies = s.fencedDies := rfl
@[simp] theorem State.modQueue_fencedMdies (s : State) (q : Nat) (f : Queue → Queue) : (s.modQueue q f).fencedMdies = s.fencedMdies := rfl
@[simp] theorem State.modQueue_fencedLinks (s : State) (q : Nat) (f : Queue → Queue) : (s.modQueue q f).fencedLinks = s.fencedLinks := rfl
@[simp] theorem State.modQueue_fencedFlash (s : State) (q : Nat) (f : Queue → Queue) : (s.modQueue q f).fencedFlash = s.fencedFlash := rfl
@[simp] theorem State.modQueue_breakHalt (s : State) (q : Nat) (f : Queue → Queue) : (s.modQueue q f).breakHalt = s.breakHalt := rfl
@[simp] theorem State.modQueue_trips (s : State) (q : Nat) (f : Queue → Queue) : (s.modQueue q f).trips = s.trips := rfl
@[simp] theorem State.modQueue_bootImage (s : State) (q : Nat) (f : Queue → Queue) : (s.modQueue q f).bootImage = s.bootImage := rfl
@[simp] theorem State.modQueue_sideband (s : State) (q : Nat) (f : Queue → Queue) : (s.modQueue q f).sideband = s.sideband := rfl

/-! ### modDonq -/

@[simp] theorem State.modDonq_power (s : State) (q : Nat) (f : DonQ → DonQ) : (s.modDonq q f).power = s.power := rfl
@[simp] theorem State.modDonq_sideOn (s : State) (q : Nat) (f : DonQ → DonQ) : (s.modDonq q f).sideOn = s.sideOn := rfl
@[simp] theorem State.modDonq_boots (s : State) (q : Nat) (f : DonQ → DonQ) : (s.modDonq q f).boots = s.boots := rfl
@[simp] theorem State.modDonq_clk (s : State) (q : Nat) (f : DonQ → DonQ) : (s.modDonq q f).clk = s.clk := rfl
@[simp] theorem State.modDonq_tick (s : State) (q : Nat) (f : DonQ → DonQ) : (s.modDonq q f).tick = s.tick := rfl
@[simp] theorem State.modDonq_cur (s : State) (q : Nat) (f : DonQ → DonQ) : (s.modDonq q f).cur = s.cur := rfl
@[simp] theorem State.modDonq_ev (s : State) (q : Nat) (f : DonQ → DonQ) : (s.modDonq q f).ev = s.ev := rfl
@[simp] theorem State.modDonq_inputs (s : State) (q : Nat) (f : DonQ → DonQ) : (s.modDonq q f).inputs = s.inputs := rfl
@[simp] theorem State.modDonq_slots (s : State) (q : Nat) (f : DonQ → DonQ) : (s.modDonq q f).slots = s.slots := rfl
@[simp] theorem State.modDonq_cores (s : State) (q : Nat) (f : DonQ → DonQ) : (s.modDonq q f).cores = s.cores := rfl
@[simp] theorem State.modDonq_clusters (s : State) (q : Nat) (f : DonQ → DonQ) : (s.modDonq q f).clusters = s.clusters := rfl
@[simp] theorem State.modDonq_dies (s : State) (q : Nat) (f : DonQ → DonQ) : (s.modDonq q f).dies = s.dies := rfl
@[simp] theorem State.modDonq_homes (s : State) (q : Nat) (f : DonQ → DonQ) : (s.modDonq q f).homes = s.homes := rfl
@[simp] theorem State.modDonq_waits (s : State) (q : Nat) (f : DonQ → DonQ) : (s.modDonq q f).waits = s.waits := rfl
@[simp] theorem State.modDonq_mem (s : State) (q : Nat) (f : DonQ → DonQ) : (s.modDonq q f).mem = s.mem := rfl
@[simp] theorem State.modDonq_poison (s : State) (q : Nat) (f : DonQ → DonQ) : (s.modDonq q f).poison = s.poison := rfl
@[simp] theorem State.modDonq_mended (s : State) (q : Nat) (f : DonQ → DonQ) : (s.modDonq q f).mended = s.mended := rfl
@[simp] theorem State.modDonq_stvec (s : State) (q : Nat) (f : DonQ → DonQ) : (s.modDonq q f).stvec = s.stvec := rfl
@[simp] theorem State.modDonq_hselVar (s : State) (q : Nat) (f : DonQ → DonQ) : (s.modDonq q f).hselVar = s.hselVar := rfl
@[simp] theorem State.modDonq_doms (s : State) (q : Nat) (f : DonQ → DonQ) : (s.modDonq q f).doms = s.doms := rfl
@[simp] theorem State.modDonq_hqota (s : State) (q : Nat) (f : DonQ → DonQ) : (s.modDonq q f).hqota = s.hqota := rfl
@[simp] theorem State.modDonq_quotaNow (s : State) (q : Nat) (f : DonQ → DonQ) : (s.modDonq q f).quotaNow = s.quotaNow := rfl
@[simp] theorem State.modDonq_window (s : State) (q : Nat) (f : DonQ → DonQ) : (s.modDonq q f).window = s.window := rfl
@[simp] theorem State.modDonq_drnl (s : State) (q : Nat) (f : DonQ → DonQ) : (s.modDonq q f).drnl = s.drnl := rfl
@[simp] theorem State.modDonq_lease (s : State) (q : Nat) (f : DonQ → DonQ) : (s.modDonq q f).lease = s.lease := rfl
@[simp] theorem State.modDonq_asids (s : State) (q : Nat) (f : DonQ → DonQ) : (s.modDonq q f).asids = s.asids := rfl
@[simp] theorem State.modDonq_owned (s : State) (q : Nat) (f : DonQ → DonQ) : (s.modDonq q f).owned = s.owned := rfl
@[simp] theorem State.modDonq_launches (s : State) (q : Nat) (f : DonQ → DonQ) : (s.modDonq q f).launches = s.launches := rfl
@[simp] theorem State.modDonq_nextLid (s : State) (q : Nat) (f : DonQ → DonQ) : (s.modDonq q f).nextLid = s.nextLid := rfl
@[simp] theorem State.modDonq_jhead (s : State) (q : Nat) (f : DonQ → DonQ) : (s.modDonq q f).jhead = s.jhead := rfl
@[simp] theorem State.modDonq_jrel (s : State) (q : Nat) (f : DonQ → DonQ) : (s.modDonq q f).jrel = s.jrel := rfl
@[simp] theorem State.modDonq_queues (s : State) (q : Nat) (f : DonQ → DonQ) : (s.modDonq q f).queues = s.queues := rfl
@[simp] theorem State.modDonq_lastQueue (s : State) (q : Nat) (f : DonQ → DonQ) : (s.modDonq q f).lastQueue = s.lastQueue := rfl
@[simp] theorem State.modDonq_dstate (s : State) (q : Nat) (f : DonQ → DonQ) : (s.modDonq q f).dstate = s.dstate := rfl
@[simp] theorem State.modDonq_bootErr (s : State) (q : Nat) (f : DonQ → DonQ) : (s.modDonq q f).bootErr = s.bootErr := rfl
@[simp] theorem State.modDonq_mdieMask (s : State) (q : Nat) (f : DonQ → DonQ) : (s.modDonq q f).mdieMask = s.mdieMask := rfl
@[simp] theorem State.modDonq_fwImage (s : State) (q : Nat) (f : DonQ → DonQ) : (s.modDonq q f).fwImage = s.fwImage := rfl
@[simp] theorem State.modDonq_cluMask (s : State) (q : Nat) (f : DonQ → DonQ) : (s.modDonq q f).cluMask = s.cluMask := rfl
@[simp] theorem State.modDonq_jbase (s : State) (q : Nat) (f : DonQ → DonQ) : (s.modDonq q f).jbase = s.jbase := rfl
@[simp] theorem State.modDonq_windows (s : State) (q : Nat) (f : DonQ → DonQ) : (s.modDonq q f).windows = s.windows := rfl
@[simp] theorem State.modDonq_mbRun (s : State) (q : Nat) (f : DonQ → DonQ) : (s.modDonq q f).mbRun = s.mbRun := rfl
@[simp] theorem State.modDonq_mbLen (s : State) (q : Nat) (f : DonQ → DonQ) : (s.modDonq q f).mbLen = s.mbLen := rfl
@[simp] theorem State.modDonq_mbSts (s : State) (q : Nat) (f : DonQ → DonQ) : (s.modDonq q f).mbSts = s.mbSts := rfl
@[simp] theorem State.modDonq_mbResp (s : State) (q : Nat) (f : DonQ → DonQ) : (s.modDonq q f).mbResp = s.mbResp := rfl
@[simp] theorem State.modDonq_mbData (s : State) (q : Nat) (f : DonQ → DonQ) : (s.modDonq q f).mbData = s.mbData := rfl
@[simp] theorem State.modDonq_msixTable (s : State) (q : Nat) (f : DonQ → DonQ) : (s.modDonq q f).msixTable = s.msixTable := rfl
@[simp] theorem State.modDonq_msix (s : State) (q : Nat) (f : DonQ → DonQ) : (s.modDonq q f).msix = s.msix := rfl
@[simp] theorem State.modDonq_hostData (s : State) (q : Nat) (f : DonQ → DonQ) : (s.modDonq q f).hostData = s.hostData := rfl
@[simp] theorem State.modDonq_donOut (s : State) (q : Nat) (f : DonQ → DonQ) : (s.modDonq q f).donOut = s.donOut := rfl
@[simp] theorem State.modDonq_donIn (s : State) (q : Nat) (f : DonQ → DonQ) : (s.modDonq q f).donIn = s.donIn := rfl
@[simp] theorem State.modDonq_swaps (s : State) (q : Nat) (f : DonQ → DonQ) : (s.modDonq q f).swaps = s.swaps := rfl
@[simp] theorem State.modDonq_nextSwap (s : State) (q : Nat) (f : DonQ → DonQ) : (s.modDonq q f).nextSwap = s.nextSwap := rfl
@[simp] theorem State.modDonq_swapStatus (s : State) (q : Nat) (f : DonQ → DonQ) : (s.modDonq q f).swapStatus = s.swapStatus := rfl
@[simp] theorem State.modDonq_swapKept (s : State) (q : Nat) (f : DonQ → DonQ) : (s.modDonq q f).swapKept = s.swapKept := rfl
@[simp] theorem State.modDonq_notices (s : State) (q : Nat) (f : DonQ → DonQ) : (s.modDonq q f).notices = s.notices := rfl
@[simp] theorem State.modDonq_drives (s : State) (q : Nat) (f : DonQ → DonQ) : (s.modDonq q f).drives = s.drives := rfl
@[simp] theorem State.modDonq_peers (s : State) (q : Nat) (f : DonQ → DonQ) : (s.modDonq q f).peers = s.peers := rfl
@[simp] theorem State.modDonq_fencedClusters (s : State) (q : Nat) (f : DonQ → DonQ) : (s.modDonq q f).fencedClusters = s.fencedClusters := rfl
@[simp] theorem State.modDonq_fencedDies (s : State) (q : Nat) (f : DonQ → DonQ) : (s.modDonq q f).fencedDies = s.fencedDies := rfl
@[simp] theorem State.modDonq_fencedMdies (s : State) (q : Nat) (f : DonQ → DonQ) : (s.modDonq q f).fencedMdies = s.fencedMdies := rfl
@[simp] theorem State.modDonq_fencedLinks (s : State) (q : Nat) (f : DonQ → DonQ) : (s.modDonq q f).fencedLinks = s.fencedLinks := rfl
@[simp] theorem State.modDonq_fencedFlash (s : State) (q : Nat) (f : DonQ → DonQ) : (s.modDonq q f).fencedFlash = s.fencedFlash := rfl
@[simp] theorem State.modDonq_breakHalt (s : State) (q : Nat) (f : DonQ → DonQ) : (s.modDonq q f).breakHalt = s.breakHalt := rfl
@[simp] theorem State.modDonq_trips (s : State) (q : Nat) (f : DonQ → DonQ) : (s.modDonq q f).trips = s.trips := rfl
@[simp] theorem State.modDonq_bootImage (s : State) (q : Nat) (f : DonQ → DonQ) : (s.modDonq q f).bootImage = s.bootImage := rfl
@[simp] theorem State.modDonq_sideband (s : State) (q : Nat) (f : DonQ → DonQ) : (s.modDonq q f).sideband = s.sideband := rfl

/-! ### modLaunch -/

@[simp] theorem State.modLaunch_power (s : State) (l : Nat) (f : Launch → Launch) : (s.modLaunch l f).power = s.power := rfl
@[simp] theorem State.modLaunch_sideOn (s : State) (l : Nat) (f : Launch → Launch) : (s.modLaunch l f).sideOn = s.sideOn := rfl
@[simp] theorem State.modLaunch_boots (s : State) (l : Nat) (f : Launch → Launch) : (s.modLaunch l f).boots = s.boots := rfl
@[simp] theorem State.modLaunch_clk (s : State) (l : Nat) (f : Launch → Launch) : (s.modLaunch l f).clk = s.clk := rfl
@[simp] theorem State.modLaunch_tick (s : State) (l : Nat) (f : Launch → Launch) : (s.modLaunch l f).tick = s.tick := rfl
@[simp] theorem State.modLaunch_cur (s : State) (l : Nat) (f : Launch → Launch) : (s.modLaunch l f).cur = s.cur := rfl
@[simp] theorem State.modLaunch_ev (s : State) (l : Nat) (f : Launch → Launch) : (s.modLaunch l f).ev = s.ev := rfl
@[simp] theorem State.modLaunch_inputs (s : State) (l : Nat) (f : Launch → Launch) : (s.modLaunch l f).inputs = s.inputs := rfl
@[simp] theorem State.modLaunch_slots (s : State) (l : Nat) (f : Launch → Launch) : (s.modLaunch l f).slots = s.slots := rfl
@[simp] theorem State.modLaunch_cores (s : State) (l : Nat) (f : Launch → Launch) : (s.modLaunch l f).cores = s.cores := rfl
@[simp] theorem State.modLaunch_clusters (s : State) (l : Nat) (f : Launch → Launch) : (s.modLaunch l f).clusters = s.clusters := rfl
@[simp] theorem State.modLaunch_dies (s : State) (l : Nat) (f : Launch → Launch) : (s.modLaunch l f).dies = s.dies := rfl
@[simp] theorem State.modLaunch_homes (s : State) (l : Nat) (f : Launch → Launch) : (s.modLaunch l f).homes = s.homes := rfl
@[simp] theorem State.modLaunch_waits (s : State) (l : Nat) (f : Launch → Launch) : (s.modLaunch l f).waits = s.waits := rfl
@[simp] theorem State.modLaunch_mem (s : State) (l : Nat) (f : Launch → Launch) : (s.modLaunch l f).mem = s.mem := rfl
@[simp] theorem State.modLaunch_poison (s : State) (l : Nat) (f : Launch → Launch) : (s.modLaunch l f).poison = s.poison := rfl
@[simp] theorem State.modLaunch_mended (s : State) (l : Nat) (f : Launch → Launch) : (s.modLaunch l f).mended = s.mended := rfl
@[simp] theorem State.modLaunch_stvec (s : State) (l : Nat) (f : Launch → Launch) : (s.modLaunch l f).stvec = s.stvec := rfl
@[simp] theorem State.modLaunch_hselVar (s : State) (l : Nat) (f : Launch → Launch) : (s.modLaunch l f).hselVar = s.hselVar := rfl
@[simp] theorem State.modLaunch_doms (s : State) (l : Nat) (f : Launch → Launch) : (s.modLaunch l f).doms = s.doms := rfl
@[simp] theorem State.modLaunch_hqota (s : State) (l : Nat) (f : Launch → Launch) : (s.modLaunch l f).hqota = s.hqota := rfl
@[simp] theorem State.modLaunch_quotaNow (s : State) (l : Nat) (f : Launch → Launch) : (s.modLaunch l f).quotaNow = s.quotaNow := rfl
@[simp] theorem State.modLaunch_window (s : State) (l : Nat) (f : Launch → Launch) : (s.modLaunch l f).window = s.window := rfl
@[simp] theorem State.modLaunch_drnl (s : State) (l : Nat) (f : Launch → Launch) : (s.modLaunch l f).drnl = s.drnl := rfl
@[simp] theorem State.modLaunch_lease (s : State) (l : Nat) (f : Launch → Launch) : (s.modLaunch l f).lease = s.lease := rfl
@[simp] theorem State.modLaunch_asids (s : State) (l : Nat) (f : Launch → Launch) : (s.modLaunch l f).asids = s.asids := rfl
@[simp] theorem State.modLaunch_owned (s : State) (l : Nat) (f : Launch → Launch) : (s.modLaunch l f).owned = s.owned := rfl
@[simp] theorem State.modLaunch_nextLid (s : State) (l : Nat) (f : Launch → Launch) : (s.modLaunch l f).nextLid = s.nextLid := rfl
@[simp] theorem State.modLaunch_jhead (s : State) (l : Nat) (f : Launch → Launch) : (s.modLaunch l f).jhead = s.jhead := rfl
@[simp] theorem State.modLaunch_jrel (s : State) (l : Nat) (f : Launch → Launch) : (s.modLaunch l f).jrel = s.jrel := rfl
@[simp] theorem State.modLaunch_queues (s : State) (l : Nat) (f : Launch → Launch) : (s.modLaunch l f).queues = s.queues := rfl
@[simp] theorem State.modLaunch_lastQueue (s : State) (l : Nat) (f : Launch → Launch) : (s.modLaunch l f).lastQueue = s.lastQueue := rfl
@[simp] theorem State.modLaunch_dstate (s : State) (l : Nat) (f : Launch → Launch) : (s.modLaunch l f).dstate = s.dstate := rfl
@[simp] theorem State.modLaunch_bootErr (s : State) (l : Nat) (f : Launch → Launch) : (s.modLaunch l f).bootErr = s.bootErr := rfl
@[simp] theorem State.modLaunch_mdieMask (s : State) (l : Nat) (f : Launch → Launch) : (s.modLaunch l f).mdieMask = s.mdieMask := rfl
@[simp] theorem State.modLaunch_fwImage (s : State) (l : Nat) (f : Launch → Launch) : (s.modLaunch l f).fwImage = s.fwImage := rfl
@[simp] theorem State.modLaunch_cluMask (s : State) (l : Nat) (f : Launch → Launch) : (s.modLaunch l f).cluMask = s.cluMask := rfl
@[simp] theorem State.modLaunch_jbase (s : State) (l : Nat) (f : Launch → Launch) : (s.modLaunch l f).jbase = s.jbase := rfl
@[simp] theorem State.modLaunch_windows (s : State) (l : Nat) (f : Launch → Launch) : (s.modLaunch l f).windows = s.windows := rfl
@[simp] theorem State.modLaunch_mbRun (s : State) (l : Nat) (f : Launch → Launch) : (s.modLaunch l f).mbRun = s.mbRun := rfl
@[simp] theorem State.modLaunch_mbLen (s : State) (l : Nat) (f : Launch → Launch) : (s.modLaunch l f).mbLen = s.mbLen := rfl
@[simp] theorem State.modLaunch_mbSts (s : State) (l : Nat) (f : Launch → Launch) : (s.modLaunch l f).mbSts = s.mbSts := rfl
@[simp] theorem State.modLaunch_mbResp (s : State) (l : Nat) (f : Launch → Launch) : (s.modLaunch l f).mbResp = s.mbResp := rfl
@[simp] theorem State.modLaunch_mbData (s : State) (l : Nat) (f : Launch → Launch) : (s.modLaunch l f).mbData = s.mbData := rfl
@[simp] theorem State.modLaunch_msixTable (s : State) (l : Nat) (f : Launch → Launch) : (s.modLaunch l f).msixTable = s.msixTable := rfl
@[simp] theorem State.modLaunch_msix (s : State) (l : Nat) (f : Launch → Launch) : (s.modLaunch l f).msix = s.msix := rfl
@[simp] theorem State.modLaunch_hostData (s : State) (l : Nat) (f : Launch → Launch) : (s.modLaunch l f).hostData = s.hostData := rfl
@[simp] theorem State.modLaunch_donqs (s : State) (l : Nat) (f : Launch → Launch) : (s.modLaunch l f).donqs = s.donqs := rfl
@[simp] theorem State.modLaunch_donOut (s : State) (l : Nat) (f : Launch → Launch) : (s.modLaunch l f).donOut = s.donOut := rfl
@[simp] theorem State.modLaunch_donIn (s : State) (l : Nat) (f : Launch → Launch) : (s.modLaunch l f).donIn = s.donIn := rfl
@[simp] theorem State.modLaunch_swaps (s : State) (l : Nat) (f : Launch → Launch) : (s.modLaunch l f).swaps = s.swaps := rfl
@[simp] theorem State.modLaunch_nextSwap (s : State) (l : Nat) (f : Launch → Launch) : (s.modLaunch l f).nextSwap = s.nextSwap := rfl
@[simp] theorem State.modLaunch_swapStatus (s : State) (l : Nat) (f : Launch → Launch) : (s.modLaunch l f).swapStatus = s.swapStatus := rfl
@[simp] theorem State.modLaunch_swapKept (s : State) (l : Nat) (f : Launch → Launch) : (s.modLaunch l f).swapKept = s.swapKept := rfl
@[simp] theorem State.modLaunch_notices (s : State) (l : Nat) (f : Launch → Launch) : (s.modLaunch l f).notices = s.notices := rfl
@[simp] theorem State.modLaunch_drives (s : State) (l : Nat) (f : Launch → Launch) : (s.modLaunch l f).drives = s.drives := rfl
@[simp] theorem State.modLaunch_peers (s : State) (l : Nat) (f : Launch → Launch) : (s.modLaunch l f).peers = s.peers := rfl
@[simp] theorem State.modLaunch_fencedClusters (s : State) (l : Nat) (f : Launch → Launch) : (s.modLaunch l f).fencedClusters = s.fencedClusters := rfl
@[simp] theorem State.modLaunch_fencedDies (s : State) (l : Nat) (f : Launch → Launch) : (s.modLaunch l f).fencedDies = s.fencedDies := rfl
@[simp] theorem State.modLaunch_fencedMdies (s : State) (l : Nat) (f : Launch → Launch) : (s.modLaunch l f).fencedMdies = s.fencedMdies := rfl
@[simp] theorem State.modLaunch_fencedLinks (s : State) (l : Nat) (f : Launch → Launch) : (s.modLaunch l f).fencedLinks = s.fencedLinks := rfl
@[simp] theorem State.modLaunch_fencedFlash (s : State) (l : Nat) (f : Launch → Launch) : (s.modLaunch l f).fencedFlash = s.fencedFlash := rfl
@[simp] theorem State.modLaunch_breakHalt (s : State) (l : Nat) (f : Launch → Launch) : (s.modLaunch l f).breakHalt = s.breakHalt := rfl
@[simp] theorem State.modLaunch_trips (s : State) (l : Nat) (f : Launch → Launch) : (s.modLaunch l f).trips = s.trips := rfl
@[simp] theorem State.modLaunch_bootImage (s : State) (l : Nat) (f : Launch → Launch) : (s.modLaunch l f).bootImage = s.bootImage := rfl
@[simp] theorem State.modLaunch_sideband (s : State) (l : Nat) (f : Launch → Launch) : (s.modLaunch l f).sideband = s.sideband := rfl

/-! ### Updates by a function -/

@[simp] theorem State.modSlot_eq (s : State) (t : Nat) (f : Slot → Slot) : s.modSlot t f = s.setSlot t (f (s.slotAt t)) := rfl
@[simp] theorem State.modCore_eq (s : State) (t : Nat) (f : Core → Core) : s.modCore t f = s.setCore t (f (s.coreAt t)) := rfl
@[simp] theorem State.modClu_eq (s : State) (t : Nat) (f : Cluster → Cluster) : s.modClu t f = s.setClu t (f (s.cluAt t)) := rfl
@[simp] theorem State.modMe_eq (s : State) (f : Slot → Slot) : s.modMe f = s.setSlot s.cur (f s.me) := rfl

/-! ### What an update makes of its own table -/

theorem State.slotAt_setSlot (s : State) (t u : Nat) (x : Slot) : (s.setSlot t x).slotAt u = if u = t then x else s.slotAt u :=
  FMap.getD_put _ t u x {}
@[simp] theorem State.slotAt_setSlot_same (s : State) (t : Nat) (x : Slot) : (s.setSlot t x).slotAt t = x := by simp [State.slotAt_setSlot]
theorem State.slotAt_setSlot_other (s : State) {t u : Nat} (x : Slot) (h : u ≠ t) : (s.setSlot t x).slotAt u = s.slotAt u := by
  simp [State.slotAt_setSlot, h]
theorem State.coreAt_setCore (s : State) (t u : Nat) (x : Core) : (s.setCore t x).coreAt u = if u = t then x else s.coreAt u :=
  FMap.getD_put _ t u x {}
@[simp] theorem State.coreAt_setCore_same (s : State) (t : Nat) (x : Core) : (s.setCore t x).coreAt t = x := by simp [State.coreAt_setCore]
theorem State.coreAt_setCore_other (s : State) {t u : Nat} (x : Core) (h : u ≠ t) : (s.setCore t x).coreAt u = s.coreAt u := by
  simp [State.coreAt_setCore, h]
theorem State.cluAt_setClu (s : State) (t u : Nat) (x : Cluster) : (s.setClu t x).cluAt u = if u = t then x else s.cluAt u :=
  FMap.getD_put _ t u x {}
@[simp] theorem State.cluAt_setClu_same (s : State) (t : Nat) (x : Cluster) : (s.setClu t x).cluAt t = x := by simp [State.cluAt_setClu]
theorem State.cluAt_setClu_other (s : State) {t u : Nat} (x : Cluster) (h : u ≠ t) : (s.setClu t x).cluAt u = s.cluAt u := by
  simp [State.cluAt_setClu, h]
theorem State.dieAt_modDie (s : State) (t u : Nat) (f : Die → Die) : (s.modDie t f).dieAt u = if u = t then f (s.dieAt t) else s.dieAt u :=
  FMap.getD_put s.dies t u (f (s.dieAt t)) {}
theorem State.homeAt_modHome (s : State) (t u : Nat) (f : Home → Home) : (s.modHome t f).homeAt u = if u = t then f (s.homeAt t) else s.homeAt u :=
  FMap.getD_put s.homes t u (f (s.homeAt t)) {}
theorem State.asidAt_modAsid (s : State) (t u : Nat) (f : Asid → Asid) : (s.modAsid t f).asidAt u = if u = t then f (s.asidAt t) else s.asidAt u :=
  FMap.getD_put s.asids t u (f (s.asidAt t)) {}
theorem State.queueAt_modQueue (s : State) (t u : Nat) (f : Queue → Queue) : (s.modQueue t f).queueAt u = if u = t then f (s.queueAt t) else s.queueAt u :=
  FMap.getD_put s.queues t u (f (s.queueAt t)) {}
theorem State.donqAt_modDonq (s : State) (t u : Nat) (f : DonQ → DonQ) : (s.modDonq t f).donqAt u = if u = t then f (s.donqAt t) else s.donqAt u :=
  FMap.getD_put s.donqs t u (f (s.donqAt t)) {}

/-! ### Tables that an update of another table leaves -/

@[simp] theorem State.coreAt_setSlot_frame (s : State) (t u : Nat) (x : Slot) : (s.setSlot t x).coreAt u = s.coreAt u := rfl
@[simp] theorem State.cluAt_setSlot_frame (s : State) (t u : Nat) (x : Slot) : (s.setSlot t x).cluAt u = s.cluAt u := rfl
@[simp] theorem State.dieAt_setSlot_frame (s : State) (t u : Nat) (x : Slot) : (s.setSlot t x).dieAt u = s.dieAt u := rfl
@[simp] theorem State.homeAt_setSlot_frame (s : State) (t u : Nat) (x : Slot) : (s.setSlot t x).homeAt u = s.homeAt u := rfl
@[simp] theorem State.asidAt_setSlot_frame (s : State) (t u : Nat) (x : Slot) : (s.setSlot t x).asidAt u = s.asidAt u := rfl
@[simp] theorem State.queueAt_setSlot_frame (s : State) (t u : Nat) (x : Slot) : (s.setSlot t x).queueAt u = s.queueAt u := rfl
@[simp] theorem State.donqAt_setSlot_frame (s : State) (t u : Nat) (x : Slot) : (s.setSlot t x).donqAt u = s.donqAt u := rfl
@[simp] theorem State.launchOf_setSlot_frame (s : State) (t u : Nat) (x : Slot) : (s.setSlot t x).launch? u = s.launch? u := rfl
@[simp] theorem State.slotAt_setCore_frame (s : State) (t u : Nat) (x : Core) : (s.setCore t x).slotAt u = s.slotAt u := rfl
@[simp] theorem State.cluAt_setCore_frame (s : State) (t u : Nat) (x : Core) : (s.setCore t x).cluAt u = s.cluAt u := rfl
@[simp] theorem State.dieAt_setCore_frame (s : State) (t u : Nat) (x : Core) : (s.setCore t x).dieAt u = s.dieAt u := rfl
@[simp] theorem State.homeAt_setCore_frame (s : State) (t u : Nat) (x : Core) : (s.setCore t x).homeAt u = s.homeAt u := rfl
@[simp] theorem State.asidAt_setCore_frame (s : State) (t u : Nat) (x : Core) : (s.setCore t x).asidAt u = s.asidAt u := rfl
@[simp] theorem State.queueAt_setCore_frame (s : State) (t u : Nat) (x : Core) : (s.setCore t x).queueAt u = s.queueAt u := rfl
@[simp] theorem State.donqAt_setCore_frame (s : State) (t u : Nat) (x : Core) : (s.setCore t x).donqAt u = s.donqAt u := rfl
@[simp] theorem State.launchOf_setCore_frame (s : State) (t u : Nat) (x : Core) : (s.setCore t x).launch? u = s.launch? u := rfl
@[simp] theorem State.slotAt_setClu_frame (s : State) (t u : Nat) (x : Cluster) : (s.setClu t x).slotAt u = s.slotAt u := rfl
@[simp] theorem State.coreAt_setClu_frame (s : State) (t u : Nat) (x : Cluster) : (s.setClu t x).coreAt u = s.coreAt u := rfl
@[simp] theorem State.dieAt_setClu_frame (s : State) (t u : Nat) (x : Cluster) : (s.setClu t x).dieAt u = s.dieAt u := rfl
@[simp] theorem State.homeAt_setClu_frame (s : State) (t u : Nat) (x : Cluster) : (s.setClu t x).homeAt u = s.homeAt u := rfl
@[simp] theorem State.asidAt_setClu_frame (s : State) (t u : Nat) (x : Cluster) : (s.setClu t x).asidAt u = s.asidAt u := rfl
@[simp] theorem State.queueAt_setClu_frame (s : State) (t u : Nat) (x : Cluster) : (s.setClu t x).queueAt u = s.queueAt u := rfl
@[simp] theorem State.donqAt_setClu_frame (s : State) (t u : Nat) (x : Cluster) : (s.setClu t x).donqAt u = s.donqAt u := rfl
@[simp] theorem State.launchOf_setClu_frame (s : State) (t u : Nat) (x : Cluster) : (s.setClu t x).launch? u = s.launch? u := rfl
@[simp] theorem State.me_setCore (s : State) (c : Nat) (x : Core) : (s.setCore c x).me = s.me := rfl
@[simp] theorem State.me_setClu (s : State) (c : Nat) (x : Cluster) : (s.setClu c x).me = s.me := rfl
@[simp] theorem State.me_setSlot (s : State) (x : Slot) : (s.setSlot s.cur x).me = x := State.slotAt_setSlot_same s s.cur x

/-! ### Registers of a slot -/

theorem Slot.reg_setReg (x : Slot) (r a : Nat) (v : Word) :
    (x.setReg r v).reg a = if a = r ∧ a ≠ 0 then v else x.reg a := by
  unfold Slot.setReg Slot.reg
  by_cases hr : r = 0
  · subst hr
    by_cases ha : a = 0 <;> simp [ha]
  · by_cases ha : a = 0
    · simp [ha]
    · simp [hr, ha, FMap.getD_put]

theorem Slot.mask_setMask (x : Slot) (r a : Nat) (v : BitVec 32) :
    (x.setMask r v).mask a = if a = r ∧ a ≠ 0 then v else x.mask a := by
  unfold Slot.setMask Slot.mask
  by_cases hr : r = 0
  · subst hr
    by_cases ha : a = 0 <;> simp [ha]
  · by_cases ha : a = 0
    · simp [ha]
    · simp [hr, ha, FMap.getD_put]

@[simp] theorem Slot.reg_zero (x : Slot) : x.reg 0 = 0 := rfl
@[simp] theorem Slot.mask_zero (x : Slot) : x.mask 0 = 0xFFFFFFFF := rfl

@[simp] theorem Slot.setReg_mode (x : Slot) (r : Nat) (v : Word) : (x.setReg r v).mode = x.mode := by
  unfold Slot.setReg; split <;> rfl
@[simp] theorem Slot.setReg_halted (x : Slot) (r : Nat) (v : Word) : (x.setReg r v).halted = x.halted := by
  unfold Slot.setReg; split <;> rfl
@[simp] theorem Slot.setReg_stepOne (x : Slot) (r : Nat) (v : Word) : (x.setReg r v).stepOne = x.stepOne := by
  unfold Slot.setReg; split <;> rfl
@[simp] theorem Slot.setReg_pc (x : Slot) (r : Nat) (v : Word) : (x.setReg r v).pc = x.pc := by
  unfold Slot.setReg; split <;> rfl
@[simp] theorem Slot.setReg_masks (x : Slot) (r : Nat) (v : Word) : (x.setReg r v).masks = x.masks := by
  unfold Slot.setReg; split <;> rfl
@[simp] theorem Slot.setReg_vcount (x : Slot) (r : Nat) (v : Word) : (x.setReg r v).vcount = x.vcount := by
  unfold Slot.setReg; split <;> rfl
@[simp] theorem Slot.setReg_vclass (x : Slot) (r : Nat) (v : Word) : (x.setReg r v).vclass = x.vclass := by
  unfold Slot.setReg; split <;> rfl
@[simp] theorem Slot.setReg_vregs (x : Slot) (r : Nat) (v : Word) : (x.setReg r v).vregs = x.vregs := by
  unfold Slot.setReg; split <;> rfl
@[simp] theorem Slot.setReg_tcount (x : Slot) (r : Nat) (v : Word) : (x.setReg r v).tcount = x.tcount := by
  unfold Slot.setReg; split <;> rfl
@[simp] theorem Slot.setReg_tmap (x : Slot) (r : Nat) (v : Word) : (x.setReg r v).tmap = x.tmap := by
  unfold Slot.setReg; split <;> rfl
@[simp] theorem Slot.setReg_prc (x : Slot) (r : Nat) (v : Word) : (x.setReg r v).prc = x.prc := by
  unfold Slot.setReg; split <;> rfl
@[simp] theorem Slot.setReg_flg (x : Slot) (r : Nat) (v : Word) : (x.setReg r v).flg = x.flg := by
  unfold Slot.setReg; split <;> rfl
@[simp] theorem Slot.setReg_frp (x : Slot) (r : Nat) (v : Word) : (x.setReg r v).frp = x.frp := by
  unfold Slot.setReg; split <;> rfl
@[simp] theorem Slot.setReg_lid (x : Slot) (r : Nat) (v : Word) : (x.setReg r v).lid = x.lid := by
  unfold Slot.setReg; split <;> rfl
@[simp] theorem Slot.setReg_asid (x : Slot) (r : Nat) (v : Word) : (x.setReg r v).asid = x.asid := by
  unfold Slot.setReg; split <;> rfl
@[simp] theorem Slot.setReg_dln (x : Slot) (r : Nat) (v : Word) : (x.setReg r v).dln = x.dln := by
  unfold Slot.setReg; split <;> rfl
@[simp] theorem Slot.setReg_tau (x : Slot) (r : Nat) (v : Word) : (x.setReg r v).tau = x.tau := by
  unfold Slot.setReg; split <;> rfl
@[simp] theorem Slot.setReg_rgv (x : Slot) (r : Nat) (v : Word) : (x.setReg r v).rgv = x.rgv := by
  unfold Slot.setReg; split <;> rfl
@[simp] theorem Slot.setReg_slv (x : Slot) (r : Nat) (v : Word) : (x.setReg r v).slv = x.slv := by
  unfold Slot.setReg; split <;> rfl
@[simp] theorem Slot.setReg_rage (x : Slot) (r : Nat) (v : Word) : (x.setReg r v).rage = x.rage := by
  unfold Slot.setReg; split <;> rfl
@[simp] theorem Slot.setReg_tvec (x : Slot) (r : Nat) (v : Word) : (x.setReg r v).tvec = x.tvec := by
  unfold Slot.setReg; split <;> rfl
@[simp] theorem Slot.setReg_tpc (x : Slot) (r : Nat) (v : Word) : (x.setReg r v).tpc = x.tpc := by
  unfold Slot.setReg; split <;> rfl
@[simp] theorem Slot.setReg_tcau (x : Slot) (r : Nat) (v : Word) : (x.setReg r v).tcau = x.tcau := by
  unfold Slot.setReg; split <;> rfl
@[simp] theorem Slot.setReg_tval (x : Slot) (r : Nat) (v : Word) : (x.setReg r v).tval = x.tval := by
  unfold Slot.setReg; split <;> rfl
@[simp] theorem Slot.setReg_udef (x : Slot) (r : Nat) (v : Word) : (x.setReg r v).udef = x.udef := by
  unfold Slot.setReg; split <;> rfl
@[simp] theorem Slot.setReg_sepc (x : Slot) (r : Nat) (v : Word) : (x.setReg r v).sepc = x.sepc := by
  unfold Slot.setReg; split <;> rfl
@[simp] theorem Slot.setReg_scau (x : Slot) (r : Nat) (v : Word) : (x.setReg r v).scau = x.scau := by
  unfold Slot.setReg; split <;> rfl
@[simp] theorem Slot.setReg_sval (x : Slot) (r : Nat) (v : Word) : (x.setReg r v).sval = x.sval := by
  unfold Slot.setReg; split <;> rfl
@[simp] theorem Slot.setReg_sdef (x : Slot) (r : Nat) (v : Word) : (x.setReg r v).sdef = x.sdef := by
  unfold Slot.setReg; split <;> rfl
@[simp] theorem Slot.setReg_sup (x : Slot) (r : Nat) (v : Word) : (x.setReg r v).sup = x.sup := by
  unfold Slot.setReg; split <;> rfl
@[simp] theorem Slot.setReg_uh (x : Slot) (r : Nat) (v : Word) : (x.setReg r v).uh = x.uh := by
  unfold Slot.setReg; split <;> rfl
@[simp] theorem Slot.setReg_sh (x : Slot) (r : Nat) (v : Word) : (x.setReg r v).sh = x.sh := by
  unfold Slot.setReg; split <;> rfl
@[simp] theorem Slot.setReg_pend (x : Slot) (r : Nat) (v : Word) : (x.setReg r v).pend = x.pend := by
  unfold Slot.setReg; split <;> rfl
@[simp] theorem Slot.setReg_later (x : Slot) (r : Nat) (v : Word) : (x.setReg r v).later = x.later := by
  unfold Slot.setReg; split <;> rfl
@[simp] theorem Slot.setReg_binds (x : Slot) (r : Nat) (v : Word) : (x.setReg r v).binds = x.binds := by
  unfold Slot.setReg; split <;> rfl
@[simp] theorem Slot.setReg_deque (x : Slot) (r : Nat) (v : Word) : (x.setReg r v).deque = x.deque := by
  unfold Slot.setReg; split <;> rfl
@[simp] theorem Slot.setReg_fetchBuf (x : Slot) (r : Nat) (v : Word) : (x.setReg r v).fetchBuf = x.fetchBuf := by
  unfold Slot.setReg; split <;> rfl
@[simp] theorem Slot.setReg_fetchMiss (x : Slot) (r : Nat) (v : Word) : (x.setReg r v).fetchMiss = x.fetchMiss := by
  unfold Slot.setReg; split <;> rfl
@[simp] theorem Slot.setReg_latch (x : Slot) (r : Nat) (v : Word) : (x.setReg r v).latch = x.latch := by
  unfold Slot.setReg; split <;> rfl
@[simp] theorem Slot.setReg_restAt (x : Slot) (r : Nat) (v : Word) : (x.setReg r v).restAt = x.restAt := by
  unfold Slot.setReg; split <;> rfl
@[simp] theorem Slot.setReg_notice (x : Slot) (r : Nat) (v : Word) : (x.setReg r v).notice = x.notice := by
  unfold Slot.setReg; split <;> rfl
@[simp] theorem Slot.setReg_copyId (x : Slot) (r : Nat) (v : Word) : (x.setReg r v).copyId = x.copyId := by
  unfold Slot.setReg; split <;> rfl
@[simp] theorem Slot.setReg_accFault (x : Slot) (r : Nat) (v : Word) : (x.setReg r v).accFault = x.accFault := by
  unfold Slot.setReg; split <;> rfl
@[simp] theorem Slot.setReg_kept (x : Slot) (r : Nat) (v : Word) : (x.setReg r v).kept = x.kept := by
  unfold Slot.setReg; split <;> rfl
@[simp] theorem Slot.setReg_taken (x : Slot) (r : Nat) (v : Word) : (x.setReg r v).taken = x.taken := by
  unfold Slot.setReg; split <;> rfl
@[simp] theorem Slot.setReg_drains (x : Slot) (r : Nat) (v : Word) : (x.setReg r v).drains = x.drains := by
  unfold Slot.setReg; split <;> rfl
@[simp] theorem Slot.setReg_issuedAt (x : Slot) (r : Nat) (v : Word) : (x.setReg r v).issuedAt = x.issuedAt := by
  unfold Slot.setReg; split <;> rfl
@[simp] theorem Slot.setMask_mode (x : Slot) (r : Nat) (v : BitVec 32) : (x.setMask r v).mode = x.mode := by
  unfold Slot.setMask; split <;> rfl
@[simp] theorem Slot.setMask_halted (x : Slot) (r : Nat) (v : BitVec 32) : (x.setMask r v).halted = x.halted := by
  unfold Slot.setMask; split <;> rfl
@[simp] theorem Slot.setMask_stepOne (x : Slot) (r : Nat) (v : BitVec 32) : (x.setMask r v).stepOne = x.stepOne := by
  unfold Slot.setMask; split <;> rfl
@[simp] theorem Slot.setMask_pc (x : Slot) (r : Nat) (v : BitVec 32) : (x.setMask r v).pc = x.pc := by
  unfold Slot.setMask; split <;> rfl
@[simp] theorem Slot.setMask_regs (x : Slot) (r : Nat) (v : BitVec 32) : (x.setMask r v).regs = x.regs := by
  unfold Slot.setMask; split <;> rfl
@[simp] theorem Slot.setMask_vcount (x : Slot) (r : Nat) (v : BitVec 32) : (x.setMask r v).vcount = x.vcount := by
  unfold Slot.setMask; split <;> rfl
@[simp] theorem Slot.setMask_vclass (x : Slot) (r : Nat) (v : BitVec 32) : (x.setMask r v).vclass = x.vclass := by
  unfold Slot.setMask; split <;> rfl
@[simp] theorem Slot.setMask_vregs (x : Slot) (r : Nat) (v : BitVec 32) : (x.setMask r v).vregs = x.vregs := by
  unfold Slot.setMask; split <;> rfl
@[simp] theorem Slot.setMask_tcount (x : Slot) (r : Nat) (v : BitVec 32) : (x.setMask r v).tcount = x.tcount := by
  unfold Slot.setMask; split <;> rfl
@[simp] theorem Slot.setMask_tmap (x : Slot) (r : Nat) (v : BitVec 32) : (x.setMask r v).tmap = x.tmap := by
  unfold Slot.setMask; split <;> rfl
@[simp] theorem Slot.setMask_prc (x : Slot) (r : Nat) (v : BitVec 32) : (x.setMask r v).prc = x.prc := by
  unfold Slot.setMask; split <;> rfl
@[simp] theorem Slot.setMask_flg (x : Slot) (r : Nat) (v : BitVec 32) : (x.setMask r v).flg = x.flg := by
  unfold Slot.setMask; split <;> rfl
@[simp] theorem Slot.setMask_frp (x : Slot) (r : Nat) (v : BitVec 32) : (x.setMask r v).frp = x.frp := by
  unfold Slot.setMask; split <;> rfl
@[simp] theorem Slot.setMask_lid (x : Slot) (r : Nat) (v : BitVec 32) : (x.setMask r v).lid = x.lid := by
  unfold Slot.setMask; split <;> rfl
@[simp] theorem Slot.setMask_asid (x : Slot) (r : Nat) (v : BitVec 32) : (x.setMask r v).asid = x.asid := by
  unfold Slot.setMask; split <;> rfl
@[simp] theorem Slot.setMask_dln (x : Slot) (r : Nat) (v : BitVec 32) : (x.setMask r v).dln = x.dln := by
  unfold Slot.setMask; split <;> rfl
@[simp] theorem Slot.setMask_tau (x : Slot) (r : Nat) (v : BitVec 32) : (x.setMask r v).tau = x.tau := by
  unfold Slot.setMask; split <;> rfl
@[simp] theorem Slot.setMask_rgv (x : Slot) (r : Nat) (v : BitVec 32) : (x.setMask r v).rgv = x.rgv := by
  unfold Slot.setMask; split <;> rfl
@[simp] theorem Slot.setMask_slv (x : Slot) (r : Nat) (v : BitVec 32) : (x.setMask r v).slv = x.slv := by
  unfold Slot.setMask; split <;> rfl
@[simp] theorem Slot.setMask_rage (x : Slot) (r : Nat) (v : BitVec 32) : (x.setMask r v).rage = x.rage := by
  unfold Slot.setMask; split <;> rfl
@[simp] theorem Slot.setMask_tvec (x : Slot) (r : Nat) (v : BitVec 32) : (x.setMask r v).tvec = x.tvec := by
  unfold Slot.setMask; split <;> rfl
@[simp] theorem Slot.setMask_tpc (x : Slot) (r : Nat) (v : BitVec 32) : (x.setMask r v).tpc = x.tpc := by
  unfold Slot.setMask; split <;> rfl
@[simp] theorem Slot.setMask_tcau (x : Slot) (r : Nat) (v : BitVec 32) : (x.setMask r v).tcau = x.tcau := by
  unfold Slot.setMask; split <;> rfl
@[simp] theorem Slot.setMask_tval (x : Slot) (r : Nat) (v : BitVec 32) : (x.setMask r v).tval = x.tval := by
  unfold Slot.setMask; split <;> rfl
@[simp] theorem Slot.setMask_udef (x : Slot) (r : Nat) (v : BitVec 32) : (x.setMask r v).udef = x.udef := by
  unfold Slot.setMask; split <;> rfl
@[simp] theorem Slot.setMask_sepc (x : Slot) (r : Nat) (v : BitVec 32) : (x.setMask r v).sepc = x.sepc := by
  unfold Slot.setMask; split <;> rfl
@[simp] theorem Slot.setMask_scau (x : Slot) (r : Nat) (v : BitVec 32) : (x.setMask r v).scau = x.scau := by
  unfold Slot.setMask; split <;> rfl
@[simp] theorem Slot.setMask_sval (x : Slot) (r : Nat) (v : BitVec 32) : (x.setMask r v).sval = x.sval := by
  unfold Slot.setMask; split <;> rfl
@[simp] theorem Slot.setMask_sdef (x : Slot) (r : Nat) (v : BitVec 32) : (x.setMask r v).sdef = x.sdef := by
  unfold Slot.setMask; split <;> rfl
@[simp] theorem Slot.setMask_sup (x : Slot) (r : Nat) (v : BitVec 32) : (x.setMask r v).sup = x.sup := by
  unfold Slot.setMask; split <;> rfl
@[simp] theorem Slot.setMask_uh (x : Slot) (r : Nat) (v : BitVec 32) : (x.setMask r v).uh = x.uh := by
  unfold Slot.setMask; split <;> rfl
@[simp] theorem Slot.setMask_sh (x : Slot) (r : Nat) (v : BitVec 32) : (x.setMask r v).sh = x.sh := by
  unfold Slot.setMask; split <;> rfl
@[simp] theorem Slot.setMask_pend (x : Slot) (r : Nat) (v : BitVec 32) : (x.setMask r v).pend = x.pend := by
  unfold Slot.setMask; split <;> rfl
@[simp] theorem Slot.setMask_later (x : Slot) (r : Nat) (v : BitVec 32) : (x.setMask r v).later = x.later := by
  unfold Slot.setMask; split <;> rfl
@[simp] theorem Slot.setMask_binds (x : Slot) (r : Nat) (v : BitVec 32) : (x.setMask r v).binds = x.binds := by
  unfold Slot.setMask; split <;> rfl
@[simp] theorem Slot.setMask_deque (x : Slot) (r : Nat) (v : BitVec 32) : (x.setMask r v).deque = x.deque := by
  unfold Slot.setMask; split <;> rfl
@[simp] theorem Slot.setMask_fetchBuf (x : Slot) (r : Nat) (v : BitVec 32) : (x.setMask r v).fetchBuf = x.fetchBuf := by
  unfold Slot.setMask; split <;> rfl
@[simp] theorem Slot.setMask_fetchMiss (x : Slot) (r : Nat) (v : BitVec 32) : (x.setMask r v).fetchMiss = x.fetchMiss := by
  unfold Slot.setMask; split <;> rfl
@[simp] theorem Slot.setMask_latch (x : Slot) (r : Nat) (v : BitVec 32) : (x.setMask r v).latch = x.latch := by
  unfold Slot.setMask; split <;> rfl
@[simp] theorem Slot.setMask_restAt (x : Slot) (r : Nat) (v : BitVec 32) : (x.setMask r v).restAt = x.restAt := by
  unfold Slot.setMask; split <;> rfl
@[simp] theorem Slot.setMask_notice (x : Slot) (r : Nat) (v : BitVec 32) : (x.setMask r v).notice = x.notice := by
  unfold Slot.setMask; split <;> rfl
@[simp] theorem Slot.setMask_copyId (x : Slot) (r : Nat) (v : BitVec 32) : (x.setMask r v).copyId = x.copyId := by
  unfold Slot.setMask; split <;> rfl
@[simp] theorem Slot.setMask_accFault (x : Slot) (r : Nat) (v : BitVec 32) : (x.setMask r v).accFault = x.accFault := by
  unfold Slot.setMask; split <;> rfl
@[simp] theorem Slot.setMask_kept (x : Slot) (r : Nat) (v : BitVec 32) : (x.setMask r v).kept = x.kept := by
  unfold Slot.setMask; split <;> rfl
@[simp] theorem Slot.setMask_taken (x : Slot) (r : Nat) (v : BitVec 32) : (x.setMask r v).taken = x.taken := by
  unfold Slot.setMask; split <;> rfl
@[simp] theorem Slot.setMask_drains (x : Slot) (r : Nat) (v : BitVec 32) : (x.setMask r v).drains = x.drains := by
  unfold Slot.setMask; split <;> rfl
@[simp] theorem Slot.setMask_issuedAt (x : Slot) (r : Nat) (v : BitVec 32) : (x.setMask r v).issuedAt = x.issuedAt := by
  unfold Slot.setMask; split <;> rfl

end Sys2Proof.Machine
end

