-- ==== Sys2Proof/Laws/Ops.lean ====
section
/-!
SUPPORT. What the shared operations of the machine do: register writes, moves of the pc, pending results, wide
completions, traps and returns. One lemma for each says everything that the operation can do.
-/
namespace Sys2Proof.Machine

/-! ### Frames -/

theorem State.setSlot_setSlot (s : State) (t : Nat) (x y : Slot) : (s.setSlot t x).setSlot t y = s.setSlot t y := by
  have h : ∀ m : FMap Slot, FMap.put (FMap.put m t x) t y = FMap.put m t y := by
    intro m
    induction m with
    | nil => simp [FMap.put]
    | cons c m ih =>
      obtain ⟨j, w⟩ := c
      simp only [FMap.put]
      split
      · simp [FMap.put]
      · split
        · simp [FMap.put]
        · rename_i h1 h2
          simp [FMap.put, h1, h2, ih]
  simp [State.setSlot, h]

theorem onlySlot_setSlot (s : State) (t : Nat) (x : Slot) : onlySlot t s (s.setSlot t x) :=
  ⟨fun _ h => State.slotAt_setSlot_other s x h, rfl⟩

theorem onlySlot_refl (s : State) (t : Nat) : onlySlot t s s := ⟨fun _ _ => rfl, rfl⟩

theorem onlySlot_trans {s s1 s2 : State} {t : Nat} (h : onlySlot t s s1) (h1 : onlySlot t s1 s2) : onlySlot t s s2 := by
  refine ⟨fun u hu => (h1.1 u hu).trans (h.1 u hu), ?_⟩
  rw [← h.2, ← h1.2]

theorem bytesKept_refl (s : State) : bytesKept s s := ⟨fun _ => rfl, fun _ _ => rfl, fun _ _ => rfl, fun _ _ => rfl⟩

theorem bytesKept_trans {s s1 s2 : State} (h : bytesKept s s1) (h1 : bytesKept s1 s2) : bytesKept s s2 :=
  ⟨fun a => (h1.1 a).trans (h.1 a), fun k a => (h1.2.1 k a).trans (h.2.1 k a),
    fun d a => (h1.2.2.1 d a).trans (h.2.2.1 d a), fun d a => (h1.2.2.2 d a).trans (h.2.2.2 d a)⟩

/-- A state that differs in slots only keeps every byte. -/
theorem bytesKept_of_onlySlot {s s' : State} {t : Nat} (h : onlySlot t s s') : bytesKept s s' := by
  have e := h.2
  refine ⟨fun a => ?_, fun k a => ?_, fun d a => ?_, fun d a => ?_⟩
  · rw [← e]
  · rw [← e]; rfl
  · rw [← e]
  · rw [← e]

/-! ### Register writes and the pc -/

theorem State.me_modMe (s : State) (f : Slot → Slot) : (s.modMe f).me = f s.me :=
  State.slotAt_setSlot_same s s.cur (f s.me)

theorem State.modMe_modMe (s : State) (f g : Slot → Slot) : (s.modMe f).modMe g = s.modMe fun x => g (f x) := by
  show (s.setSlot s.cur (f s.me)).setSlot s.cur (g ((s.setSlot s.cur (f s.me)).slotAt s.cur)) = _
  rw [State.setSlot_setSlot, State.slotAt_setSlot_same]
  rfl

theorem onlySlot_modMe (s : State) (f : Slot → Slot) : onlySlot s.cur s (s.modMe f) := onlySlot_setSlot s s.cur (f s.me)

theorem bytesKept_modMe (s : State) (f : Slot → Slot) : bytesKept s (s.modMe f) := bytesKept_of_onlySlot (onlySlot_modMe s f)

theorem Slot.setReg_parts (x : Slot) (r : Nat) (v : Word) : { x.setReg r v with regs := x.regs } = x := by
  unfold Slot.setReg; split <;> rfl

/-- A register write and a move of the pc. -/
theorem linkedTo_setReg_jump (s : State) (d : BitVec 5) (v pc : Word) :
    linkedTo s ((s.setReg d v).jump pc) d.toNat v pc := by
  have e : (s.setReg d v).jump pc = s.modMe fun x => { x.setReg d.toNat v with pc := pc } :=
    State.modMe_modMe s (fun x => x.setReg d.toNat v) fun x => { x with pc := pc }
  rw [e]
  refine ⟨fun r => ?_, ?_, ?_, onlySlot_modMe _ _, bytesKept_modMe _ _⟩
  · rw [State.me_modMe]; exact Slot.reg_setReg s.me d.toNat r v
  · rw [State.me_modMe]
  · rw [State.me_modMe]
    unfold Slot.setReg; split <;> rfl

theorem wroteReg_setReg_advance (s : State) (d : BitVec 5) (v : Word) (n : Nat) :
    wroteReg s ((s.setReg d v).advance n) d.toNat v n := by
  have e : (s.setReg d v).advance n = s.modMe fun x => { x.setReg d.toNat v with pc := x.pc + BitVec.ofNat 64 n } := by
    rw [State.advance, State.setReg, State.modMe_modMe]
    simp
  rw [e]
  refine ⟨fun r => ?_, ?_, ?_, onlySlot_modMe _ _, bytesKept_modMe _ _⟩
  · rw [State.me_modMe]; exact Slot.reg_setReg s.me d.toNat r v
  · rw [State.me_modMe]
  · rw [State.me_modMe]
    unfold Slot.setReg; split <;> rfl

theorem wroteReg_put (s : State) (d : BitVec 5) (v : Word) : wroteReg s (s.put d v) d.toNat v 4 :=
  wroteReg_setReg_advance s d v 4

theorem wentTo_jump (s : State) (pc : Word) : wentTo s (s.jump pc) pc :=
  ⟨by rw [State.jump, State.me_modMe], by rw [State.jump, State.me_modMe], onlySlot_modMe _ _, bytesKept_modMe _ _⟩

theorem wentTo_advance (s : State) (n : Nat) : wentTo s (s.advance n) (s.me.pc + BitVec.ofNat 64 n) :=
  ⟨by rw [State.advance, State.me_modMe], by rw [State.advance, State.me_modMe], onlySlot_modMe _ _, bytesKept_modMe _ _⟩

/-- A long-latency instruction leaves its record and goes on (R192). -/
theorem leftPending_pushPend (s : State) (i : Instr) (la : BitVec 4) (d : BitVec 5) (va : Word) (out : PendOut) :
    leftPending s ((s.pushPend i la.toNat d.toNat va out).advance 4) (newPend s i la d va out) := by
  have e := State.modMe_modMe s
    (fun x => { x with pend := x.pend ++ [{ left := la.toNat, dest := d.toNat, iaddr := x.pc, iword := instrBits i, va := va,
                                            out := out, arrived := false, fresh := true }] })
    fun x => { x with pc := x.pc + BitVec.ofNat 64 4 }
  have e' : (s.pushPend i la.toNat d.toNat va out).advance 4 = s.modMe _ := e
  rw [e']
  exact ⟨by rw [State.me_modMe]; rfl, by rw [State.me_modMe]; rfl, by rw [State.me_modMe], onlySlot_modMe _ _,
    bytesKept_modMe _ _⟩

/-! ### Wide instructions that complete (R195) -/

/-- What the completion of entries of wide queues leaves: vector registers and FLG of slots, and the wide queues of cores,
may change; nothing else does. -/
structure WideDone (s s' : State) : Prop where
  slot : ∀ u, { s'.slotAt u with vregs := (s.slotAt u).vregs, flg := (s.slotAt u).flg } = s.slotAt u
  rest : { s' with slots := s.slots, cores := s.cores } = s
  core : ∀ c, { s'.coreAt c with wideq := (s.coreAt c).wideq } = s.coreAt c

theorem WideDone.refl (s : State) : WideDone s s := ⟨fun _ => rfl, rfl, fun _ => rfl⟩

theorem WideDone.trans {s s1 s2 : State} (h : WideDone s s1) (h1 : WideDone s1 s2) : WideDone s s2 where
  slot u := by rw [← h.slot u, ← h1.slot u]
  rest := by rw [← h.rest, ← h1.rest]
  core c := by rw [← h.core c, ← h1.core c]

theorem State.completeWide_done (s : State) (e : WideEntry) : WideDone s (s.completeWide e) where
  slot u := by
    unfold State.completeWide State.modSlot
    by_cases h : u = e.tid
    · rw [h, State.slotAt_setSlot_same]
    · rw [State.slotAt_setSlot_other s _ h]
  rest := rfl
  core _ := rfl

theorem State.stepWide_done (s : State) (core : Nat) : WideDone s (s.stepWide core) := by
  unfold State.stepWide
  split
  · exact WideDone.refl s
  · refine WideDone.trans ?_ (State.completeWide_done _ _)
    refine ⟨fun _ => rfl, rfl, fun c => ?_⟩
    simp only [State.modCore, State.coreAt_setCore]; split
    · next h => subst h; rfl
    · rfl

/-- What each round of a repeated step leaves, all rounds leave. -/
theorem iter_done {f : State → State} (h : ∀ s, WideDone s (f s)) (n : Nat) (s : State) : WideDone s (iter f n s) := by
  induction n generalizing s with
  | zero => exact WideDone.refl s
  | succ n ih => exact (h s).trans (ih _)

theorem State.stepWides_done (s : State) (core : Nat) (p : WideEntry → Bool) : WideDone s (s.stepWides core p) :=
  iter_done (fun s => s.stepWide_done core) _ s
theorem State.drainWide_done (s : State) (t : Nat) : WideDone s (s.drainWide t) := s.stepWides_done _ _
theorem State.drainCore_done (s : State) (core : Nat) : WideDone s (s.drainCore core) := s.stepWides_done _ _

/-- With no entry that a test selects, nothing completes. -/
theorem State.stepWides_none {s : State} {core : Nat} {p : WideEntry → Bool} (h : ∀ e ∈ (s.coreAt core).wideq, p e = false) :
    s.stepWides core p = s := by
  have e : wideUpTo (s.coreAt core).wideq p = 0 := by
    unfold wideUpTo
    have hd : ∀ l : List WideEntry, (∀ e ∈ l, p e = false) → l.dropWhile (fun e => !p e) = [] := by
      intro l
      induction l with
      | nil => exact fun _ => rfl
      | cons e l ih => intro hl; simp [List.dropWhile, hl e (by simp), ih fun x hx => hl x (by simp [hx])]
    rw [hd _ fun e he => h e (List.mem_reverse.1 he)]; rfl
  unfold State.stepWides
  rw [e]; rfl

theorem WideDone.cur {s s' : State} (h : WideDone s s') : s'.cur = s.cur := by
  have h := congrArg State.cur h.rest
  exact h

theorem WideDone.bytes {s s' : State} (h : WideDone s s') : bytesKept s s' := by
  have e := h.rest
  refine ⟨fun a => ?_, fun k a => ?_, fun d a => ?_, fun d a => ?_⟩
  · rw [← e]
  · rw [← e]; rfl
  · rw [← e]
  · rw [← e]

theorem WideDone.me {s s' : State} (h : WideDone s s') : { s'.me with vregs := s.me.vregs, flg := s.me.flg } = s.me := by
  rw [State.me, h.cur]
  exact h.slot s.cur

theorem WideDone.sup {s s' : State} (h : WideDone s s') : s'.me.sup = s.me.sup := by
  have h := congrArg Slot.sup h.me
  exact h
theorem WideDone.pc {s s' : State} (h : WideDone s s') : s'.me.pc = s.me.pc := by
  have h := congrArg Slot.pc h.me
  exact h
theorem WideDone.regs {s s' : State} (h : WideDone s s') : s'.me.regs = s.me.regs := by
  have h := congrArg Slot.regs h.me
  exact h
theorem WideDone.masks {s s' : State} (h : WideDone s s') : s'.me.masks = s.me.masks := by
  have h := congrArg Slot.masks h.me
  exact h
theorem WideDone.vcount {s s' : State} (h : WideDone s s') : s'.me.vcount = s.me.vcount := by
  have h := congrArg Slot.vcount h.me
  exact h
theorem WideDone.vclass {s s' : State} (h : WideDone s s') : s'.me.vclass = s.me.vclass := by
  have h := congrArg Slot.vclass h.me
  exact h
theorem WideDone.prc {s s' : State} (h : WideDone s s') : s'.me.prc = s.me.prc := by
  have h := congrArg Slot.prc h.me
  exact h
theorem WideDone.binds {s s' : State} (h : WideDone s s') : s'.me.binds = s.me.binds := by
  have h := congrArg Slot.binds h.me
  exact h
theorem WideDone.tcount {s s' : State} (h : WideDone s s') : s'.me.tcount = s.me.tcount := by
  have h := congrArg Slot.tcount h.me
  exact h
theorem WideDone.tmap {s s' : State} (h : WideDone s s') : s'.me.tmap = s.me.tmap := by
  have h := congrArg Slot.tmap h.me
  exact h
theorem WideDone.mode {s s' : State} (h : WideDone s s') : s'.me.mode = s.me.mode := by
  have h := congrArg Slot.mode h.me
  exact h
theorem WideDone.pend {s s' : State} (h : WideDone s s') : s'.me.pend = s.me.pend := by
  have h := congrArg Slot.pend h.me
  exact h

/-! ### Vector instructions on unbound registers (R218, R223) -/

theorem State.boundStream_none {s : State} (h : s.me.binds = []) (r : Nat) : s.boundStream s.cur r = none := by
  unfold State.boundStream
  rw [show (s.slotAt s.cur).binds = [] from h]; rfl

theorem State.wrongWay_unbound {s : State} (h : s.me.binds = []) (rs ws : List Nat) : s.wrongWay s.cur rs ws = [] := by
  simp [State.wrongWay, State.boundStream_none h]

/-- Operands inside the window pass the checks. -/
theorem State.winCheck_ok {s : State} {ints : Bool} {rs ws : List Nat} (h : windowHolds s.me ints (ws ++ rs)) :
    s.winCheck ints rs ws = .ok () s := by
  obtain ⟨hb, hc, hr, hi⟩ := h
  have ho : s.me.outside (ws ++ rs) = [] := by
    unfold Slot.outside
    rw [List.filter_eq_nil_iff]
    intro r h
    have := hr r h
    simp; omega
  have h3 : (ints && decide (s.me.vclass < 4)) = false := by
    cases ints
    · rfl
    · have := hi rfl
      simp; omega
  unfold State.winCheck
  simp only [ho, State.wrongWay_unbound hb, hc, h3, List.isEmpty_nil, Bool.not_true, Bool.false_eq_true, if_false]

theorem Run.mapList_unit {α : Type} (f : α → State → Run Unit) (s : State) (l : List α) (h : ∀ a ∈ l, f a s = .ok () s) :
    ∃ us, Run.mapList f l s = .ok us s := by
  induction l with
  | nil => exact ⟨[], rfl⟩
  | cons a l ih =>
    obtain ⟨us, hu⟩ := ih fun b hb => h b (by simp [hb])
    refine ⟨() :: us, ?_⟩
    simp only [Run.mapList, h a (by simp), hu, Run.bind]

theorem State.readyAll_unbound {s : State} (h : s.me.binds = []) (rs ws : List Nat) : s.readyAll rs ws = .ok () s := by
  obtain ⟨us, hu⟩ := Run.mapList_unit (fun r s => s.readyRead r) s rs.eraseDups fun r _ => by
    simp [State.readyRead, State.boundStream_none h]
  obtain ⟨vs, hv⟩ := Run.mapList_unit (fun r s => s.readyWrite r) s ws.eraseDups fun r _ => by
    simp [State.readyWrite, State.writeRoom, State.boundStream_none h]
  simp only [State.readyAll, hu, hv, Run.bind]

theorem State.heads_unbound {s : State} (h : s.me.binds = []) (rs : List Nat) (lanes : Nat → BitVec 32) :
    s.heads rs lanes = (0, 0) := by
  have e : ∀ (l : List Nat) (a : Flags × Nat), l.foldl (fun a _ => a) a = a := fun l a => by
    induction l with
    | nil => rfl
    | cons r l ih => exact ih
  simp only [State.heads, State.boundStream_none h]
  exact e _ _

theorem State.popAll_unbound {s : State} (h : s.me.binds = []) (rs : List Nat) : s.popAll rs = s := by
  unfold State.popAll
  induction rs.eraseDups with
  | nil => rfl
  | cons r l ih => simp only [List.foldl_cons, State.boundStream_none h, ih]

/-- With no operand bound and exact mode content, a body delivers what its function gives. -/
theorem State.wideBody_ok {s s3 : State} {size : Nat} {rs : List Nat} {f : State → Run VOut} {o : VOut}
    (hb : s.me.binds = []) (hf : f s = .ok o s3) (hx : s.me.exact = true → o.exact = true → o.fl &&& flNX = 0) :
    s.wideBody size rs f = .ok () ((s3.deliver rs o).advance size) := by
  have e : (s.me.exact && o.exact && (o.fl &&& flNX) != 0) = false := by
    cases h1 : s.me.exact
    · rfl
    · cases h2 : o.exact
      · rfl
      · simp [hx h1 h2]
  have e0 : ((0 : Flags) &&& flNX != 0) = false := by decide
  have e1 : ({ o with fl := o.fl ||| (0 : Flags) } : VOut) = o := by simp
  unfold State.wideBody
  simp only [hf, State.heads_unbound hb, e, e0, e1, Bool.and_false, Bool.false_eq_true, if_false]

/-- A vector instruction that passes its checks delivers what its function gives. -/
theorem State.wideRun_ok {s s3 : State} {size : Nat} {ints : Bool} {rs ws : List Nat} {f : State → Run VOut} {o : VOut}
    (h : windowHolds s.me ints (ws ++ rs)) (hf : f (s.drainCore s.myCore) = .ok o s3)
    (hx : (s.drainCore s.myCore).me.exact = true → o.exact = true → o.fl &&& flNX = 0) :
    s.wideRun size ints rs ws f = .ok () ((s3.deliver rs o).advance size) := by
  have hb : (s.drainCore s.myCore).me.binds = [] := by rw [(s.drainCore_done s.myCore).binds]; exact h.1
  unfold State.wideRun
  rw [State.winCheck_ok h]
  simp only [Run.bind, State.readyAll_unbound hb]
  exact State.wideBody_ok hb hf hx

/-- What a vector instruction without a vector destination leaves: FLG and the pc. -/
theorem State.deliver_flags {s3 : State} (h : s3.me.binds = []) (rs : List Nat) (o : VOut) (hv : o.vd = none) (hk : o.kd = none)
    (hs : o.sd = none) (hl : o.late = false) : flaggedOn s3 ((s3.deliver rs o).advance 4) o.fl := by
  have e : (s3.deliver rs o).advance 4 = s3.modMe fun x => { x with flg := x.flg ||| o.fl, pc := x.pc + 4 } := by
    unfold State.deliver
    simp only [State.popAll_unbound h, hv, hk, hs, hl, Bool.false_eq_true, if_false]
    exact State.modMe_modMe s3 (fun x => { x with flg := x.flg ||| o.fl }) fun x => { x with pc := x.pc + 4 }
  rw [e]
  exact ⟨State.me_modMe _ _, onlySlot_modMe _ _, bytesKept_modMe _ _⟩

/-! ### Trap entry (R416 to R420) -/

/-- A trap after which nothing of the slot is left to complete is entered where the slot stands (R420). -/
theorem State.trapSlot_settled {s : State} {t : Nat} (h1 : ((s.endShadows t).slotAt t).pend = [])
    (h2 : ((s.endShadows t).slotAt t).mode = .running) (bits : Nat) (v : Word) :
    s.trapSlot t bits v = ((s.endShadows t).enterTrap t bits v ((s.endShadows t).slotAt t).pc, true) := by
  simp [State.trapSlot, State.trapSlotWith, h1, h2]

theorem State.takeTrap_settled (s : State) (h : settles s) (c a : Nat) (v : Word) :
    s.takeTrap c a v = (s.endShadows s.cur).enterTrap s.cur (trapBits c a) v (s.endShadows s.cur).me.pc := by
  obtain ⟨h1, h2, h3⟩ := h
  rw [State.me, h3] at h1 h2
  rw [State.takeTrap, State.takeTrapBits, State.trapSlot_settled h1 h2, State.me, h3]

/-- Entry at user level. -/
theorem State.enterTrap_user (s : State) (c a : Nat) (v : Word) (hc : c < 2^8) (h : entersUser s.me c) :
    enteredUser s (s.enterTrap s.cur (trapBits c a) v s.me.pc) (c + a * 2 ^ 10) v := by
  obtain ⟨h1, h2, h3, h4, h5, h6, h7⟩ := h
  have hb : trapBits c a % 256 = c := by simp [trapBits]; omega
  have hu : s.me.userDest c = true := by
    simp [Slot.userDest, supCause, cPAGE, cPROT, cWINDEADLOCK, h1, h2, h3, h4]
  have e : s.enterTrap s.cur (trapBits c a) v s.me.pc = s.modMe fun x =>
      { x with
        tpc := s.me.pc, tcau := BitVec.ofNat 64 (trapBits c a), tval := v, uh := true, pc := x.tvec
        kept := none, drains := none } := by
    unfold State.enterTrap
    simp only [hb, show s.slotAt s.cur = s.me from rfl, hu, h5, h6, h7]; rfl
  rw [e]
  exact ⟨State.me_modMe _ _, onlySlot_modMe _ _, bytesKept_modMe _ _⟩

/-- Who handles a cause: the supervisor's causes and everything raised at supervisor level go to the supervisor (R417). -/
theorem Slot.userDest_eq (x : Slot) (c : Nat) :
    x.userDest c = decide (c ≠ 0x03 ∧ c ≠ 0x04 ∧ c ≠ 0x0B ∧ x.sup = false) := by
  unfold Slot.userDest supCause cPAGE cPROT cWINDEADLOCK
  by_cases h1 : c = 3 <;> by_cases h2 : c = 4 <;> by_cases h3 : c = 11 <;> cases x.sup <;> simp_all

/-- Entry at supervisor level. -/
theorem State.enterTrap_super (s : State) (c a : Nat) (v : Word) (hc : c < 2^8) (h : entersSuper s s.me c) :
    enteredSuper s (s.enterTrap s.cur (trapBits c a) v s.me.pc) c (c + a * 2 ^ 10) v := by
  obtain ⟨h1, h2, h3⟩ := h
  have hb : trapBits c a % 256 = c := by simp [trapBits]; omega
  have hu : (s.me.userDest c && !s.me.uh && !false) = false := by
    rw [Slot.userDest_eq]
    rcases h3 with h | h | h | h | h <;> simp [h]
  have e : s.enterTrap s.cur (trapBits c a) v s.me.pc = s.modMe fun x =>
      { x with
        sepc := s.me.pc, sval := v, sup := true, sh := true, uh := false, pc := s.stvec, kept := none, drains := none
        scau := BitVec.ofNat 64
          (trapBits c a + b2n s.me.sup * 2 ^ 12 + b2n s.me.uh * 2 ^ 13 + b2n (s.me.userDest c) * 2 ^ 14) } := by
    unfold State.enterTrap
    simp only [hb, show s.slotAt s.cur = s.me from rfl, h1, h2, hu, Bool.false_eq_true, if_false]
    rfl
  rw [e]
  refine ⟨?_, onlySlot_modMe _ _, bytesKept_modMe _ _⟩
  have hm : ∀ (p : Prop) [Decidable p] (k : Nat), (if p then 1 else 0) * k = if p then k else 0 := by
    intro p _ k; split <;> simp
  rw [State.me_modMe, Slot.userDest_eq]
  simp only [trapBits, b2n, decide_eq_true_eq, hm]

end Sys2Proof.Machine
end

