-- ==== Sys2Proof/Laws/PerInstr.lean ====
section
/-!
SUPPORT. The round trip of each instruction: its halfwords, whatever follows them, decode to it. A step of another agent
has no halfwords.
-/
namespace Sys2Proof.Laws.RoundTrip

/-- A well-formed instruction decodes from its own halfwords and from no more of what follows. -/
def Statement (i : Instr) : Prop :=
  i.wf = true → i.isEvent = false → ∀ rest, decodeHalves (encode i ++ rest) = .ok (i, (encode i).length)

theorem add (d : BitVec 5) (a : BitVec 5) (b : BitVec 5) : Statement (.add d a b) :=
  fun wf _ rest => decodeHalves_word rest (by rw [fmtS_op]; rfl)
    ((decode_Major00 _ _ _ _ _).trans <|
      (show decMajor00 0#4 0#6 b a d = accept [(decide (0#4 = 0#4), .lookahead)] (.add d a b) from rfl).trans (accept_ok (wf_checks wf)))
theorem sub (d : BitVec 5) (a : BitVec 5) (b : BitVec 5) : Statement (.sub d a b) :=
  fun wf _ rest => decodeHalves_word rest (by rw [fmtS_op]; rfl)
    ((decode_Major00 _ _ _ _ _).trans <|
      (show decMajor00 0#4 1#6 b a d = accept [(decide (0#4 = 0#4), .lookahead)] (.sub d a b) from rfl).trans (accept_ok (wf_checks wf)))
theorem and (d : BitVec 5) (a : BitVec 5) (b : BitVec 5) : Statement (.and d a b) :=
  fun wf _ rest => decodeHalves_word rest (by rw [fmtS_op]; rfl)
    ((decode_Major00 _ _ _ _ _).trans <|
      (show decMajor00 0#4 2#6 b a d = accept [(decide (0#4 = 0#4), .lookahead)] (.and d a b) from rfl).trans (accept_ok (wf_checks wf)))
theorem or (d : BitVec 5) (a : BitVec 5) (b : BitVec 5) : Statement (.or d a b) :=
  fun wf _ rest => decodeHalves_word rest (by rw [fmtS_op]; rfl)
    ((decode_Major00 _ _ _ _ _).trans <|
      (show decMajor00 0#4 3#6 b a d = accept [(decide (0#4 = 0#4), .lookahead)] (.or d a b) from rfl).trans (accept_ok (wf_checks wf)))
theorem xor (d : BitVec 5) (a : BitVec 5) (b : BitVec 5) : Statement (.xor d a b) :=
  fun wf _ rest => decodeHalves_word rest (by rw [fmtS_op]; rfl)
    ((decode_Major00 _ _ _ _ _).trans <|
      (show decMajor00 0#4 4#6 b a d = accept [(decide (0#4 = 0#4), .lookahead)] (.xor d a b) from rfl).trans (accept_ok (wf_checks wf)))
theorem andn (d : BitVec 5) (a : BitVec 5) (b : BitVec 5) : Statement (.andn d a b) :=
  fun wf _ rest => decodeHalves_word rest (by rw [fmtS_op]; rfl)
    ((decode_Major00 _ _ _ _ _).trans <|
      (show decMajor00 0#4 5#6 b a d = accept [(decide (0#4 = 0#4), .lookahead)] (.andn d a b) from rfl).trans (accept_ok (wf_checks wf)))
theorem orn (d : BitVec 5) (a : BitVec 5) (b : BitVec 5) : Statement (.orn d a b) :=
  fun wf _ rest => decodeHalves_word rest (by rw [fmtS_op]; rfl)
    ((decode_Major00 _ _ _ _ _).trans <|
      (show decMajor00 0#4 6#6 b a d = accept [(decide (0#4 = 0#4), .lookahead)] (.orn d a b) from rfl).trans (accept_ok (wf_checks wf)))
theorem shl (d : BitVec 5) (a : BitVec 5) (b : BitVec 5) : Statement (.shl d a b) :=
  fun wf _ rest => decodeHalves_word rest (by rw [fmtS_op]; rfl)
    ((decode_Major00 _ _ _ _ _).trans <|
      (show decMajor00 0#4 7#6 b a d = accept [(decide (0#4 = 0#4), .lookahead)] (.shl d a b) from rfl).trans (accept_ok (wf_checks wf)))
theorem shr (d : BitVec 5) (a : BitVec 5) (b : BitVec 5) : Statement (.shr d a b) :=
  fun wf _ rest => decodeHalves_word rest (by rw [fmtS_op]; rfl)
    ((decode_Major00 _ _ _ _ _).trans <|
      (show decMajor00 0#4 8#6 b a d = accept [(decide (0#4 = 0#4), .lookahead)] (.shr d a b) from rfl).trans (accept_ok (wf_checks wf)))
theorem sar (d : BitVec 5) (a : BitVec 5) (b : BitVec 5) : Statement (.sar d a b) :=
  fun wf _ rest => decodeHalves_word rest (by rw [fmtS_op]; rfl)
    ((decode_Major00 _ _ _ _ _).trans <|
      (show decMajor00 0#4 9#6 b a d = accept [(decide (0#4 = 0#4), .lookahead)] (.sar d a b) from rfl).trans (accept_ok (wf_checks wf)))
theorem rol (d : BitVec 5) (a : BitVec 5) (b : BitVec 5) : Statement (.rol d a b) :=
  fun wf _ rest => decodeHalves_word rest (by rw [fmtS_op]; rfl)
    ((decode_Major00 _ _ _ _ _).trans <|
      (show decMajor00 0#4 10#6 b a d = accept [(decide (0#4 = 0#4), .lookahead)] (.rol d a b) from rfl).trans (accept_ok (wf_checks wf)))
theorem ror (d : BitVec 5) (a : BitVec 5) (b : BitVec 5) : Statement (.ror d a b) :=
  fun wf _ rest => decodeHalves_word rest (by rw [fmtS_op]; rfl)
    ((decode_Major00 _ _ _ _ _).trans <|
      (show decMajor00 0#4 11#6 b a d = accept [(decide (0#4 = 0#4), .lookahead)] (.ror d a b) from rfl).trans (accept_ok (wf_checks wf)))
theorem mul (d : BitVec 5) (a : BitVec 5) (b : BitVec 5) : Statement (.mul d a b) :=
  fun wf _ rest => decodeHalves_word rest (by rw [fmtS_op]; rfl)
    ((decode_Major00 _ _ _ _ _).trans <|
      (show decMajor00 0#4 12#6 b a d = accept [(decide (0#4 = 0#4), .lookahead)] (.mul d a b) from rfl).trans (accept_ok (wf_checks wf)))
theorem mulh (d : BitVec 5) (a : BitVec 5) (b : BitVec 5) (la : BitVec 4) : Statement (.mulh d a b la) :=
  fun wf _ rest => decodeHalves_word rest (by rw [fmtS_op]; rfl)
    ((decode_Major00 _ _ _ _ _).trans <|
      (show decMajor00 la 13#6 b a d = accept [] (.mulh d a b la) from rfl).trans (accept_ok (wf_checks wf)))
theorem mulhu (d : BitVec 5) (a : BitVec 5) (b : BitVec 5) (la : BitVec 4) : Statement (.mulhu d a b la) :=
  fun wf _ rest => decodeHalves_word rest (by rw [fmtS_op]; rfl)
    ((decode_Major00 _ _ _ _ _).trans <|
      (show decMajor00 la 14#6 b a d = accept [] (.mulhu d a b la) from rfl).trans (accept_ok (wf_checks wf)))
theorem div (d : BitVec 5) (a : BitVec 5) (b : BitVec 5) (la : BitVec 4) : Statement (.div d a b la) :=
  fun wf _ rest => decodeHalves_word rest (by rw [fmtS_op]; rfl)
    ((decode_Major00 _ _ _ _ _).trans <|
      (show decMajor00 la 15#6 b a d = accept [] (.div d a b la) from rfl).trans (accept_ok (wf_checks wf)))
theorem divu (d : BitVec 5) (a : BitVec 5) (b : BitVec 5) (la : BitVec 4) : Statement (.divu d a b la) :=
  fun wf _ rest => decodeHalves_word rest (by rw [fmtS_op]; rfl)
    ((decode_Major00 _ _ _ _ _).trans <|
      (show decMajor00 la 16#6 b a d = accept [] (.divu d a b la) from rfl).trans (accept_ok (wf_checks wf)))
theorem rem (d : BitVec 5) (a : BitVec 5) (b : BitVec 5) (la : BitVec 4) : Statement (.rem d a b la) :=
  fun wf _ rest => decodeHalves_word rest (by rw [fmtS_op]; rfl)
    ((decode_Major00 _ _ _ _ _).trans <|
      (show decMajor00 la 17#6 b a d = accept [] (.rem d a b la) from rfl).trans (accept_ok (wf_checks wf)))
theorem remu (d : BitVec 5) (a : BitVec 5) (b : BitVec 5) (la : BitVec 4) : Statement (.remu d a b la) :=
  fun wf _ rest => decodeHalves_word rest (by rw [fmtS_op]; rfl)
    ((decode_Major00 _ _ _ _ _).trans <|
      (show decMajor00 la 18#6 b a d = accept [] (.remu d a b la) from rfl).trans (accept_ok (wf_checks wf)))
theorem min (d : BitVec 5) (a : BitVec 5) (b : BitVec 5) : Statement (.min d a b) :=
  fun wf _ rest => decodeHalves_word rest (by rw [fmtS_op]; rfl)
    ((decode_Major00 _ _ _ _ _).trans <|
      (show decMajor00 0#4 19#6 b a d = accept [(decide (0#4 = 0#4), .lookahead)] (.min d a b) from rfl).trans (accept_ok (wf_checks wf)))
theorem max (d : BitVec 5) (a : BitVec 5) (b : BitVec 5) : Statement (.max d a b) :=
  fun wf _ rest => decodeHalves_word rest (by rw [fmtS_op]; rfl)
    ((decode_Major00 _ _ _ _ _).trans <|
      (show decMajor00 0#4 20#6 b a d = accept [(decide (0#4 = 0#4), .lookahead)] (.max d a b) from rfl).trans (accept_ok (wf_checks wf)))
theorem minu (d : BitVec 5) (a : BitVec 5) (b : BitVec 5) : Statement (.minu d a b) :=
  fun wf _ rest => decodeHalves_word rest (by rw [fmtS_op]; rfl)
    ((decode_Major00 _ _ _ _ _).trans <|
      (show decMajor00 0#4 21#6 b a d = accept [(decide (0#4 = 0#4), .lookahead)] (.minu d a b) from rfl).trans (accept_ok (wf_checks wf)))
theorem maxu (d : BitVec 5) (a : BitVec 5) (b : BitVec 5) : Statement (.maxu d a b) :=
  fun wf _ rest => decodeHalves_word rest (by rw [fmtS_op]; rfl)
    ((decode_Major00 _ _ _ _ _).trans <|
      (show decMajor00 0#4 22#6 b a d = accept [(decide (0#4 = 0#4), .lookahead)] (.maxu d a b) from rfl).trans (accept_ok (wf_checks wf)))
theorem slt (d : BitVec 5) (a : BitVec 5) (b : BitVec 5) : Statement (.slt d a b) :=
  fun wf _ rest => decodeHalves_word rest (by rw [fmtS_op]; rfl)
    ((decode_Major00 _ _ _ _ _).trans <|
      (show decMajor00 0#4 23#6 b a d = accept [(decide (0#4 = 0#4), .lookahead)] (.slt d a b) from rfl).trans (accept_ok (wf_checks wf)))
theorem sltu (d : BitVec 5) (a : BitVec 5) (b : BitVec 5) : Statement (.sltu d a b) :=
  fun wf _ rest => decodeHalves_word rest (by rw [fmtS_op]; rfl)
    ((decode_Major00 _ _ _ _ _).trans <|
      (show decMajor00 0#4 24#6 b a d = accept [(decide (0#4 = 0#4), .lookahead)] (.sltu d a b) from rfl).trans (accept_ok (wf_checks wf)))
theorem seq (d : BitVec 5) (a : BitVec 5) (b : BitVec 5) : Statement (.seq d a b) :=
  fun wf _ rest => decodeHalves_word rest (by rw [fmtS_op]; rfl)
    ((decode_Major00 _ _ _ _ _).trans <|
      (show decMajor00 0#4 25#6 b a d = accept [(decide (0#4 = 0#4), .lookahead)] (.seq d a b) from rfl).trans (accept_ok (wf_checks wf)))
theorem sel (d : BitVec 5) (a : BitVec 5) (b : BitVec 5) : Statement (.sel d a b) :=
  fun wf _ rest => decodeHalves_word rest (by rw [fmtS_op]; rfl)
    ((decode_Major00 _ _ _ _ _).trans <|
      (show decMajor00 0#4 26#6 b a d = accept [(decide (0#4 = 0#4), .lookahead)] (.sel d a b) from rfl).trans (accept_ok (wf_checks wf)))
theorem clz (d : BitVec 5) (a : BitVec 5) : Statement (.clz d a) :=
  fun wf _ rest => decodeHalves_word rest (by rw [fmtS_op]; rfl)
    ((decode_Major00 _ _ _ _ _).trans <|
      (show decMajor00 0#4 27#6 0#5 a d = accept [(decide (0#4 = 0#4), .lookahead), (decide (0#5 = 0#5), .reservedField)] (.clz d a) from rfl).trans (accept_ok (wf_checks wf)))
theorem ctz (d : BitVec 5) (a : BitVec 5) : Statement (.ctz d a) :=
  fun wf _ rest => decodeHalves_word rest (by rw [fmtS_op]; rfl)
    ((decode_Major00 _ _ _ _ _).trans <|
      (show decMajor00 0#4 28#6 0#5 a d = accept [(decide (0#4 = 0#4), .lookahead), (decide (0#5 = 0#5), .reservedField)] (.ctz d a) from rfl).trans (accept_ok (wf_checks wf)))
theorem popc (d : BitVec 5) (a : BitVec 5) : Statement (.popc d a) :=
  fun wf _ rest => decodeHalves_word rest (by rw [fmtS_op]; rfl)
    ((decode_Major00 _ _ _ _ _).trans <|
      (show decMajor00 0#4 29#6 0#5 a d = accept [(decide (0#4 = 0#4), .lookahead), (decide (0#5 = 0#5), .reservedField)] (.popc d a) from rfl).trans (accept_ok (wf_checks wf)))
theorem brev (d : BitVec 5) (a : BitVec 5) : Statement (.brev d a) :=
  fun wf _ rest => decodeHalves_word rest (by rw [fmtS_op]; rfl)
    ((decode_Major00 _ _ _ _ _).trans <|
      (show decMajor00 0#4 30#6 0#5 a d = accept [(decide (0#4 = 0#4), .lookahead), (decide (0#5 = 0#5), .reservedField)] (.brev d a) from rfl).trans (accept_ok (wf_checks wf)))
theorem bswap (d : BitVec 5) (a : BitVec 5) : Statement (.bswap d a) :=
  fun wf _ rest => decodeHalves_word rest (by rw [fmtS_op]; rfl)
    ((decode_Major00 _ _ _ _ _).trans <|
      (show decMajor00 0#4 31#6 0#5 a d = accept [(decide (0#4 = 0#4), .lookahead), (decide (0#5 = 0#5), .reservedField)] (.bswap d a) from rfl).trans (accept_ok (wf_checks wf)))
theorem sextb (d : BitVec 5) (a : BitVec 5) : Statement (.sextb d a) :=
  fun wf _ rest => decodeHalves_word rest (by rw [fmtS_op]; rfl)
    ((decode_Major00 _ _ _ _ _).trans <|
      (show decMajor00 0#4 32#6 0#5 a d = accept [(decide (0#4 = 0#4), .lookahead), (decide (0#5 = 0#5), .reservedField)] (.sextb d a) from rfl).trans (accept_ok (wf_checks wf)))
theorem sexth (d : BitVec 5) (a : BitVec 5) : Statement (.sexth d a) :=
  fun wf _ rest => decodeHalves_word rest (by rw [fmtS_op]; rfl)
    ((decode_Major00 _ _ _ _ _).trans <|
      (show decMajor00 0#4 33#6 0#5 a d = accept [(decide (0#4 = 0#4), .lookahead), (decide (0#5 = 0#5), .reservedField)] (.sexth d a) from rfl).trans (accept_ok (wf_checks wf)))
theorem sextw (d : BitVec 5) (a : BitVec 5) : Statement (.sextw d a) :=
  fun wf _ rest => decodeHalves_word rest (by rw [fmtS_op]; rfl)
    ((decode_Major00 _ _ _ _ _).trans <|
      (show decMajor00 0#4 34#6 0#5 a d = accept [(decide (0#4 = 0#4), .lookahead), (decide (0#5 = 0#5), .reservedField)] (.sextw d a) from rfl).trans (accept_ok (wf_checks wf)))
theorem addi (d : BitVec 5) (a : BitVec 5) (imm : BitVec 15) : Statement (.addi d a imm) :=
  fun wf _ rest => decodeHalves_word rest (by rw [fmtI_op]; rfl)
    ((decode_Major01 _ _ _).trans <|
      (show decMajor01 imm a d = accept [] (.addi d a imm) from rfl).trans (accept_ok (wf_checks wf)))
theorem andi (d : BitVec 5) (a : BitVec 5) (imm : BitVec 15) : Statement (.andi d a imm) :=
  fun wf _ rest => decodeHalves_word rest (by rw [fmtI_op]; rfl)
    ((decode_Major02 _ _ _).trans <|
      (show decMajor02 imm a d = accept [] (.andi d a imm) from rfl).trans (accept_ok (wf_checks wf)))
theorem ori (d : BitVec 5) (a : BitVec 5) (imm : BitVec 15) : Statement (.ori d a imm) :=
  fun wf _ rest => decodeHalves_word rest (by rw [fmtI_op]; rfl)
    ((decode_Major03 _ _ _).trans <|
      (show decMajor03 imm a d = accept [] (.ori d a imm) from rfl).trans (accept_ok (wf_checks wf)))
theorem xori (d : BitVec 5) (a : BitVec 5) (imm : BitVec 15) : Statement (.xori d a imm) :=
  fun wf _ rest => decodeHalves_word rest (by rw [fmtI_op]; rfl)
    ((decode_Major04 _ _ _).trans <|
      (show decMajor04 imm a d = accept [] (.xori d a imm) from rfl).trans (accept_ok (wf_checks wf)))
theorem slti (d : BitVec 5) (a : BitVec 5) (imm : BitVec 15) : Statement (.slti d a imm) :=
  fun wf _ rest => decodeHalves_word rest (by rw [fmtI_op]; rfl)
    ((decode_Major05 _ _ _).trans <|
      (show decMajor05 imm a d = accept [] (.slti d a imm) from rfl).trans (accept_ok (wf_checks wf)))
theorem sltiu (d : BitVec 5) (a : BitVec 5) (imm : BitVec 15) : Statement (.sltiu d a imm) :=
  fun wf _ rest => decodeHalves_word rest (by rw [fmtI_op]; rfl)
    ((decode_Major06 _ _ _).trans <|
      (show decMajor06 imm a d = accept [] (.sltiu d a imm) from rfl).trans (accept_ok (wf_checks wf)))
theorem muli (d : BitVec 5) (a : BitVec 5) (imm : BitVec 15) : Statement (.muli d a imm) :=
  fun wf _ rest => decodeHalves_word rest (by rw [fmtI_op]; rfl)
    ((decode_Major07 _ _ _).trans <|
      (show decMajor07 imm a d = accept [] (.muli d a imm) from rfl).trans (accept_ok (wf_checks wf)))
theorem shli (d : BitVec 5) (a : BitVec 5) (amt : BitVec 6) : Statement (.shli d a amt) :=
  fun wf _ rest => decodeHalves_word rest (by rw [fmtSh_op]; rfl)
    ((decode_Major08 _ _ _ _ _).trans <|
      (show decMajor08 0#2 0#7 amt a d = accept [(decide (0#7 = 0#7), .reservedField)] (.shli d a amt) from rfl).trans (accept_ok (wf_checks wf)))
theorem shri (d : BitVec 5) (a : BitVec 5) (amt : BitVec 6) : Statement (.shri d a amt) :=
  fun wf _ rest => decodeHalves_word rest (by rw [fmtSh_op]; rfl)
    ((decode_Major08 _ _ _ _ _).trans <|
      (show decMajor08 1#2 0#7 amt a d = accept [(decide (0#7 = 0#7), .reservedField)] (.shri d a amt) from rfl).trans (accept_ok (wf_checks wf)))
theorem sari (d : BitVec 5) (a : BitVec 5) (amt : BitVec 6) : Statement (.sari d a amt) :=
  fun wf _ rest => decodeHalves_word rest (by rw [fmtSh_op]; rfl)
    ((decode_Major08 _ _ _ _ _).trans <|
      (show decMajor08 2#2 0#7 amt a d = accept [(decide (0#7 = 0#7), .reservedField)] (.sari d a amt) from rfl).trans (accept_ok (wf_checks wf)))
theorem bext (d : BitVec 5) (a : BitVec 5) (len1 : BitVec 6) (pos : BitVec 6) : Statement (.bext d a len1 pos) :=
  fun wf _ rest => decodeHalves_word rest (by rw [fmtBf_op]; rfl)
    ((decode_Major09 _ _ _ _ _ _).trans <|
      (show decMajor09 0#1 0#2 pos len1 a d = accept [(decide (0#2 = 0#2), .reservedField)] (.bext d a len1 pos) from rfl).trans (accept_ok (wf_checks wf)))
theorem bins (d : BitVec 5) (a : BitVec 5) (len1 : BitVec 6) (pos : BitVec 6) : Statement (.bins d a len1 pos) :=
  fun wf _ rest => decodeHalves_word rest (by rw [fmtBf_op]; rfl)
    ((decode_Major09 _ _ _ _ _ _).trans <|
      (show decMajor09 1#1 0#2 pos len1 a d = accept [(decide (0#2 = 0#2), .reservedField)] (.bins d a len1 pos) from rfl).trans (accept_ok (wf_checks wf)))
theorem lui (d : BitVec 5) (imm : BitVec 20) : Statement (.lui d imm) :=
  fun wf _ rest => decodeHalves_word rest (by rw [fmtU_op]; rfl)
    ((decode_Major0A _ _).trans <|
      (show decMajor0A imm d = accept [] (.lui d imm) from rfl).trans (accept_ok (wf_checks wf)))
theorem adpc (d : BitVec 5) (imm : BitVec 20) : Statement (.adpc d imm) :=
  fun wf _ rest => decodeHalves_word rest (by rw [fmtU_op]; rfl)
    ((decode_Major0B _ _).trans <|
      (show decMajor0B imm d = accept [] (.adpc d imm) from rfl).trans (accept_ok (wf_checks wf)))
theorem beq (a : BitVec 5) (b : BitVec 5) (off : BitVec 12) : Statement (.beq a b off) :=
  fun wf _ rest => decodeHalves_word rest (by rw [fmtB_op]; rfl)
    ((decode_Major0C _ _ _ _).trans <|
      (show decMajor0C off 0#3 b a = accept [] (.beq a b off) from rfl).trans (accept_ok (wf_checks wf)))
theorem bne (a : BitVec 5) (b : BitVec 5) (off : BitVec 12) : Statement (.bne a b off) :=
  fun wf _ rest => decodeHalves_word rest (by rw [fmtB_op]; rfl)
    ((decode_Major0C _ _ _ _).trans <|
      (show decMajor0C off 1#3 b a = accept [] (.bne a b off) from rfl).trans (accept_ok (wf_checks wf)))
theorem blt (a : BitVec 5) (b : BitVec 5) (off : BitVec 12) : Statement (.blt a b off) :=
  fun wf _ rest => decodeHalves_word rest (by rw [fmtB_op]; rfl)
    ((decode_Major0C _ _ _ _).trans <|
      (show decMajor0C off 2#3 b a = accept [] (.blt a b off) from rfl).trans (accept_ok (wf_checks wf)))
theorem bge (a : BitVec 5) (b : BitVec 5) (off : BitVec 12) : Statement (.bge a b off) :=
  fun wf _ rest => decodeHalves_word rest (by rw [fmtB_op]; rfl)
    ((decode_Major0C _ _ _ _).trans <|
      (show decMajor0C off 3#3 b a = accept [] (.bge a b off) from rfl).trans (accept_ok (wf_checks wf)))
theorem bltu (a : BitVec 5) (b : BitVec 5) (off : BitVec 12) : Statement (.bltu a b off) :=
  fun wf _ rest => decodeHalves_word rest (by rw [fmtB_op]; rfl)
    ((decode_Major0C _ _ _ _).trans <|
      (show decMajor0C off 4#3 b a = accept [] (.bltu a b off) from rfl).trans (accept_ok (wf_checks wf)))
theorem bgeu (a : BitVec 5) (b : BitVec 5) (off : BitVec 12) : Statement (.bgeu a b off) :=
  fun wf _ rest => decodeHalves_word rest (by rw [fmtB_op]; rfl)
    ((decode_Major0C _ _ _ _).trans <|
      (show decMajor0C off 5#3 b a = accept [] (.bgeu a b off) from rfl).trans (accept_ok (wf_checks wf)))
theorem jal (d : BitVec 5) (off : BitVec 20) : Statement (.jal d off) :=
  fun wf _ rest => decodeHalves_word rest (by rw [fmtJ_op]; rfl)
    ((decode_Major0D _ _).trans <|
      (show decMajor0D off d = accept [] (.jal d off) from rfl).trans (accept_ok (wf_checks wf)))
theorem jalr (d : BitVec 5) (a : BitVec 5) (imm : BitVec 15) : Statement (.jalr d a imm) :=
  fun wf _ rest => decodeHalves_word rest (by rw [fmtI_op]; rfl)
    ((decode_Major0E _ _ _).trans <|
      (show decMajor0E imm a d = accept [] (.jalr d a imm) from rfl).trans (accept_ok (wf_checks wf)))
theorem mfs (d : BitVec 5) (sr : BitVec 12) : Statement (.mfs d sr) :=
  fun wf _ rest => decodeHalves_word rest (by rw [fmtSr_op]; rfl)
    ((decode_Major0F _ _ _ _ _).trans <|
      (show decMajor0F 0#2 0#1 sr 0#5 d = accept [(decide (0#1 = 0#1), .reservedField), (decide (0#5 = 0#5), .reservedField)] (.mfs d sr) from rfl).trans (accept_ok (wf_checks wf)))
theorem mts (a : BitVec 5) (sr : BitVec 12) : Statement (.mts a sr) :=
  fun wf _ rest => decodeHalves_word rest (by rw [fmtSr_op]; rfl)
    ((decode_Major0F _ _ _ _ _).trans <|
      (show decMajor0F 1#2 0#1 sr a 0#5 = accept [(decide (0#1 = 0#1), .reservedField), (decide (0#5 = 0#5), .reservedField)] (.mts a sr) from rfl).trans (accept_ok (wf_checks wf)))
theorem mtsset (a : BitVec 5) (sr : BitVec 12) : Statement (.mtsset a sr) :=
  fun wf _ rest => decodeHalves_word rest (by rw [fmtSr_op]; rfl)
    ((decode_Major0F _ _ _ _ _).trans <|
      (show decMajor0F 2#2 0#1 sr a 0#5 = accept [(decide (0#1 = 0#1), .reservedField), (decide (0#5 = 0#5), .reservedField)] (.mtsset a sr) from rfl).trans (accept_ok (wf_checks wf)))
theorem mtsclr (a : BitVec 5) (sr : BitVec 12) : Statement (.mtsclr a sr) :=
  fun wf _ rest => decodeHalves_word rest (by rw [fmtSr_op]; rfl)
    ((decode_Major0F _ _ _ _ _).trans <|
      (show decMajor0F 3#2 0#1 sr a 0#5 = accept [(decide (0#1 = 0#1), .reservedField), (decide (0#5 = 0#5), .reservedField)] (.mtsclr a sr) from rfl).trans (accept_ok (wf_checks wf)))
theorem ldb (d : BitVec 5) (a : BitVec 5) (la : BitVec 4) (imm : BitVec 11) : Statement (.ldb d a la imm) :=
  fun wf _ rest => decodeHalves_word rest (by rw [fmtM_op]; rfl)
    ((decode_Major10 _ _ _ _).trans <|
      (show decMajor10 imm la a d = accept [] (.ldb d a la imm) from rfl).trans (accept_ok (wf_checks wf)))
theorem ldbu (d : BitVec 5) (a : BitVec 5) (la : BitVec 4) (imm : BitVec 11) : Statement (.ldbu d a la imm) :=
  fun wf _ rest => decodeHalves_word rest (by rw [fmtM_op]; rfl)
    ((decode_Major11 _ _ _ _).trans <|
      (show decMajor11 imm la a d = accept [] (.ldbu d a la imm) from rfl).trans (accept_ok (wf_checks wf)))
theorem ldh (d : BitVec 5) (a : BitVec 5) (la : BitVec 4) (imm : BitVec 11) : Statement (.ldh d a la imm) :=
  fun wf _ rest => decodeHalves_word rest (by rw [fmtM_op]; rfl)
    ((decode_Major12 _ _ _ _).trans <|
      (show decMajor12 imm la a d = accept [] (.ldh d a la imm) from rfl).trans (accept_ok (wf_checks wf)))
theorem ldhu (d : BitVec 5) (a : BitVec 5) (la : BitVec 4) (imm : BitVec 11) : Statement (.ldhu d a la imm) :=
  fun wf _ rest => decodeHalves_word rest (by rw [fmtM_op]; rfl)
    ((decode_Major13 _ _ _ _).trans <|
      (show decMajor13 imm la a d = accept [] (.ldhu d a la imm) from rfl).trans (accept_ok (wf_checks wf)))
theorem ldw (d : BitVec 5) (a : BitVec 5) (la : BitVec 4) (imm : BitVec 11) : Statement (.ldw d a la imm) :=
  fun wf _ rest => decodeHalves_word rest (by rw [fmtM_op]; rfl)
    ((decode_Major14 _ _ _ _).trans <|
      (show decMajor14 imm la a d = accept [] (.ldw d a la imm) from rfl).trans (accept_ok (wf_checks wf)))
theorem ldwu (d : BitVec 5) (a : BitVec 5) (la : BitVec 4) (imm : BitVec 11) : Statement (.ldwu d a la imm) :=
  fun wf _ rest => decodeHalves_word rest (by rw [fmtM_op]; rfl)
    ((decode_Major15 _ _ _ _).trans <|
      (show decMajor15 imm la a d = accept [] (.ldwu d a la imm) from rfl).trans (accept_ok (wf_checks wf)))
theorem ldd (d : BitVec 5) (a : BitVec 5) (la : BitVec 4) (imm : BitVec 11) : Statement (.ldd d a la imm) :=
  fun wf _ rest => decodeHalves_word rest (by rw [fmtM_op]; rfl)
    ((decode_Major16 _ _ _ _).trans <|
      (show decMajor16 imm la a d = accept [] (.ldd d a la imm) from rfl).trans (accept_ok (wf_checks wf)))
theorem stb (d : BitVec 5) (a : BitVec 5) (imm : BitVec 11) : Statement (.stb d a imm) :=
  fun wf _ rest => decodeHalves_word rest (by rw [fmtM_op]; rfl)
    ((decode_Major17 _ _ _ _).trans <|
      (show decMajor17 imm 0#4 a d = accept [(decide (0#4 = 0#4), .lookahead)] (.stb d a imm) from rfl).trans (accept_ok (wf_checks wf)))
theorem sth (d : BitVec 5) (a : BitVec 5) (imm : BitVec 11) : Statement (.sth d a imm) :=
  fun wf _ rest => decodeHalves_word rest (by rw [fmtM_op]; rfl)
    ((decode_Major18 _ _ _ _).trans <|
      (show decMajor18 imm 0#4 a d = accept [(decide (0#4 = 0#4), .lookahead)] (.sth d a imm) from rfl).trans (accept_ok (wf_checks wf)))
theorem stw (d : BitVec 5) (a : BitVec 5) (imm : BitVec 11) : Statement (.stw d a imm) :=
  fun wf _ rest => decodeHalves_word rest (by rw [fmtM_op]; rfl)
    ((decode_Major19 _ _ _ _).trans <|
      (show decMajor19 imm 0#4 a d = accept [(decide (0#4 = 0#4), .lookahead)] (.stw d a imm) from rfl).trans (accept_ok (wf_checks wf)))
theorem std (d : BitVec 5) (a : BitVec 5) (imm : BitVec 11) : Statement (.std d a imm) :=
  fun wf _ rest => decodeHalves_word rest (by rw [fmtM_op]; rfl)
    ((decode_Major1A _ _ _ _).trans <|
      (show decMajor1A imm 0#4 a d = accept [(decide (0#4 = 0#4), .lookahead)] (.std d a imm) from rfl).trans (accept_ok (wf_checks wf)))
theorem ldaD (d : BitVec 5) (a : BitVec 5) (scope : BitVec 3) (la : BitVec 4) : Statement (.ldaD d a scope la) :=
  fun wf _ rest => decodeHalves_word rest (by rw [fmtO_op]; rfl)
    ((decode_Major1B _ _ _ _ _ _).trans <|
      (show decMajor1B 0#3 la scope 0#5 a d = accept [(decide (0#5 = 0#5), .reservedField)] (.ldaD d a scope la) from rfl).trans (accept_ok (wf_checks wf)))
theorem ldaW (d : BitVec 5) (a : BitVec 5) (scope : BitVec 3) (la : BitVec 4) : Statement (.ldaW d a scope la) :=
  fun wf _ rest => decodeHalves_word rest (by rw [fmtO_op]; rfl)
    ((decode_Major1B _ _ _ _ _ _).trans <|
      (show decMajor1B 1#3 la scope 0#5 a d = accept [(decide (0#5 = 0#5), .reservedField)] (.ldaW d a scope la) from rfl).trans (accept_ok (wf_checks wf)))
theorem stlD (a : BitVec 5) (b : BitVec 5) (scope : BitVec 3) : Statement (.stlD a b scope) :=
  fun wf _ rest => decodeHalves_word rest (by rw [fmtO_op]; rfl)
    ((decode_Major1B _ _ _ _ _ _).trans <|
      (show decMajor1B 2#3 0#4 scope b a 0#5 = accept [(decide (0#4 = 0#4), .lookahead), (decide (0#5 = 0#5), .reservedField)] (.stlD a b scope) from rfl).trans (accept_ok (wf_checks wf)))
theorem stlW (a : BitVec 5) (b : BitVec 5) (scope : BitVec 3) : Statement (.stlW a b scope) :=
  fun wf _ rest => decodeHalves_word rest (by rw [fmtO_op]; rfl)
    ((decode_Major1B _ _ _ _ _ _).trans <|
      (show decMajor1B 3#3 0#4 scope b a 0#5 = accept [(decide (0#4 = 0#4), .lookahead), (decide (0#5 = 0#5), .reservedField)] (.stlW a b scope) from rfl).trans (accept_ok (wf_checks wf)))
theorem lde (d : BitVec 5) (a : BitVec 5) (la : BitVec 4) : Statement (.lde d a la) :=
  fun wf _ rest => decodeHalves_word rest (by rw [fmtO_op]; rfl)
    ((decode_Major1C _ _ _ _ _ _).trans <|
      (show decMajor1C 0#3 la 0#3 0#5 a d = accept [(decide (0#3 = 0#3), .reservedField), (decide (0#5 = 0#5), .reservedField)] (.lde d a la) from rfl).trans (accept_ok (wf_checks wf)))
theorem ldx (d : BitVec 5) (a : BitVec 5) (la : BitVec 4) : Statement (.ldx d a la) :=
  fun wf _ rest => decodeHalves_word rest (by rw [fmtO_op]; rfl)
    ((decode_Major1C _ _ _ _ _ _).trans <|
      (show decMajor1C 1#3 la 0#3 0#5 a d = accept [(decide (0#3 = 0#3), .reservedField), (decide (0#5 = 0#5), .reservedField)] (.ldx d a la) from rfl).trans (accept_ok (wf_checks wf)))
theorem stf (a : BitVec 5) (b : BitVec 5) : Statement (.stf a b) :=
  fun wf _ rest => decodeHalves_word rest (by rw [fmtO_op]; rfl)
    ((decode_Major1C _ _ _ _ _ _).trans <|
      (show decMajor1C 2#3 0#4 0#3 b a 0#5 = accept [(decide (0#4 = 0#4), .lookahead), (decide (0#3 = 0#3), .reservedField), (decide (0#5 = 0#5), .reservedField)] (.stf a b) from rfl).trans (accept_ok (wf_checks wf)))
theorem sto (a : BitVec 5) (b : BitVec 5) : Statement (.sto a b) :=
  fun wf _ rest => decodeHalves_word rest (by rw [fmtO_op]; rfl)
    ((decode_Major1C _ _ _ _ _ _).trans <|
      (show decMajor1C 3#3 0#4 0#3 b a 0#5 = accept [(decide (0#4 = 0#4), .lookahead), (decide (0#3 = 0#3), .reservedField), (decide (0#5 = 0#5), .reservedField)] (.sto a b) from rfl).trans (accept_ok (wf_checks wf)))
theorem ldeTry (d : BitVec 5) (a : BitVec 5) (b : BitVec 5) : Statement (.ldeTry d a b) :=
  fun wf _ rest => decodeHalves_word rest (by rw [fmtO_op]; rfl)
    ((decode_Major1C _ _ _ _ _ _).trans <|
      (show decMajor1C 4#3 0#4 0#3 b a d = accept [(decide (0#4 = 0#4), .lookahead), (decide (0#3 = 0#3), .reservedField)] (.ldeTry d a b) from rfl).trans (accept_ok (wf_checks wf)))
theorem ldxTry (d : BitVec 5) (a : BitVec 5) (b : BitVec 5) : Statement (.ldxTry d a b) :=
  fun wf _ rest => decodeHalves_word rest (by rw [fmtO_op]; rfl)
    ((decode_Major1C _ _ _ _ _ _).trans <|
      (show decMajor1C 5#3 0#4 0#3 b a d = accept [(decide (0#4 = 0#4), .lookahead), (decide (0#3 = 0#3), .reservedField)] (.ldxTry d a b) from rfl).trans (accept_ok (wf_checks wf)))
theorem stfTry (d : BitVec 5) (a : BitVec 5) (b : BitVec 5) : Statement (.stfTry d a b) :=
  fun wf _ rest => decodeHalves_word rest (by rw [fmtO_op]; rfl)
    ((decode_Major1C _ _ _ _ _ _).trans <|
      (show decMajor1C 6#3 0#4 0#3 b a d = accept [(decide (0#4 = 0#4), .lookahead), (decide (0#3 = 0#3), .reservedField)] (.stfTry d a b) from rfl).trans (accept_ok (wf_checks wf)))
theorem amoAdd (d : BitVec 5) (a : BitVec 5) (b : BitVec 5) (scope : BitVec 3) (ord : BitVec 2) (sz : BitVec 1) : Statement (.amoAdd d a b scope ord sz) :=
  fun wf _ rest => decodeHalves_word rest (by rw [fmtA_op]; rfl)
    ((decode_Major1D _ _ _ _ _ _ _).trans <|
      (show decMajor1D sz 0#4 ord scope b a d = accept [] (.amoAdd d a b scope ord sz) from rfl).trans (accept_ok (wf_checks wf)))
theorem amoAnd (d : BitVec 5) (a : BitVec 5) (b : BitVec 5) (scope : BitVec 3) (ord : BitVec 2) (sz : BitVec 1) : Statement (.amoAnd d a b scope ord sz) :=
  fun wf _ rest => decodeHalves_word rest (by rw [fmtA_op]; rfl)
    ((decode_Major1D _ _ _ _ _ _ _).trans <|
      (show decMajor1D sz 1#4 ord scope b a d = accept [] (.amoAnd d a b scope ord sz) from rfl).trans (accept_ok (wf_checks wf)))
theorem amoOr (d : BitVec 5) (a : BitVec 5) (b : BitVec 5) (scope : BitVec 3) (ord : BitVec 2) (sz : BitVec 1) : Statement (.amoOr d a b scope ord sz) :=
  fun wf _ rest => decodeHalves_word rest (by rw [fmtA_op]; rfl)
    ((decode_Major1D _ _ _ _ _ _ _).trans <|
      (show decMajor1D sz 2#4 ord scope b a d = accept [] (.amoOr d a b scope ord sz) from rfl).trans (accept_ok (wf_checks wf)))
theorem amoXor (d : BitVec 5) (a : BitVec 5) (b : BitVec 5) (scope : BitVec 3) (ord : BitVec 2) (sz : BitVec 1) : Statement (.amoXor d a b scope ord sz) :=
  fun wf _ rest => decodeHalves_word rest (by rw [fmtA_op]; rfl)
    ((decode_Major1D _ _ _ _ _ _ _).trans <|
      (show decMajor1D sz 3#4 ord scope b a d = accept [] (.amoXor d a b scope ord sz) from rfl).trans (accept_ok (wf_checks wf)))
theorem amoMin (d : BitVec 5) (a : BitVec 5) (b : BitVec 5) (scope : BitVec 3) (ord : BitVec 2) (sz : BitVec 1) : Statement (.amoMin d a b scope ord sz) :=
  fun wf _ rest => decodeHalves_word rest (by rw [fmtA_op]; rfl)
    ((decode_Major1D _ _ _ _ _ _ _).trans <|
      (show decMajor1D sz 4#4 ord scope b a d = accept [] (.amoMin d a b scope ord sz) from rfl).trans (accept_ok (wf_checks wf)))
theorem amoMax (d : BitVec 5) (a : BitVec 5) (b : BitVec 5) (scope : BitVec 3) (ord : BitVec 2) (sz : BitVec 1) : Statement (.amoMax d a b scope ord sz) :=
  fun wf _ rest => decodeHalves_word rest (by rw [fmtA_op]; rfl)
    ((decode_Major1D _ _ _ _ _ _ _).trans <|
      (show decMajor1D sz 5#4 ord scope b a d = accept [] (.amoMax d a b scope ord sz) from rfl).trans (accept_ok (wf_checks wf)))
theorem amoMinu (d : BitVec 5) (a : BitVec 5) (b : BitVec 5) (scope : BitVec 3) (ord : BitVec 2) (sz : BitVec 1) : Statement (.amoMinu d a b scope ord sz) :=
  fun wf _ rest => decodeHalves_word rest (by rw [fmtA_op]; rfl)
    ((decode_Major1D _ _ _ _ _ _ _).trans <|
      (show decMajor1D sz 6#4 ord scope b a d = accept [] (.amoMinu d a b scope ord sz) from rfl).trans (accept_ok (wf_checks wf)))
theorem amoMaxu (d : BitVec 5) (a : BitVec 5) (b : BitVec 5) (scope : BitVec 3) (ord : BitVec 2) (sz : BitVec 1) : Statement (.amoMaxu d a b scope ord sz) :=
  fun wf _ rest => decodeHalves_word rest (by rw [fmtA_op]; rfl)
    ((decode_Major1D _ _ _ _ _ _ _).trans <|
      (show decMajor1D sz 7#4 ord scope b a d = accept [] (.amoMaxu d a b scope ord sz) from rfl).trans (accept_ok (wf_checks wf)))
theorem amoSwp (d : BitVec 5) (a : BitVec 5) (b : BitVec 5) (scope : BitVec 3) (ord : BitVec 2) (sz : BitVec 1) : Statement (.amoSwp d a b scope ord sz) :=
  fun wf _ rest => decodeHalves_word rest (by rw [fmtA_op]; rfl)
    ((decode_Major1D _ _ _ _ _ _ _).trans <|
      (show decMajor1D sz 8#4 ord scope b a d = accept [] (.amoSwp d a b scope ord sz) from rfl).trans (accept_ok (wf_checks wf)))
theorem cas (d : BitVec 5) (a : BitVec 5) (b : BitVec 5) (scope : BitVec 3) (ord : BitVec 2) (sz : BitVec 1) : Statement (.cas d a b scope ord sz) :=
  fun wf _ rest => decodeHalves_word rest (by rw [fmtA_op]; rfl)
    ((decode_Major1D _ _ _ _ _ _ _).trans <|
      (show decMajor1D sz 9#4 ord scope b a d = accept [] (.cas d a b scope ord sz) from rfl).trans (accept_ok (wf_checks wf)))
theorem accsI32 (a : BitVec 5) (b : BitVec 5) : Statement (.accsI32 a b) :=
  fun wf _ rest => decodeHalves_word rest (by rw [fmtA_op]; rfl)
    ((decode_Major1E _ _ _ _ _ _ _).trans <|
      (show decMajor1E 0#1 0#4 0#2 0#3 b a 0#5 = accept [(decide (0#1 = 0#1), .reservedField), (decide (0#2 = 0#2), .reservedField), (decide (0#3 = 0#3), .reservedField), (decide (0#5 = 0#5), .reservedField)] (.accsI32 a b) from rfl).trans (accept_ok (wf_checks wf)))
theorem accsI64 (a : BitVec 5) (b : BitVec 5) : Statement (.accsI64 a b) :=
  fun wf _ rest => decodeHalves_word rest (by rw [fmtA_op]; rfl)
    ((decode_Major1E _ _ _ _ _ _ _).trans <|
      (show decMajor1E 0#1 1#4 0#2 0#3 b a 0#5 = accept [(decide (0#1 = 0#1), .reservedField), (decide (0#2 = 0#2), .reservedField), (decide (0#3 = 0#3), .reservedField), (decide (0#5 = 0#5), .reservedField)] (.accsI64 a b) from rfl).trans (accept_ok (wf_checks wf)))
theorem accsF32 (a : BitVec 5) (b : BitVec 5) : Statement (.accsF32 a b) :=
  fun wf _ rest => decodeHalves_word rest (by rw [fmtA_op]; rfl)
    ((decode_Major1E _ _ _ _ _ _ _).trans <|
      (show decMajor1E 0#1 2#4 0#2 0#3 b a 0#5 = accept [(decide (0#1 = 0#1), .reservedField), (decide (0#2 = 0#2), .reservedField), (decide (0#3 = 0#3), .reservedField), (decide (0#5 = 0#5), .reservedField)] (.accsF32 a b) from rfl).trans (accept_ok (wf_checks wf)))
theorem accsF64 (a : BitVec 5) (b : BitVec 5) : Statement (.accsF64 a b) :=
  fun wf _ rest => decodeHalves_word rest (by rw [fmtA_op]; rfl)
    ((decode_Major1E _ _ _ _ _ _ _).trans <|
      (show decMajor1E 0#1 3#4 0#2 0#3 b a 0#5 = accept [(decide (0#1 = 0#1), .reservedField), (decide (0#2 = 0#2), .reservedField), (decide (0#3 = 0#3), .reservedField), (decide (0#5 = 0#5), .reservedField)] (.accsF64 a b) from rfl).trans (accept_ok (wf_checks wf)))
theorem fence (scope : BitVec 3) (kind : BitVec 2) : Statement (.fence scope kind) :=
  fun wf _ rest => decodeHalves_word rest (by rw [fmtSs_op]; rfl)
    ((decode_Major1F _ _ _ _ _ _).trans <|
      (show decMajor1F 0#4 0#6 kind scope 0#5 0#5 = accept [(decide (0#4 = 0#4), .lookahead), (decide (0#5 = 0#5), .reservedField), (decide (0#5 = 0#5), .reservedField)] (.fence scope kind) from rfl).trans (accept_ok (wf_checks wf)))
theorem wbr (d : BitVec 5) (a : BitVec 5) (scope : BitVec 3) : Statement (.wbr d a scope) :=
  fun wf _ rest => decodeHalves_word rest (by rw [fmtSs_op]; rfl)
    ((decode_Major1F _ _ _ _ _ _).trans <|
      (show decMajor1F 0#4 2#6 0#2 scope a d = accept [(decide (0#4 = 0#4), .lookahead), (decide (0#2 = 0#2), .reservedField)] (.wbr d a scope) from rfl).trans (accept_ok (wf_checks wf)))
theorem invr (d : BitVec 5) (a : BitVec 5) (scope : BitVec 3) : Statement (.invr d a scope) :=
  fun wf _ rest => decodeHalves_word rest (by rw [fmtSs_op]; rfl)
    ((decode_Major1F _ _ _ _ _ _).trans <|
      (show decMajor1F 0#4 3#6 0#2 scope a d = accept [(decide (0#4 = 0#4), .lookahead), (decide (0#2 = 0#2), .reservedField)] (.invr d a scope) from rfl).trans (accept_ok (wf_checks wf)))
theorem flr (d : BitVec 5) (a : BitVec 5) (scope : BitVec 3) : Statement (.flr d a scope) :=
  fun wf _ rest => decodeHalves_word rest (by rw [fmtSs_op]; rfl)
    ((decode_Major1F _ _ _ _ _ _).trans <|
      (show decMajor1F 0#4 4#6 0#2 scope a d = accept [(decide (0#4 = 0#4), .lookahead), (decide (0#2 = 0#2), .reservedField)] (.flr d a scope) from rfl).trans (accept_ok (wf_checks wf)))
theorem drain (kind : BitVec 2) : Statement (.drain kind) :=
  fun wf _ rest => decodeHalves_word rest (by rw [fmtSs_op]; rfl)
    ((decode_Major1F _ _ _ _ _ _).trans <|
      (show decMajor1F 0#4 5#6 kind 0#3 0#5 0#5 = accept [(decide (0#4 = 0#4), .lookahead), (decide (0#3 = 0#3), .reservedField), (decide (0#5 = 0#5), .reservedField), (decide (0#5 = 0#5), .reservedField)] (.drain kind) from rfl).trans (accept_ok (wf_checks wf)))
theorem barInit (a : BitVec 5) (b : BitVec 5) : Statement (.barInit a b) :=
  fun wf _ rest => decodeHalves_word rest (by rw [fmtSs_op]; rfl)
    ((decode_Major1F _ _ _ _ _ _).trans <|
      by
        exact (show decMajor1F 0#4 7#6 (b.extractLsb' 3 2) (b.extractLsb' 0 3) a 0#5 = accept [(decide (0#4 = 0#4), .lookahead), (decide (0#5 = 0#5), .reservedField)] (.barInit a ((b.extractLsb' 3 2) ++ (b.extractLsb' 0 3))) from rfl).trans (by rw [join_3_2]; exact accept_ok (wf_checks wf)))
theorem barArv (d : BitVec 5) (a : BitVec 5) : Statement (.barArv d a) :=
  fun wf _ rest => decodeHalves_word rest (by rw [fmtSs_op]; rfl)
    ((decode_Major1F _ _ _ _ _ _).trans <|
      (show decMajor1F 0#4 8#6 0#2 0#3 a d = accept [(decide (0#4 = 0#4), .lookahead), (decide (0#2 = 0#2), .reservedField), (decide (0#3 = 0#3), .reservedField)] (.barArv d a) from rfl).trans (accept_ok (wf_checks wf)))
theorem barDrop (d : BitVec 5) (a : BitVec 5) : Statement (.barDrop d a) :=
  fun wf _ rest => decodeHalves_word rest (by rw [fmtSs_op]; rfl)
    ((decode_Major1F _ _ _ _ _ _).trans <|
      (show decMajor1F 0#4 9#6 0#2 0#3 a d = accept [(decide (0#4 = 0#4), .lookahead), (decide (0#2 = 0#2), .reservedField), (decide (0#3 = 0#3), .reservedField)] (.barDrop d a) from rfl).trans (accept_ok (wf_checks wf)))
theorem barExp (a : BitVec 5) (b : BitVec 5) : Statement (.barExp a b) :=
  fun wf _ rest => decodeHalves_word rest (by rw [fmtSs_op]; rfl)
    ((decode_Major1F _ _ _ _ _ _).trans <|
      by
        exact (show decMajor1F 0#4 10#6 (b.extractLsb' 3 2) (b.extractLsb' 0 3) a 0#5 = accept [(decide (0#4 = 0#4), .lookahead), (decide (0#5 = 0#5), .reservedField)] (.barExp a ((b.extractLsb' 3 2) ++ (b.extractLsb' 0 3))) from rfl).trans (by rw [join_3_2]; exact accept_ok (wf_checks wf)))
theorem barWait (a : BitVec 5) (b : BitVec 5) : Statement (.barWait a b) :=
  fun wf _ rest => decodeHalves_word rest (by rw [fmtSs_op]; rfl)
    ((decode_Major1F _ _ _ _ _ _).trans <|
      by
        exact (show decMajor1F 0#4 11#6 (b.extractLsb' 3 2) (b.extractLsb' 0 3) a 0#5 = accept [(decide (0#4 = 0#4), .lookahead), (decide (0#5 = 0#5), .reservedField)] (.barWait a ((b.extractLsb' 3 2) ++ (b.extractLsb' 0 3))) from rfl).trans (by rw [join_3_2]; exact accept_ok (wf_checks wf)))
theorem barWaitTry (d : BitVec 5) (a : BitVec 5) (b : BitVec 5) : Statement (.barWaitTry d a b) :=
  fun wf _ rest => decodeHalves_word rest (by rw [fmtSs_op]; rfl)
    ((decode_Major1F _ _ _ _ _ _).trans <|
      by
        exact (show decMajor1F 0#4 12#6 (b.extractLsb' 3 2) (b.extractLsb' 0 3) a d = accept [(decide (0#4 = 0#4), .lookahead)] (.barWaitTry d a ((b.extractLsb' 3 2) ++ (b.extractLsb' 0 3))) from rfl).trans (by rw [join_3_2]; exact accept_ok (wf_checks wf)))
theorem fpub (a : BitVec 5) (b : BitVec 5) : Statement (.fpub a b) :=
  fun wf _ rest => decodeHalves_word rest (by rw [fmtS_op]; rfl)
    ((decode_Major20 _ _ _ _ _).trans <|
      (show decMajor20 0#4 0#6 b a 0#5 = accept [(decide (0#4 = 0#4), .lookahead), (decide (0#5 = 0#5), .reservedField)] (.fpub a b) from rfl).trans (accept_ok (wf_checks wf)))
theorem spawn (a : BitVec 5) (b : BitVec 5) : Statement (.spawn a b) :=
  fun wf _ rest => decodeHalves_word rest (by rw [fmtS_op]; rfl)
    ((decode_Major20 _ _ _ _ _).trans <|
      (show decMajor20 0#4 1#6 b a 0#5 = accept [(decide (0#4 = 0#4), .lookahead), (decide (0#5 = 0#5), .reservedField)] (.spawn a b) from rfl).trans (accept_ok (wf_checks wf)))
theorem syncTry (d : BitVec 5) : Statement (.syncTry d) :=
  fun wf _ rest => decodeHalves_word rest (by rw [fmtS_op]; rfl)
    ((decode_Major20 _ _ _ _ _).trans <|
      (show decMajor20 0#4 3#6 0#5 0#5 d = accept [(decide (0#4 = 0#4), .lookahead), (decide (0#5 = 0#5), .reservedField), (decide (0#5 = 0#5), .reservedField)] (.syncTry d) from rfl).trans (accept_ok (wf_checks wf)))
theorem launch (d : BitVec 5) (a : BitVec 5) : Statement (.launch d a) :=
  fun wf _ rest => decodeHalves_word rest (by rw [fmtS_op]; rfl)
    ((decode_Major20 _ _ _ _ _).trans <|
      (show decMajor20 0#4 6#6 0#5 a d = accept [(decide (0#4 = 0#4), .lookahead), (decide (0#5 = 0#5), .reservedField)] (.launch d a) from rfl).trans (accept_ok (wf_checks wf)))
theorem donate (a : BitVec 5) (b : BitVec 5) : Statement (.donate a b) :=
  fun wf _ rest => decodeHalves_word rest (by rw [fmtS_op]; rfl)
    ((decode_Major20 _ _ _ _ _).trans <|
      (show decMajor20 0#4 7#6 b a 0#5 = accept [(decide (0#4 = 0#4), .lookahead), (decide (0#5 = 0#5), .reservedField)] (.donate a b) from rfl).trans (accept_ok (wf_checks wf)))
theorem dtake (d : BitVec 5) (a : BitVec 5) (b : BitVec 5) : Statement (.dtake d a b) :=
  fun wf _ rest => decodeHalves_word rest (by rw [fmtS_op]; rfl)
    ((decode_Major20 _ _ _ _ _).trans <|
      (show decMajor20 0#4 8#6 b a d = accept [(decide (0#4 = 0#4), .lookahead)] (.dtake d a b) from rfl).trans (accept_ok (wf_checks wf)))
theorem dtakeTry (d : BitVec 5) (a : BitVec 5) (b : BitVec 5) : Statement (.dtakeTry d a b) :=
  fun wf _ rest => decodeHalves_word rest (by rw [fmtS_op]; rfl)
    ((decode_Major20 _ _ _ _ _).trans <|
      (show decMajor20 0#4 9#6 b a d = accept [(decide (0#4 = 0#4), .lookahead)] (.dtakeTry d a b) from rfl).trans (accept_ok (wf_checks wf)))
theorem dqstat (d : BitVec 5) (a : BitVec 5) : Statement (.dqstat d a) :=
  fun wf _ rest => decodeHalves_word rest (by rw [fmtS_op]; rfl)
    ((decode_Major20 _ _ _ _ _).trans <|
      (show decMajor20 0#4 10#6 0#5 a d = accept [(decide (0#4 = 0#4), .lookahead), (decide (0#5 = 0#5), .reservedField)] (.dqstat d a) from rfl).trans (accept_ok (wf_checks wf)))
theorem trap (code : BitVec 11) : Statement (.trap code) :=
  fun wf _ rest => decodeHalves_word rest (by rw [fmtTr_op]; rfl)
    ((decode_Major21 _ _ _ _).trans <|
      (show decMajor21 0#4 code 0#5 0#5 = accept [(decide (0#5 = 0#5), .reservedField), (decide (0#5 = 0#5), .reservedField)] (.trap code) from rfl).trans (accept_ok (wf_checks wf)))
theorem brk (code : BitVec 11) : Statement (.brk code) :=
  fun wf _ rest => decodeHalves_word rest (by rw [fmtTr_op]; rfl)
    ((decode_Major21 _ _ _ _).trans <|
      (show decMajor21 3#4 code 0#5 0#5 = accept [(decide (0#5 = 0#5), .reservedField), (decide (0#5 = 0#5), .reservedField)] (.brk code) from rfl).trans (accept_ok (wf_checks wf)))
theorem tlbi (a : BitVec 5) : Statement (.tlbi a) :=
  fun wf _ rest => decodeHalves_word rest (by rw [fmtTr_op]; rfl)
    ((decode_Major21 _ _ _ _).trans <|
      (show decMajor21 5#4 0#11 a 0#5 = accept [(decide (0#11 = 0#11), .reservedField), (decide (0#5 = 0#5), .reservedField)] (.tlbi a) from rfl).trans (accept_ok (wf_checks wf)))
theorem tlbia (a : BitVec 5) : Statement (.tlbia a) :=
  fun wf _ rest => decodeHalves_word rest (by rw [fmtTr_op]; rfl)
    ((decode_Major21 _ _ _ _).trans <|
      (show decMajor21 6#4 0#11 a 0#5 = accept [(decide (0#11 = 0#11), .reservedField), (decide (0#5 = 0#5), .reservedField)] (.tlbia a) from rfl).trans (accept_ok (wf_checks wf)))
theorem vadd (d : BitVec 6) (a : BitVec 6) (b : BitVec 6) (k : BitVec 3) : Statement (.vadd d a b k) :=
  fun wf _ rest => decodeHalves_word rest (by rw [fmtV_op]; rfl)
    ((decode_Major24 _ _ _ _ _).trans <|
      (show decMajor24 0#4 k b a d = accept [] (.vadd d a b k) from rfl).trans (accept_ok (wf_checks wf)))
theorem vsub (d : BitVec 6) (a : BitVec 6) (b : BitVec 6) (k : BitVec 3) : Statement (.vsub d a b k) :=
  fun wf _ rest => decodeHalves_word rest (by rw [fmtV_op]; rfl)
    ((decode_Major24 _ _ _ _ _).trans <|
      (show decMajor24 1#4 k b a d = accept [] (.vsub d a b k) from rfl).trans (accept_ok (wf_checks wf)))
theorem vmul (d : BitVec 6) (a : BitVec 6) (b : BitVec 6) (k : BitVec 3) : Statement (.vmul d a b k) :=
  fun wf _ rest => decodeHalves_word rest (by rw [fmtV_op]; rfl)
    ((decode_Major24 _ _ _ _ _).trans <|
      (show decMajor24 2#4 k b a d = accept [] (.vmul d a b k) from rfl).trans (accept_ok (wf_checks wf)))
theorem vmulh (d : BitVec 6) (a : BitVec 6) (b : BitVec 6) (k : BitVec 3) : Statement (.vmulh d a b k) :=
  fun wf _ rest => decodeHalves_word rest (by rw [fmtV_op]; rfl)
    ((decode_Major24 _ _ _ _ _).trans <|
      (show decMajor24 3#4 k b a d = accept [] (.vmulh d a b k) from rfl).trans (accept_ok (wf_checks wf)))
theorem vand (d : BitVec 6) (a : BitVec 6) (b : BitVec 6) (k : BitVec 3) : Statement (.vand d a b k) :=
  fun wf _ rest => decodeHalves_word rest (by rw [fmtV_op]; rfl)
    ((decode_Major24 _ _ _ _ _).trans <|
      (show decMajor24 4#4 k b a d = accept [] (.vand d a b k) from rfl).trans (accept_ok (wf_checks wf)))
theorem vor (d : BitVec 6) (a : BitVec 6) (b : BitVec 6) (k : BitVec 3) : Statement (.vor d a b k) :=
  fun wf _ rest => decodeHalves_word rest (by rw [fmtV_op]; rfl)
    ((decode_Major24 _ _ _ _ _).trans <|
      (show decMajor24 5#4 k b a d = accept [] (.vor d a b k) from rfl).trans (accept_ok (wf_checks wf)))
theorem vxor (d : BitVec 6) (a : BitVec 6) (b : BitVec 6) (k : BitVec 3) : Statement (.vxor d a b k) :=
  fun wf _ rest => decodeHalves_word rest (by rw [fmtV_op]; rfl)
    ((decode_Major24 _ _ _ _ _).trans <|
      (show decMajor24 6#4 k b a d = accept [] (.vxor d a b k) from rfl).trans (accept_ok (wf_checks wf)))
theorem vandn (d : BitVec 6) (a : BitVec 6) (b : BitVec 6) (k : BitVec 3) : Statement (.vandn d a b k) :=
  fun wf _ rest => decodeHalves_word rest (by rw [fmtV_op]; rfl)
    ((decode_Major24 _ _ _ _ _).trans <|
      (show decMajor24 7#4 k b a d = accept [] (.vandn d a b k) from rfl).trans (accept_ok (wf_checks wf)))
theorem vshl (d : BitVec 6) (a : BitVec 6) (b : BitVec 6) (k : BitVec 3) : Statement (.vshl d a b k) :=
  fun wf _ rest => decodeHalves_word rest (by rw [fmtV_op]; rfl)
    ((decode_Major24 _ _ _ _ _).trans <|
      (show decMajor24 8#4 k b a d = accept [] (.vshl d a b k) from rfl).trans (accept_ok (wf_checks wf)))
theorem vshr (d : BitVec 6) (a : BitVec 6) (b : BitVec 6) (k : BitVec 3) : Statement (.vshr d a b k) :=
  fun wf _ rest => decodeHalves_word rest (by rw [fmtV_op]; rfl)
    ((decode_Major24 _ _ _ _ _).trans <|
      (show decMajor24 9#4 k b a d = accept [] (.vshr d a b k) from rfl).trans (accept_ok (wf_checks wf)))
theorem vsar (d : BitVec 6) (a : BitVec 6) (b : BitVec 6) (k : BitVec 3) : Statement (.vsar d a b k) :=
  fun wf _ rest => decodeHalves_word rest (by rw [fmtV_op]; rfl)
    ((decode_Major24 _ _ _ _ _).trans <|
      (show decMajor24 10#4 k b a d = accept [] (.vsar d a b k) from rfl).trans (accept_ok (wf_checks wf)))
theorem vmin (d : BitVec 6) (a : BitVec 6) (b : BitVec 6) (k : BitVec 3) : Statement (.vmin d a b k) :=
  fun wf _ rest => decodeHalves_word rest (by rw [fmtV_op]; rfl)
    ((decode_Major24 _ _ _ _ _).trans <|
      (show decMajor24 11#4 k b a d = accept [] (.vmin d a b k) from rfl).trans (accept_ok (wf_checks wf)))
theorem vmax (d : BitVec 6) (a : BitVec 6) (b : BitVec 6) (k : BitVec 3) : Statement (.vmax d a b k) :=
  fun wf _ rest => decodeHalves_word rest (by rw [fmtV_op]; rfl)
    ((decode_Major24 _ _ _ _ _).trans <|
      (show decMajor24 12#4 k b a d = accept [] (.vmax d a b k) from rfl).trans (accept_ok (wf_checks wf)))
theorem vminu (d : BitVec 6) (a : BitVec 6) (b : BitVec 6) (k : BitVec 3) : Statement (.vminu d a b k) :=
  fun wf _ rest => decodeHalves_word rest (by rw [fmtV_op]; rfl)
    ((decode_Major24 _ _ _ _ _).trans <|
      (show decMajor24 13#4 k b a d = accept [] (.vminu d a b k) from rfl).trans (accept_ok (wf_checks wf)))
theorem vmaxu (d : BitVec 6) (a : BitVec 6) (b : BitVec 6) (k : BitVec 3) : Statement (.vmaxu d a b k) :=
  fun wf _ rest => decodeHalves_word rest (by rw [fmtV_op]; rfl)
    ((decode_Major24 _ _ _ _ _).trans <|
      (show decMajor24 14#4 k b a d = accept [] (.vmaxu d a b k) from rfl).trans (accept_ok (wf_checks wf)))
theorem vsel (d : BitVec 6) (a : BitVec 6) (b : BitVec 6) (k : BitVec 3) : Statement (.vsel d a b k) :=
  fun wf _ rest => decodeHalves_word rest (by rw [fmtV_op]; rfl)
    ((decode_Major24 _ _ _ _ _).trans <|
      (show decMajor24 15#4 k b a d = accept [] (.vsel d a b k) from rfl).trans (accept_ok (wf_checks wf)))
theorem vcmpEq (d : BitVec 6) (a : BitVec 6) (b : BitVec 6) (k : BitVec 3) : Statement (.vcmpEq d a b k) :=
  fun wf _ rest => decodeHalves_word rest (by rw [fmtV_op]; rfl)
    ((decode_Major25 _ _ _ _ _).trans <|
      (show decMajor25 0#4 k b a d = accept [] (.vcmpEq d a b k) from rfl).trans (accept_ok (wf_checks wf)))
theorem vcmpNe (d : BitVec 6) (a : BitVec 6) (b : BitVec 6) (k : BitVec 3) : Statement (.vcmpNe d a b k) :=
  fun wf _ rest => decodeHalves_word rest (by rw [fmtV_op]; rfl)
    ((decode_Major25 _ _ _ _ _).trans <|
      (show decMajor25 1#4 k b a d = accept [] (.vcmpNe d a b k) from rfl).trans (accept_ok (wf_checks wf)))
theorem vcmpLt (d : BitVec 6) (a : BitVec 6) (b : BitVec 6) (k : BitVec 3) : Statement (.vcmpLt d a b k) :=
  fun wf _ rest => decodeHalves_word rest (by rw [fmtV_op]; rfl)
    ((decode_Major25 _ _ _ _ _).trans <|
      (show decMajor25 2#4 k b a d = accept [] (.vcmpLt d a b k) from rfl).trans (accept_ok (wf_checks wf)))
theorem vcmpGe (d : BitVec 6) (a : BitVec 6) (b : BitVec 6) (k : BitVec 3) : Statement (.vcmpGe d a b k) :=
  fun wf _ rest => decodeHalves_word rest (by rw [fmtV_op]; rfl)
    ((decode_Major25 _ _ _ _ _).trans <|
      (show decMajor25 3#4 k b a d = accept [] (.vcmpGe d a b k) from rfl).trans (accept_ok (wf_checks wf)))
theorem vcmpLtu (d : BitVec 6) (a : BitVec 6) (b : BitVec 6) (k : BitVec 3) : Statement (.vcmpLtu d a b k) :=
  fun wf _ rest => decodeHalves_word rest (by rw [fmtV_op]; rfl)
    ((decode_Major25 _ _ _ _ _).trans <|
      (show decMajor25 4#4 k b a d = accept [] (.vcmpLtu d a b k) from rfl).trans (accept_ok (wf_checks wf)))
theorem vcmpGeu (d : BitVec 6) (a : BitVec 6) (b : BitVec 6) (k : BitVec 3) : Statement (.vcmpGeu d a b k) :=
  fun wf _ rest => decodeHalves_word rest (by rw [fmtV_op]; rfl)
    ((decode_Major25 _ _ _ _ _).trans <|
      (show decMajor25 5#4 k b a d = accept [] (.vcmpGeu d a b k) from rfl).trans (accept_ok (wf_checks wf)))
theorem vredadd (d : BitVec 6) (a : BitVec 6) (k : BitVec 3) : Statement (.vredadd d a k) :=
  fun wf _ rest => decodeHalves_word rest (by rw [fmtV_op]; rfl)
    ((decode_Major25 _ _ _ _ _).trans <|
      (show decMajor25 6#4 k 0#6 a d = accept [(decide (0#6 = 0#6), .reservedField)] (.vredadd d a k) from rfl).trans (accept_ok (wf_checks wf)))
theorem vredmin (d : BitVec 6) (a : BitVec 6) (k : BitVec 3) : Statement (.vredmin d a k) :=
  fun wf _ rest => decodeHalves_word rest (by rw [fmtV_op]; rfl)
    ((decode_Major25 _ _ _ _ _).trans <|
      (show decMajor25 7#4 k 0#6 a d = accept [(decide (0#6 = 0#6), .reservedField)] (.vredmin d a k) from rfl).trans (accept_ok (wf_checks wf)))
theorem vredmax (d : BitVec 6) (a : BitVec 6) (k : BitVec 3) : Statement (.vredmax d a k) :=
  fun wf _ rest => decodeHalves_word rest (by rw [fmtV_op]; rfl)
    ((decode_Major25 _ _ _ _ _).trans <|
      (show decMajor25 8#4 k 0#6 a d = accept [(decide (0#6 = 0#6), .reservedField)] (.vredmax d a k) from rfl).trans (accept_ok (wf_checks wf)))
theorem vperm (d : BitVec 6) (a : BitVec 6) (b : BitVec 6) (k : BitVec 3) : Statement (.vperm d a b k) :=
  fun wf _ rest => decodeHalves_word rest (by rw [fmtV_op]; rfl)
    ((decode_Major25 _ _ _ _ _).trans <|
      (show decMajor25 9#4 k b a d = accept [] (.vperm d a b k) from rfl).trans (accept_ok (wf_checks wf)))
theorem vslideup (d : BitVec 6) (a : BitVec 6) (b : BitVec 6) (k : BitVec 3) : Statement (.vslideup d a b k) :=
  fun wf _ rest => decodeHalves_word rest (by rw [fmtV_op]; rfl)
    ((decode_Major25 _ _ _ _ _).trans <|
      (show decMajor25 10#4 k b a d = accept [] (.vslideup d a b k) from rfl).trans (accept_ok (wf_checks wf)))
theorem vslidedn (d : BitVec 6) (a : BitVec 6) (b : BitVec 6) (k : BitVec 3) : Statement (.vslidedn d a b k) :=
  fun wf _ rest => decodeHalves_word rest (by rw [fmtV_op]; rfl)
    ((decode_Major25 _ _ _ _ _).trans <|
      (show decMajor25 11#4 k b a d = accept [] (.vslidedn d a b k) from rfl).trans (accept_ok (wf_checks wf)))
theorem vbcast (d : BitVec 6) (a : BitVec 6) (cv : BitVec 3) : Statement (.vbcast d a cv) :=
  fun wf _ rest => decodeHalves_word rest (by rw [fmtV_op]; rfl)
    ((decode_Major25 _ _ _ _ _).trans <|
      (show decMajor25 12#4 cv 0#6 a d = accept [(decide (0#6 = 0#6), .reservedField)] (.vbcast d a cv) from rfl).trans (accept_ok (wf_checks wf)))
theorem vins (d : BitVec 6) (a : BitVec 6) (b : BitVec 6) (cv : BitVec 3) : Statement (.vins d a b cv) :=
  fun wf _ rest => decodeHalves_word rest (by rw [fmtV_op]; rfl)
    ((decode_Major25 _ _ _ _ _).trans <|
      (show decMajor25 13#4 cv b a d = accept [] (.vins d a b cv) from rfl).trans (accept_ok (wf_checks wf)))
theorem vext (d : BitVec 6) (a : BitVec 6) (b : BitVec 6) (cv : BitVec 3) : Statement (.vext d a b cv) :=
  fun wf _ rest => decodeHalves_word rest (by rw [fmtV_op]; rfl)
    ((decode_Major25 _ _ _ _ _).trans <|
      (show decMajor25 14#4 cv b a d = accept [] (.vext d a b cv) from rfl).trans (accept_ok (wf_checks wf)))
theorem vmov (d : BitVec 6) (a : BitVec 6) (k : BitVec 3) : Statement (.vmov d a k) :=
  fun wf _ rest => decodeHalves_word rest (by rw [fmtV_op]; rfl)
    ((decode_Major25 _ _ _ _ _).trans <|
      (show decMajor25 15#4 k 0#6 a d = accept [(decide (0#6 = 0#6), .reservedField)] (.vmov d a k) from rfl).trans (accept_ok (wf_checks wf)))
theorem fadd (d : BitVec 6) (a : BitVec 6) (b : BitVec 6) (k : BitVec 3) : Statement (.fadd d a b k) :=
  fun wf _ rest => decodeHalves_word rest (by rw [fmtV_op]; rfl)
    ((decode_Major26 _ _ _ _ _).trans <|
      (show decMajor26 0#4 k b a d = accept [] (.fadd d a b k) from rfl).trans (accept_ok (wf_checks wf)))
theorem fsub (d : BitVec 6) (a : BitVec 6) (b : BitVec 6) (k : BitVec 3) : Statement (.fsub d a b k) :=
  fun wf _ rest => decodeHalves_word rest (by rw [fmtV_op]; rfl)
    ((decode_Major26 _ _ _ _ _).trans <|
      (show decMajor26 1#4 k b a d = accept [] (.fsub d a b k) from rfl).trans (accept_ok (wf_checks wf)))
theorem fmul (d : BitVec 6) (a : BitVec 6) (b : BitVec 6) (k : BitVec 3) : Statement (.fmul d a b k) :=
  fun wf _ rest => decodeHalves_word rest (by rw [fmtV_op]; rfl)
    ((decode_Major26 _ _ _ _ _).trans <|
      (show decMajor26 2#4 k b a d = accept [] (.fmul d a b k) from rfl).trans (accept_ok (wf_checks wf)))
theorem fdiv (d : BitVec 6) (a : BitVec 6) (b : BitVec 6) (k : BitVec 3) : Statement (.fdiv d a b k) :=
  fun wf _ rest => decodeHalves_word rest (by rw [fmtV_op]; rfl)
    ((decode_Major26 _ _ _ _ _).trans <|
      (show decMajor26 3#4 k b a d = accept [] (.fdiv d a b k) from rfl).trans (accept_ok (wf_checks wf)))
theorem fsqrt (d : BitVec 6) (b : BitVec 6) (k : BitVec 3) : Statement (.fsqrt d b k) :=
  fun wf _ rest => decodeHalves_word rest (by rw [fmtV_op]; rfl)
    ((decode_Major26 _ _ _ _ _).trans <|
      (show decMajor26 4#4 k b 0#6 d = accept [(decide (0#6 = 0#6), .reservedField)] (.fsqrt d b k) from rfl).trans (accept_ok (wf_checks wf)))
theorem fmin (d : BitVec 6) (a : BitVec 6) (b : BitVec 6) (k : BitVec 3) : Statement (.fmin d a b k) :=
  fun wf _ rest => decodeHalves_word rest (by rw [fmtV_op]; rfl)
    ((decode_Major26 _ _ _ _ _).trans <|
      (show decMajor26 5#4 k b a d = accept [] (.fmin d a b k) from rfl).trans (accept_ok (wf_checks wf)))
theorem fmax (d : BitVec 6) (a : BitVec 6) (b : BitVec 6) (k : BitVec 3) : Statement (.fmax d a b k) :=
  fun wf _ rest => decodeHalves_word rest (by rw [fmtV_op]; rfl)
    ((decode_Major26 _ _ _ _ _).trans <|
      (show decMajor26 6#4 k b a d = accept [] (.fmax d a b k) from rfl).trans (accept_ok (wf_checks wf)))
theorem fabs (d : BitVec 6) (b : BitVec 6) (k : BitVec 3) : Statement (.fabs d b k) :=
  fun wf _ rest => decodeHalves_word rest (by rw [fmtV_op]; rfl)
    ((decode_Major26 _ _ _ _ _).trans <|
      (show decMajor26 7#4 k b 0#6 d = accept [(decide (0#6 = 0#6), .reservedField)] (.fabs d b k) from rfl).trans (accept_ok (wf_checks wf)))
theorem fneg (d : BitVec 6) (b : BitVec 6) (k : BitVec 3) : Statement (.fneg d b k) :=
  fun wf _ rest => decodeHalves_word rest (by rw [fmtV_op]; rfl)
    ((decode_Major26 _ _ _ _ _).trans <|
      (show decMajor26 8#4 k b 0#6 d = accept [(decide (0#6 = 0#6), .reservedField)] (.fneg d b k) from rfl).trans (accept_ok (wf_checks wf)))
theorem fcmpEq (d : BitVec 6) (a : BitVec 6) (b : BitVec 6) (k : BitVec 3) : Statement (.fcmpEq d a b k) :=
  fun wf _ rest => decodeHalves_word rest (by rw [fmtV_op]; rfl)
    ((decode_Major26 _ _ _ _ _).trans <|
      (show decMajor26 9#4 k b a d = accept [] (.fcmpEq d a b k) from rfl).trans (accept_ok (wf_checks wf)))
theorem fcmpLt (d : BitVec 6) (a : BitVec 6) (b : BitVec 6) (k : BitVec 3) : Statement (.fcmpLt d a b k) :=
  fun wf _ rest => decodeHalves_word rest (by rw [fmtV_op]; rfl)
    ((decode_Major26 _ _ _ _ _).trans <|
      (show decMajor26 10#4 k b a d = accept [] (.fcmpLt d a b k) from rfl).trans (accept_ok (wf_checks wf)))
theorem fcmpLe (d : BitVec 6) (a : BitVec 6) (b : BitVec 6) (k : BitVec 3) : Statement (.fcmpLe d a b k) :=
  fun wf _ rest => decodeHalves_word rest (by rw [fmtV_op]; rfl)
    ((decode_Major26 _ _ _ _ _).trans <|
      (show decMajor26 11#4 k b a d = accept [] (.fcmpLe d a b k) from rfl).trans (accept_ok (wf_checks wf)))
theorem fcmpUn (d : BitVec 6) (a : BitVec 6) (b : BitVec 6) (k : BitVec 3) : Statement (.fcmpUn d a b k) :=
  fun wf _ rest => decodeHalves_word rest (by rw [fmtV_op]; rfl)
    ((decode_Major26 _ _ _ _ _).trans <|
      (show decMajor26 12#4 k b a d = accept [] (.fcmpUn d a b k) from rfl).trans (accept_ok (wf_checks wf)))
theorem fclass (d : BitVec 6) (b : BitVec 6) (k : BitVec 3) : Statement (.fclass d b k) :=
  fun wf _ rest => decodeHalves_word rest (by rw [fmtV_op]; rfl)
    ((decode_Major26 _ _ _ _ _).trans <|
      (show decMajor26 13#4 k b 0#6 d = accept [(decide (0#6 = 0#6), .reservedField)] (.fclass d b k) from rfl).trans (accept_ok (wf_checks wf)))
theorem fscl (d : BitVec 6) (a : BitVec 6) (b : BitVec 6) (k : BitVec 3) : Statement (.fscl d a b k) :=
  fun wf _ rest => decodeHalves_word rest (by rw [fmtV_op]; rfl)
    ((decode_Major26 _ _ _ _ _).trans <|
      (show decMajor26 14#4 k b a d = accept [] (.fscl d a b k) from rfl).trans (accept_ok (wf_checks wf)))
theorem fround (d : BitVec 6) (b : BitVec 6) (k : BitVec 3) : Statement (.fround d b k) :=
  fun wf _ rest => decodeHalves_word rest (by rw [fmtV_op]; rfl)
    ((decode_Major26 _ _ _ _ _).trans <|
      (show decMajor26 15#4 k b 0#6 d = accept [(decide (0#6 = 0#6), .reservedField)] (.fround d b k) from rfl).trans (accept_ok (wf_checks wf)))
theorem fcvtFi (d : BitVec 6) (a : BitVec 6) (k : BitVec 3) : Statement (.fcvtFi d a k) :=
  fun wf _ rest => decodeHalves_word rest (by rw [fmtV_op]; rfl)
    ((decode_Major27 _ _ _ _ _).trans <|
      (show decMajor27 0#4 k 0#6 a d = accept [(decide (0#6 = 0#6), .reservedField)] (.fcvtFi d a k) from rfl).trans (accept_ok (wf_checks wf)))
theorem fcvtIf (d : BitVec 6) (a : BitVec 6) (k : BitVec 3) : Statement (.fcvtIf d a k) :=
  fun wf _ rest => decodeHalves_word rest (by rw [fmtV_op]; rfl)
    ((decode_Major27 _ _ _ _ _).trans <|
      (show decMajor27 1#4 k 0#6 a d = accept [(decide (0#6 = 0#6), .reservedField)] (.fcvtIf d a k) from rfl).trans (accept_ok (wf_checks wf)))
theorem fredsum (d : BitVec 6) (a : BitVec 6) (k : BitVec 3) : Statement (.fredsum d a k) :=
  fun wf _ rest => decodeHalves_word rest (by rw [fmtV_op]; rfl)
    ((decode_Major27 _ _ _ _ _).trans <|
      (show decMajor27 2#4 k 0#6 a d = accept [(decide (0#6 = 0#6), .reservedField)] (.fredsum d a k) from rfl).trans (accept_ok (wf_checks wf)))
theorem fredmax (d : BitVec 6) (a : BitVec 6) (k : BitVec 3) : Statement (.fredmax d a k) :=
  fun wf _ rest => decodeHalves_word rest (by rw [fmtV_op]; rfl)
    ((decode_Major27 _ _ _ _ _).trans <|
      (show decMajor27 3#4 k 0#6 a d = accept [(decide (0#6 = 0#6), .reservedField)] (.fredmax d a k) from rfl).trans (accept_ok (wf_checks wf)))
theorem fredmin (d : BitVec 6) (a : BitVec 6) (k : BitVec 3) : Statement (.fredmin d a k) :=
  fun wf _ rest => decodeHalves_word rest (by rw [fmtV_op]; rfl)
    ((decode_Major27 _ _ _ _ _).trans <|
      (show decMajor27 4#4 k 0#6 a d = accept [(decide (0#6 = 0#6), .reservedField)] (.fredmin d a k) from rfl).trans (accept_ok (wf_checks wf)))
theorem fdot (d : BitVec 6) (a : BitVec 6) (b : BitVec 6) (k : BitVec 3) : Statement (.fdot d a b k) :=
  fun wf _ rest => decodeHalves_word rest (by rw [fmtV_op]; rfl)
    ((decode_Major27 _ _ _ _ _).trans <|
      (show decMajor27 5#4 k b a d = accept [] (.fdot d a b k) from rfl).trans (accept_ok (wf_checks wf)))
theorem kand (d : BitVec 6) (a : BitVec 6) (b : BitVec 6) : Statement (.kand d a b) :=
  fun wf _ rest => decodeHalves_word rest (by rw [fmtV_op]; rfl)
    ((decode_Major27 _ _ _ _ _).trans <|
      (show decMajor27 6#4 0#3 b a d = accept [(decide (0#3 = 0#3), .reservedField)] (.kand d a b) from rfl).trans (accept_ok (wf_checks wf)))
theorem kor (d : BitVec 6) (a : BitVec 6) (b : BitVec 6) : Statement (.kor d a b) :=
  fun wf _ rest => decodeHalves_word rest (by rw [fmtV_op]; rfl)
    ((decode_Major27 _ _ _ _ _).trans <|
      (show decMajor27 7#4 0#3 b a d = accept [(decide (0#3 = 0#3), .reservedField)] (.kor d a b) from rfl).trans (accept_ok (wf_checks wf)))
theorem kxor (d : BitVec 6) (a : BitVec 6) (b : BitVec 6) : Statement (.kxor d a b) :=
  fun wf _ rest => decodeHalves_word rest (by rw [fmtV_op]; rfl)
    ((decode_Major27 _ _ _ _ _).trans <|
      (show decMajor27 8#4 0#3 b a d = accept [(decide (0#3 = 0#3), .reservedField)] (.kxor d a b) from rfl).trans (accept_ok (wf_checks wf)))
theorem knot (d : BitVec 6) (a : BitVec 6) : Statement (.knot d a) :=
  fun wf _ rest => decodeHalves_word rest (by rw [fmtV_op]; rfl)
    ((decode_Major27 _ _ _ _ _).trans <|
      (show decMajor27 9#4 0#3 0#6 a d = accept [(decide (0#3 = 0#3), .reservedField), (decide (0#6 = 0#6), .reservedField)] (.knot d a) from rfl).trans (accept_ok (wf_checks wf)))
theorem kfs (d : BitVec 6) (a : BitVec 6) : Statement (.kfs d a) :=
  fun wf _ rest => decodeHalves_word rest (by rw [fmtV_op]; rfl)
    ((decode_Major27 _ _ _ _ _).trans <|
      (show decMajor27 10#4 0#3 0#6 a d = accept [(decide (0#3 = 0#3), .reservedField), (decide (0#6 = 0#6), .reservedField)] (.kfs d a) from rfl).trans (accept_ok (wf_checks wf)))
theorem ksf (d : BitVec 6) (a : BitVec 6) : Statement (.ksf d a) :=
  fun wf _ rest => decodeHalves_word rest (by rw [fmtV_op]; rfl)
    ((decode_Major27 _ _ _ _ _).trans <|
      (show decMajor27 11#4 0#3 0#6 a d = accept [(decide (0#3 = 0#3), .reservedField), (decide (0#6 = 0#6), .reservedField)] (.ksf d a) from rfl).trans (accept_ok (wf_checks wf)))
theorem vwinImm (count : BitVec 7) (cls : BitVec 6) : Statement (.vwinImm count cls) :=
  fun wf _ rest => decodeHalves_word rest (by rw [fmtV_op]; rfl)
    ((decode_Major27 _ _ _ _ _).trans <|
      by
        have e1 : (0#2 ++ (count.extractLsb' 6 1) : BitVec 3).extractLsb' 0 1 = (count.extractLsb' 6 1) := field_low _ _
        exact (show decMajor27 12#4 (0#2 ++ (count.extractLsb' 6 1) : BitVec 3) 0#6 cls (count.extractLsb' 0 6) = if (0#2 ++ (count.extractLsb' 6 1) : BitVec 3).extractLsb' 1 2 = 0#2 then accept [(decide (0#6 = 0#6), .reservedField)] (.vwinImm (((0#2 ++ (count.extractLsb' 6 1) : BitVec 3).extractLsb' 0 1) ++ (count.extractLsb' 0 6)) cls) else _ from rfl).trans ((if_pos ((field_above _ _ 0 2).trans <| field_top _)).trans (by rw [e1, join_6_1]; exact accept_ok (wf_checks wf))))
theorem vwinReg (d : BitVec 6) (a : BitVec 6) : Statement (.vwinReg d a) :=
  fun wf _ rest => decodeHalves_word rest (by rw [fmtV_op]; rfl)
    ((decode_Major27 _ _ _ _ _).trans <|
      (show decMajor27 12#4 2#3 0#6 a d = accept [(decide (2#3 = 2#3), .reservedField), (decide (0#6 = 0#6), .reservedField)] (.vwinReg d a) from rfl).trans (accept_ok (wf_checks wf)))
theorem ffma (d : BitVec 6) (a : BitVec 6) (b : BitVec 6) (c : BitVec 6) (k1en : BitVec 1) : Statement (.ffma d a b c k1en) :=
  fun wf _ rest => decodeHalves_word rest (by rw [fmtV4_op]; rfl)
    ((decode_Major28 _ _ _ _ _).trans <|
      (show decMajor28 k1en c b a d = accept [] (.ffma d a b c k1en) from rfl).trans (accept_ok (wf_checks wf)))
theorem ffms (d : BitVec 6) (a : BitVec 6) (b : BitVec 6) (c : BitVec 6) (k1en : BitVec 1) : Statement (.ffms d a b c k1en) :=
  fun wf _ rest => decodeHalves_word rest (by rw [fmtV4_op]; rfl)
    ((decode_Major29 _ _ _ _ _).trans <|
      (show decMajor29 k1en c b a d = accept [] (.ffms d a b c k1en) from rfl).trans (accept_ok (wf_checks wf)))
theorem fnma (d : BitVec 6) (a : BitVec 6) (b : BitVec 6) (c : BitVec 6) (k1en : BitVec 1) : Statement (.fnma d a b c k1en) :=
  fun wf _ rest => decodeHalves_word rest (by rw [fmtV4_op]; rfl)
    ((decode_Major2A _ _ _ _ _).trans <|
      (show decMajor2A k1en c b a d = accept [] (.fnma d a b c k1en) from rfl).trans (accept_ok (wf_checks wf)))
theorem vldUnit (v : BitVec 6) (s : BitVec 5) (k : BitVec 3) (ty : BitVec 3) : Statement (.vldUnit v s k ty) :=
  fun wf _ rest => decodeHalves_word rest (by rw [fmtVM_op]; rfl)
    ((decode_Major2C _ _ _ _ _ _).trans <|
      (show decMajor2C 0#3 ty k 0#5 s v = accept [(decide (0#5 = 0#5), .reservedField)] (.vldUnit v s k ty) from rfl).trans (accept_ok (wf_checks wf)))
theorem vldStrided (v : BitVec 6) (s : BitVec 5) (x : BitVec 5) (k : BitVec 3) (ty : BitVec 3) : Statement (.vldStrided v s x k ty) :=
  fun wf _ rest => decodeHalves_word rest (by rw [fmtVM_op]; rfl)
    ((decode_Major2C _ _ _ _ _ _).trans <|
      (show decMajor2C 1#3 ty k x s v = accept [] (.vldStrided v s x k ty) from rfl).trans (accept_ok (wf_checks wf)))
theorem vldGather (v : BitVec 6) (s : BitVec 5) (x : BitVec 5) (k : BitVec 3) (ty : BitVec 3) : Statement (.vldGather v s x k ty) :=
  fun wf _ rest => decodeHalves_word rest (by rw [fmtVM_op]; rfl)
    ((decode_Major2C _ _ _ _ _ _).trans <|
      (show decMajor2C 2#3 ty k x s v = accept [] (.vldGather v s x k ty) from rfl).trans (accept_ok (wf_checks wf)))
theorem vstUnit (v : BitVec 6) (s : BitVec 5) (k : BitVec 3) (ty : BitVec 3) : Statement (.vstUnit v s k ty) :=
  fun wf _ rest => decodeHalves_word rest (by rw [fmtVM_op]; rfl)
    ((decode_Major2D _ _ _ _ _ _).trans <|
      (show decMajor2D 0#3 ty k 0#5 s v = accept [(decide (0#5 = 0#5), .reservedField)] (.vstUnit v s k ty) from rfl).trans (accept_ok (wf_checks wf)))
theorem vstStrided (v : BitVec 6) (s : BitVec 5) (x : BitVec 5) (k : BitVec 3) (ty : BitVec 3) : Statement (.vstStrided v s x k ty) :=
  fun wf _ rest => decodeHalves_word rest (by rw [fmtVM_op]; rfl)
    ((decode_Major2D _ _ _ _ _ _).trans <|
      (show decMajor2D 1#3 ty k x s v = accept [] (.vstStrided v s x k ty) from rfl).trans (accept_ok (wf_checks wf)))
theorem vstScatter (v : BitVec 6) (s : BitVec 5) (x : BitVec 5) (k : BitVec 3) (ty : BitVec 3) : Statement (.vstScatter v s x k ty) :=
  fun wf _ rest => decodeHalves_word rest (by rw [fmtVM_op]; rfl)
    ((decode_Major2D _ _ _ _ _ _).trans <|
      (show decMajor2D 2#3 ty k x s v = accept [] (.vstScatter v s x k ty) from rfl).trans (accept_ok (wf_checks wf)))
theorem vldd (v : BitVec 6) (s : BitVec 5) (x : BitVec 5) (k : BitVec 3) : Statement (.vldd v s x k) :=
  fun wf _ rest => decodeHalves_word rest (by rw [fmtVM_op]; rfl)
    ((decode_Major2E _ _ _ _ _ _).trans <|
      (show decMajor2E 0#3 0#3 k x s v = accept [(decide (0#3 = 0#3), .reservedField)] (.vldd v s x k) from rfl).trans (accept_ok (wf_checks wf)))
theorem vstd (v : BitVec 6) (s : BitVec 5) (x : BitVec 5) (k : BitVec 3) : Statement (.vstd v s x k) :=
  fun wf _ rest => decodeHalves_word rest (by rw [fmtVM_op]; rfl)
    ((decode_Major2E _ _ _ _ _ _).trans <|
      (show decMajor2E 1#3 0#3 k x s v = accept [(decide (0#3 = 0#3), .reservedField)] (.vstd v s x k) from rfl).trans (accept_ok (wf_checks wf)))
theorem vstdp (v : BitVec 6) (s : BitVec 5) (x : BitVec 5) (k : BitVec 3) : Statement (.vstdp v s x k) :=
  fun wf _ rest => decodeHalves_word rest (by rw [fmtVM_op]; rfl)
    ((decode_Major2E _ _ _ _ _ _).trans <|
      (show decMajor2E 2#3 0#3 k x s v = accept [(decide (0#3 = 0#3), .reservedField)] (.vstdp v s x k) from rfl).trans (accept_ok (wf_checks wf)))
theorem vqntPeb7 (v : BitVec 6) (s : BitVec 5) : Statement (.vqntPeb7 v s) :=
  fun wf _ rest => decodeHalves_word rest (by rw [fmtVM_op]; rfl)
    ((decode_Major2E _ _ _ _ _ _).trans <|
      (show decMajor2E 3#3 0#3 0#3 0#5 s v = accept [(decide (0#3 = 0#3), .reservedField), (decide (0#5 = 0#5), .reservedField)] (.vqntPeb7 v s) from rfl).trans (accept_ok (wf_checks wf)))
theorem vqntPeb3 (v : BitVec 6) (s : BitVec 5) : Statement (.vqntPeb3 v s) :=
  fun wf _ rest => decodeHalves_word rest (by rw [fmtVM_op]; rfl)
    ((decode_Major2E _ _ _ _ _ _).trans <|
      (show decMajor2E 3#3 1#3 0#3 0#5 s v = accept [(decide (0#3 = 0#3), .reservedField), (decide (0#5 = 0#5), .reservedField)] (.vqntPeb3 v s) from rfl).trans (accept_ok (wf_checks wf)))
theorem acc (v : BitVec 6) (s : BitVec 5) (k : BitVec 3) (ty : BitVec 3) : Statement (.acc v s k ty) :=
  fun wf _ rest => decodeHalves_word rest (by rw [fmtVM_op]; rfl)
    ((decode_Major2E _ _ _ _ _ _).trans <|
      (show decMajor2E 4#3 ty k 0#5 s v = accept [(decide (0#5 = 0#5), .reservedField)] (.acc v s k ty) from rfl).trans (accept_ok (wf_checks wf)))
theorem accD (v : BitVec 6) (s : BitVec 5) (x : BitVec 5) (k : BitVec 3) : Statement (.accD v s x k) :=
  fun wf _ rest => decodeHalves_word rest (by rw [fmtVM_op]; rfl)
    ((decode_Major2E _ _ _ _ _ _).trans <|
      (show decMajor2E 5#3 0#3 k x s v = accept [(decide (0#3 = 0#3), .reservedField)] (.accD v s x k) from rfl).trans (accept_ok (wf_checks wf)))
theorem sbind (v : BitVec 6) (a : BitVec 5) : Statement (.sbind v a) :=
  fun wf _ rest => decodeHalves_word rest (by rw [fmtSB_op]; rfl)
    ((decode_Major2F _ _ _ _ _).trans <|
      (show decMajor2F 0#4 0#6 0#4 a v = accept [(decide (0#4 = 0#4), .reservedField), (decide (0#4 = 0#4), .reservedField)] (.sbind v a) from rfl).trans (accept_ok (wf_checks wf)))
theorem sunbind (v : BitVec 6) : Statement (.sunbind v) :=
  fun wf _ rest => decodeHalves_word rest (by rw [fmtSB_op]; rfl)
    ((decode_Major2F _ _ _ _ _).trans <|
      (show decMajor2F 0#4 1#6 0#4 0#5 v = accept [(decide (0#4 = 0#4), .reservedField), (decide (0#4 = 0#4), .reservedField), (decide (0#5 = 0#5), .reservedField)] (.sunbind v) from rfl).trans (accept_ok (wf_checks wf)))
theorem sstat (v : BitVec 6) (a : BitVec 5) : Statement (.sstat v a) :=
  fun wf _ rest => decodeHalves_word rest (by rw [fmtSB_op]; rfl)
    ((decode_Major2F _ _ _ _ _).trans <|
      (show decMajor2F 0#4 2#6 0#4 a v = accept [(decide (0#4 = 0#4), .reservedField), (decide (0#4 = 0#4), .reservedField)] (.sstat v a) from rfl).trans (accept_ok (wf_checks wf)))
theorem mma (d : BitVec 4) (a : BitVec 4) (b : BitVec 4) : Statement (.mma d a b) :=
  fun wf _ rest => decodeHalves_word rest (by rw [fmtT_op]; rfl)
    ((decode_Major30 _ _ _ _ _ _).trans <|
      (show decMajor30 0#5 0#4 0#4 b a d = accept [(decide (0#4 = 0#4), .reservedField), (decide (0#4 = 0#4), .reservedField)] (.mma d a b) from rfl).trans (accept_ok (wf_checks wf)))
theorem mmaDc (d : BitVec 4) (a : BitVec 4) (b : BitVec 4) (h : BitVec 1) : Statement (.mmaDc d a b h) :=
  fun wf _ rest => decodeHalves_word rest (by rw [fmtT_op]; rfl)
    ((decode_Major30 _ _ _ _ _ _).trans <|
      by
        have e1 : (0#2 ++ h ++ 1#1 : BitVec 4).extractLsb' 2 2 = 0#2 := (field_above _ 1#1 1 2).trans <| (field_above _ h 0 2).trans <| field_top _
        have e2 : (0#2 ++ h ++ 1#1 : BitVec 4).extractLsb' 1 1 = h := (field_above _ 1#1 0 1).trans <| field_low _ _
        have e0 : (0#2 ++ h ++ 1#1 : BitVec 4).extractLsb' 0 1 = 1#1 := field_low _ _
        exact (show decMajor30 0#5 (0#2 ++ h ++ 1#1 : BitVec 4) 0#4 b a d = if (0#2 ++ h ++ 1#1 : BitVec 4).extractLsb' 0 1 = 0#1 then _ else if (0#2 ++ h ++ 1#1 : BitVec 4).extractLsb' 0 1 = 1#1 then accept [(decide ((0#2 ++ h ++ 1#1 : BitVec 4).extractLsb' 2 2 = 0#2), .reservedField), (decide (0#4 = 0#4), .reservedField)] (.mmaDc d a b ((0#2 ++ h ++ 1#1 : BitVec 4).extractLsb' 1 1)) else _ from rfl).trans ((if_neg (by rw [e0]; decide)).trans ((if_pos e0).trans (by rw [e1, e2]; exact accept_ok (wf_checks wf)))))
theorem mmab (d : BitVec 4) (a : BitVec 4) (b : BitVec 4) (part : BitVec 2) : Statement (.mmab d a b part) :=
  fun wf _ rest => decodeHalves_word rest (by rw [fmtT_op]; rfl)
    ((decode_Major30 _ _ _ _ _ _).trans <|
      by
        have e1 : (0#2 ++ part : BitVec 4).extractLsb' 2 2 = 0#2 := (field_above _ _ 0 2).trans <| field_top _
        have e2 : (0#2 ++ part : BitVec 4).extractLsb' 0 2 = part := field_low _ _
        exact (show decMajor30 1#5 (0#2 ++ part : BitVec 4) 0#4 b a d = accept [(decide ((0#2 ++ part : BitVec 4).extractLsb' 2 2 = 0#2), .reservedField), (decide (0#4 = 0#4), .reservedField)] (.mmab d a b ((0#2 ++ part : BitVec 4).extractLsb' 0 2)) from rfl).trans (by rw [e1, e2]; exact accept_ok (wf_checks wf)))
theorem mmas (d : BitVec 4) (a : BitVec 4) (b : BitVec 4) (c : BitVec 4) : Statement (.mmas d a b c) :=
  fun wf _ rest => decodeHalves_word rest (by rw [fmtT_op]; rfl)
    ((decode_Major30 _ _ _ _ _ _).trans <|
      (show decMajor30 2#5 0#4 c b a d = accept [(decide (0#4 = 0#4), .reservedField)] (.mmas d a b c) from rfl).trans (accept_ok (wf_checks wf)))
theorem maddt (d : BitVec 4) (a : BitVec 4) (b : BitVec 4) : Statement (.maddt d a b) :=
  fun wf _ rest => decodeHalves_word rest (by rw [fmtT_op]; rfl)
    ((decode_Major30 _ _ _ _ _ _).trans <|
      (show decMajor30 3#5 0#4 0#4 b a d = accept [(decide (0#4 = 0#4), .reservedField), (decide (0#4 = 0#4), .reservedField)] (.maddt d a b) from rfl).trans (accept_ok (wf_checks wf)))
theorem msubt (d : BitVec 4) (a : BitVec 4) (b : BitVec 4) : Statement (.msubt d a b) :=
  fun wf _ rest => decodeHalves_word rest (by rw [fmtT_op]; rfl)
    ((decode_Major30 _ _ _ _ _ _).trans <|
      (show decMajor30 4#5 0#4 0#4 b a d = accept [(decide (0#4 = 0#4), .reservedField), (decide (0#4 = 0#4), .reservedField)] (.msubt d a b) from rfl).trans (accept_ok (wf_checks wf)))
theorem mscl (d : BitVec 4) (a : BitVec 4) (s : BitVec 5) : Statement (.mscl d a s) :=
  fun wf _ rest => decodeHalves_word rest (by rw [fmtT_op]; rfl)
    ((decode_Major30 _ _ _ _ _ _).trans <|
      by
        have e1 : (0#3 ++ (s.extractLsb' 4 1) : BitVec 4).extractLsb' 1 3 = 0#3 := (field_above _ _ 0 3).trans <| field_top _
        have e2 : (0#3 ++ (s.extractLsb' 4 1) : BitVec 4).extractLsb' 0 1 = (s.extractLsb' 4 1) := field_low _ _
        exact (show decMajor30 5#5 0#4 (0#3 ++ (s.extractLsb' 4 1) : BitVec 4) (s.extractLsb' 0 4) a d = accept [(decide (0#4 = 0#4), .reservedField), (decide ((0#3 ++ (s.extractLsb' 4 1) : BitVec 4).extractLsb' 1 3 = 0#3), .reservedField)] (.mscl d a (((0#3 ++ (s.extractLsb' 4 1) : BitVec 4).extractLsb' 0 1) ++ (s.extractLsb' 0 4))) from rfl).trans (by rw [e1, e2, join_4_1]; exact accept_ok (wf_checks wf)))
theorem mzero (d : BitVec 4) (tag : BitVec 4) : Statement (.mzero d tag) :=
  fun wf _ rest => decodeHalves_word rest (by rw [fmtT_op]; rfl)
    ((decode_Major30 _ _ _ _ _ _).trans <|
      (show decMajor30 6#5 tag 0#4 0#4 0#4 d = accept [(decide (0#4 = 0#4), .reservedField), (decide (0#4 = 0#4), .reservedField), (decide (0#4 = 0#4), .reservedField)] (.mzero d tag) from rfl).trans (accept_ok (wf_checks wf)))
theorem mcvt (d : BitVec 4) (a : BitVec 4) (h : BitVec 3) (tag : BitVec 4) : Statement (.mcvt d a h tag) :=
  fun wf _ rest => decodeHalves_word rest (by rw [fmtT_op]; rfl)
    ((decode_Major30 _ _ _ _ _ _).trans <|
      by
        have e1 : (0#1 ++ h : BitVec 4).extractLsb' 3 1 = 0#1 := (field_above _ _ 0 1).trans <| field_top _
        have e2 : (0#1 ++ h : BitVec 4).extractLsb' 0 3 = h := field_low _ _
        exact (show decMajor30 7#5 tag (0#1 ++ h : BitVec 4) 0#4 a d = accept [(decide ((0#1 ++ h : BitVec 4).extractLsb' 3 1 = 0#1), .reservedField), (decide (0#4 = 0#4), .reservedField)] (.mcvt d a ((0#1 ++ h : BitVec 4).extractLsb' 0 3) tag) from rfl).trans (by rw [e1, e2]; exact accept_ok (wf_checks wf)))
theorem mtrn (d : BitVec 4) (a : BitVec 4) (h : BitVec 1) : Statement (.mtrn d a h) :=
  fun wf _ rest => decodeHalves_word rest (by rw [fmtT_op]; rfl)
    ((decode_Major30 _ _ _ _ _ _).trans <|
      by
        have e1 : (0#3 ++ h : BitVec 4).extractLsb' 1 3 = 0#3 := (field_above _ _ 0 3).trans <| field_top _
        have e2 : (0#3 ++ h : BitVec 4).extractLsb' 0 1 = h := field_low _ _
        exact (show decMajor30 8#5 0#4 (0#3 ++ h : BitVec 4) 0#4 a d = accept [(decide (0#4 = 0#4), .reservedField), (decide ((0#3 ++ h : BitVec 4).extractLsb' 1 3 = 0#3), .reservedField), (decide (0#4 = 0#4), .reservedField)] (.mtrn d a ((0#3 ++ h : BitVec 4).extractLsb' 0 1)) from rfl).trans (by rw [e1, e2]; exact accept_ok (wf_checks wf)))
theorem mchol (d : BitVec 4) (a : BitVec 4) : Statement (.mchol d a) :=
  fun wf _ rest => decodeHalves_word rest (by rw [fmtT_op]; rfl)
    ((decode_Major30 _ _ _ _ _ _).trans <|
      (show decMajor30 9#5 0#4 0#4 0#4 a d = accept [(decide (0#4 = 0#4), .reservedField), (decide (0#4 = 0#4), .reservedField), (decide (0#4 = 0#4), .reservedField)] (.mchol d a) from rfl).trans (accept_ok (wf_checks wf)))
theorem mtrsv (v : BitVec 6) (a : BitVec 4) (mode : BitVec 2) : Statement (.mtrsv v a mode) :=
  fun wf _ rest => decodeHalves_word rest (by rw [fmtT_op]; rfl)
    ((decode_Major30 _ _ _ _ _ _).trans <|
      by
        have e1 : (0#2 ++ mode : BitVec 4).extractLsb' 2 2 = 0#2 := (field_above _ _ 0 2).trans <| field_top _
        have e2 : (0#2 ++ mode : BitVec 4).extractLsb' 0 2 = mode := field_low _ _
        have e3 : (0#2 ++ (v.extractLsb' 4 2) : BitVec 4).extractLsb' 2 2 = 0#2 := (field_above _ _ 0 2).trans <| field_top _
        have e4 : (0#2 ++ (v.extractLsb' 4 2) : BitVec 4).extractLsb' 0 2 = (v.extractLsb' 4 2) := field_low _ _
        exact (show decMajor30 10#5 (0#2 ++ mode : BitVec 4) (0#2 ++ (v.extractLsb' 4 2) : BitVec 4) 0#4 a (v.extractLsb' 0 4) = accept [(decide ((0#2 ++ mode : BitVec 4).extractLsb' 2 2 = 0#2), .reservedField), (decide ((0#2 ++ (v.extractLsb' 4 2) : BitVec 4).extractLsb' 2 2 = 0#2), .reservedField), (decide (0#4 = 0#4), .reservedField)] (.mtrsv (((0#2 ++ (v.extractLsb' 4 2) : BitVec 4).extractLsb' 0 2) ++ (v.extractLsb' 0 4)) a ((0#2 ++ mode : BitVec 4).extractLsb' 0 2)) from rfl).trans (by rw [e1, e2, e3, e4, join_4_2]; exact accept_ok (wf_checks wf)))
theorem mstat (d : BitVec 5) (a : BitVec 4) : Statement (.mstat d a) :=
  fun wf _ rest => decodeHalves_word rest (by rw [fmtT_op]; rfl)
    ((decode_Major30 _ _ _ _ _ _).trans <|
      by
        have e1 : (0#3 ++ (d.extractLsb' 4 1) : BitVec 4).extractLsb' 1 3 = 0#3 := (field_above _ _ 0 3).trans <| field_top _
        have e2 : (0#3 ++ (d.extractLsb' 4 1) : BitVec 4).extractLsb' 0 1 = (d.extractLsb' 4 1) := field_low _ _
        exact (show decMajor30 11#5 0#4 (0#3 ++ (d.extractLsb' 4 1) : BitVec 4) 0#4 a (d.extractLsb' 0 4) = accept [(decide (0#4 = 0#4), .reservedField), (decide ((0#3 ++ (d.extractLsb' 4 1) : BitVec 4).extractLsb' 1 3 = 0#3), .reservedField), (decide (0#4 = 0#4), .reservedField)] (.mstat (((0#3 ++ (d.extractLsb' 4 1) : BitVec 4).extractLsb' 0 1) ++ (d.extractLsb' 0 4)) a) from rfl).trans (by rw [e1, e2, join_4_1]; exact accept_ok (wf_checks wf)))
theorem twinImm (count : BitVec 5) : Statement (.twinImm count) :=
  fun wf _ rest => decodeHalves_word rest (by rw [fmtT_op]; rfl)
    ((decode_Major30 _ _ _ _ _ _).trans <|
      by
        have e1 : (0#3 ++ (count.extractLsb' 4 1) : BitVec 4).extractLsb' 1 3 = 0#3 := (field_above _ _ 0 3).trans <| field_top _
        have e2 : (0#3 ++ (count.extractLsb' 4 1) : BitVec 4).extractLsb' 0 1 = (count.extractLsb' 4 1) := field_low _ _
        exact (show decMajor30 12#5 0#4 (0#3 ++ (count.extractLsb' 4 1) : BitVec 4) 0#4 0#4 (count.extractLsb' 0 4) = accept [(decide ((0#3 ++ (count.extractLsb' 4 1) : BitVec 4).extractLsb' 1 3 = 0#3), .reservedField), (decide (0#4 = 0#4), .reservedField), (decide (0#4 = 0#4), .reservedField)] (.twinImm (((0#3 ++ (count.extractLsb' 4 1) : BitVec 4).extractLsb' 0 1) ++ (count.extractLsb' 0 4))) from rfl).trans (by rw [e1, e2, join_4_1]; exact accept_ok (wf_checks wf)))
theorem twinReg (a : BitVec 5) : Statement (.twinReg a) :=
  fun wf _ rest => decodeHalves_word rest (by rw [fmtT_op]; rfl)
    ((decode_Major30 _ _ _ _ _ _).trans <|
      by
        have e1 : (0#3 ++ (a.extractLsb' 4 1) : BitVec 4).extractLsb' 1 3 = 0#3 := (field_above _ _ 0 3).trans <| field_top _
        have e2 : (0#3 ++ (a.extractLsb' 4 1) : BitVec 4).extractLsb' 0 1 = (a.extractLsb' 4 1) := field_low _ _
        exact (show decMajor30 12#5 1#4 (0#3 ++ (a.extractLsb' 4 1) : BitVec 4) 0#4 (a.extractLsb' 0 4) 0#4 = accept [(decide ((0#3 ++ (a.extractLsb' 4 1) : BitVec 4).extractLsb' 1 3 = 0#3), .reservedField), (decide (0#4 = 0#4), .reservedField), (decide (0#4 = 0#4), .reservedField)] (.twinReg (((0#3 ++ (a.extractLsb' 4 1) : BitVec 4).extractLsb' 0 1) ++ (a.extractLsb' 0 4))) from rfl).trans (by rw [e1, e2, join_4_1]; exact accept_ok (wf_checks wf)))
theorem mldt (d : BitVec 4) (s : BitVec 5) (stride : BitVec 5) (tag : BitVec 4) : Statement (.mldt d s stride tag) :=
  fun wf _ rest => decodeHalves_word rest (by rw [fmtTM_op]; rfl)
    ((decode_Major31 _ _ _ _ _).trans <|
      (show decMajor31 0#7 tag stride s d = accept [(decide (0#7 = 0#7), .reservedField)] (.mldt d s stride tag) from rfl).trans (accept_ok (wf_checks wf)))
theorem mstt (d : BitVec 4) (s : BitVec 5) (stride : BitVec 5) (tag : BitVec 4) : Statement (.mstt d s stride tag) :=
  fun wf _ rest => decodeHalves_word rest (by rw [fmtTM_op]; rfl)
    ((decode_Major32 _ _ _ _ _).trans <|
      (show decMajor32 0#7 tag stride s d = accept [(decide (0#7 = 0#7), .reservedField)] (.mstt d s stride tag) from rfl).trans (accept_ok (wf_checks wf)))
theorem cpy (d : BitVec 5) (a : BitVec 5) (b : BitVec 5) (c : BitVec 5) : Statement (.cpy d a b c) :=
  fun wf _ rest => decodeHalves_word rest (by rw [fmtC_op]; rfl)
    ((decode_Major33 _ _ _ _ _).trans <|
      (show decMajor33 0#5 c b a d = accept [] (.cpy d a b c) from rfl).trans (accept_ok (wf_checks wf)))
theorem cpyt (d : BitVec 5) (a : BitVec 5) (b : BitVec 5) (c : BitVec 5) : Statement (.cpyt d a b c) :=
  fun wf _ rest => decodeHalves_word rest (by rw [fmtC_op]; rfl)
    ((decode_Major33 _ _ _ _ _).trans <|
      (show decMajor33 1#5 c b a d = accept [] (.cpyt d a b c) from rfl).trans (accept_ok (wf_checks wf)))
theorem cpym (d : BitVec 5) (a : BitVec 5) (b : BitVec 5) (c : BitVec 5) : Statement (.cpym d a b c) :=
  fun wf _ rest => decodeHalves_word rest (by rw [fmtC_op]; rfl)
    ((decode_Major33 _ _ _ _ _).trans <|
      (show decMajor33 2#5 c b a d = accept [] (.cpym d a b c) from rfl).trans (accept_ok (wf_checks wf)))
theorem ibxRecv (d : BitVec 5) (a : BitVec 5) : Statement (.ibxRecv d a) :=
  fun wf _ rest => decodeHalves_word rest (by rw [fmtC_op]; rfl)
    ((decode_Major33 _ _ _ _ _).trans <|
      (show decMajor33 3#5 0#5 0#5 a d = accept [(decide (0#5 = 0#5), .reservedField), (decide (0#5 = 0#5), .reservedField)] (.ibxRecv d a) from rfl).trans (accept_ok (wf_checks wf)))
theorem ibxTry (d : BitVec 5) (a : BitVec 5) : Statement (.ibxTry d a) :=
  fun wf _ rest => decodeHalves_word rest (by rw [fmtC_op]; rfl)
    ((decode_Major33 _ _ _ _ _).trans <|
      (show decMajor33 4#5 0#5 0#5 a d = accept [(decide (0#5 = 0#5), .reservedField), (decide (0#5 = 0#5), .reservedField)] (.ibxTry d a) from rfl).trans (accept_ok (wf_checks wf)))
theorem swpout (d : BitVec 5) (a : BitVec 5) (b : BitVec 5) (c : BitVec 5) : Statement (.swpout d a b c) :=
  fun wf _ rest => decodeHalves_word rest (by rw [fmtC_op]; rfl)
    ((decode_Major33 _ _ _ _ _).trans <|
      (show decMajor33 5#5 c b a d = accept [] (.swpout d a b c) from rfl).trans (accept_ok (wf_checks wf)))
theorem swpin (d : BitVec 5) (a : BitVec 5) (b : BitVec 5) (c : BitVec 5) : Statement (.swpin d a b c) :=
  fun wf _ rest => decodeHalves_word rest (by rw [fmtC_op]; rfl)
    ((decode_Major33 _ _ _ _ _).trans <|
      (show decMajor33 6#5 c b a d = accept [] (.swpin d a b c) from rfl).trans (accept_ok (wf_checks wf)))
theorem swpstat (d : BitVec 5) (a : BitVec 5) (b : BitVec 5) : Statement (.swpstat d a b) :=
  fun wf _ rest => decodeHalves_word rest (by rw [fmtC_op]; rfl)
    ((decode_Major33 _ _ _ _ _).trans <|
      (show decMajor33 7#5 0#5 b a d = accept [(decide (0#5 = 0#5), .reservedField)] (.swpstat d a b) from rfl).trans (accept_ok (wf_checks wf)))
theorem cVadd (d : BitVec 5) (b : BitVec 5) (m : BitVec 1) : Statement (.cVadd d b m) :=
  fun wf _ rest => decodeHalves_half _ _ _ _ rest <|
      (show decCompact m b d 0#4 = accept [] (.cVadd d b m) from rfl).trans (accept_ok (wf_checks wf))
theorem cVsub (d : BitVec 5) (b : BitVec 5) (m : BitVec 1) : Statement (.cVsub d b m) :=
  fun wf _ rest => decodeHalves_half _ _ _ _ rest <|
      (show decCompact m b d 1#4 = accept [] (.cVsub d b m) from rfl).trans (accept_ok (wf_checks wf))
theorem cVand (d : BitVec 5) (b : BitVec 5) (m : BitVec 1) : Statement (.cVand d b m) :=
  fun wf _ rest => decodeHalves_half _ _ _ _ rest <|
      (show decCompact m b d 2#4 = accept [] (.cVand d b m) from rfl).trans (accept_ok (wf_checks wf))
theorem cVor (d : BitVec 5) (b : BitVec 5) (m : BitVec 1) : Statement (.cVor d b m) :=
  fun wf _ rest => decodeHalves_half _ _ _ _ rest <|
      (show decCompact m b d 3#4 = accept [] (.cVor d b m) from rfl).trans (accept_ok (wf_checks wf))
theorem cVxor (d : BitVec 5) (b : BitVec 5) (m : BitVec 1) : Statement (.cVxor d b m) :=
  fun wf _ rest => decodeHalves_half _ _ _ _ rest <|
      (show decCompact m b d 4#4 = accept [] (.cVxor d b m) from rfl).trans (accept_ok (wf_checks wf))
theorem cVshl (d : BitVec 5) (b : BitVec 5) (m : BitVec 1) : Statement (.cVshl d b m) :=
  fun wf _ rest => decodeHalves_half _ _ _ _ rest <|
      (show decCompact m b d 5#4 = accept [] (.cVshl d b m) from rfl).trans (accept_ok (wf_checks wf))
theorem cVshr (d : BitVec 5) (b : BitVec 5) (m : BitVec 1) : Statement (.cVshr d b m) :=
  fun wf _ rest => decodeHalves_half _ _ _ _ rest <|
      (show decCompact m b d 6#4 = accept [] (.cVshr d b m) from rfl).trans (accept_ok (wf_checks wf))
theorem cVmin (d : BitVec 5) (b : BitVec 5) (m : BitVec 1) : Statement (.cVmin d b m) :=
  fun wf _ rest => decodeHalves_half _ _ _ _ rest <|
      (show decCompact m b d 7#4 = accept [] (.cVmin d b m) from rfl).trans (accept_ok (wf_checks wf))
theorem cVmax (d : BitVec 5) (b : BitVec 5) (m : BitVec 1) : Statement (.cVmax d b m) :=
  fun wf _ rest => decodeHalves_half _ _ _ _ rest <|
      (show decCompact m b d 8#4 = accept [] (.cVmax d b m) from rfl).trans (accept_ok (wf_checks wf))
theorem cFadd (d : BitVec 5) (b : BitVec 5) (m : BitVec 1) : Statement (.cFadd d b m) :=
  fun wf _ rest => decodeHalves_half _ _ _ _ rest <|
      (show decCompact m b d 9#4 = accept [] (.cFadd d b m) from rfl).trans (accept_ok (wf_checks wf))
theorem cFsub (d : BitVec 5) (b : BitVec 5) (m : BitVec 1) : Statement (.cFsub d b m) :=
  fun wf _ rest => decodeHalves_half _ _ _ _ rest <|
      (show decCompact m b d 10#4 = accept [] (.cFsub d b m) from rfl).trans (accept_ok (wf_checks wf))
theorem cFmul (d : BitVec 5) (b : BitVec 5) (m : BitVec 1) : Statement (.cFmul d b m) :=
  fun wf _ rest => decodeHalves_half _ _ _ _ rest <|
      (show decCompact m b d 11#4 = accept [] (.cFmul d b m) from rfl).trans (accept_ok (wf_checks wf))
theorem cFmin (d : BitVec 5) (b : BitVec 5) (m : BitVec 1) : Statement (.cFmin d b m) :=
  fun wf _ rest => decodeHalves_half _ _ _ _ rest <|
      (show decCompact m b d 12#4 = accept [] (.cFmin d b m) from rfl).trans (accept_ok (wf_checks wf))
theorem cFmax (d : BitVec 5) (b : BitVec 5) (m : BitVec 1) : Statement (.cFmax d b m) :=
  fun wf _ rest => decodeHalves_half _ _ _ _ rest <|
      (show decCompact m b d 13#4 = accept [] (.cFmax d b m) from rfl).trans (accept_ok (wf_checks wf))
theorem cFneg (d : BitVec 5) (b : BitVec 5) (m : BitVec 1) : Statement (.cFneg d b m) :=
  fun wf _ rest => decodeHalves_half _ _ _ _ rest <|
      (show decCompact m b d 14#4 = accept [] (.cFneg d b m) from rfl).trans (accept_ok (wf_checks wf))
theorem cFabs (d : BitVec 5) (b : BitVec 5) (m : BitVec 1) : Statement (.cFabs d b m) :=
  fun wf _ rest => decodeHalves_half _ _ _ _ rest <|
      (show decCompact m b d 15#4 = accept [] (.cFabs d b m) from rfl).trans (accept_ok (wf_checks wf))
theorem flushr : Statement .flushr :=
  fun wf _ rest => decodeHalves_word rest (by rw [fmtSs_op]; rfl)
    ((decode_Major1F _ _ _ _ _ _).trans <|
      (show decMajor1F 0#4 1#6 0#2 0#3 0#5 0#5 = accept [(decide (0#4 = 0#4), .lookahead), (decide (0#2 = 0#2), .reservedField), (decide (0#3 = 0#3), .reservedField), (decide (0#5 = 0#5), .reservedField), (decide (0#5 = 0#5), .reservedField)] (.flushr) from rfl).trans (accept_ok (wf_checks wf)))
theorem ifence : Statement .ifence :=
  fun wf _ rest => decodeHalves_word rest (by rw [fmtSs_op]; rfl)
    ((decode_Major1F _ _ _ _ _ _).trans <|
      (show decMajor1F 0#4 6#6 0#2 0#3 0#5 0#5 = accept [(decide (0#4 = 0#4), .lookahead), (decide (0#2 = 0#2), .reservedField), (decide (0#3 = 0#3), .reservedField), (decide (0#5 = 0#5), .reservedField), (decide (0#5 = 0#5), .reservedField)] (.ifence) from rfl).trans (accept_ok (wf_checks wf)))
theorem sync : Statement .sync :=
  fun wf _ rest => decodeHalves_word rest (by rw [fmtS_op]; rfl)
    ((decode_Major20 _ _ _ _ _).trans <|
      (show decMajor20 0#4 2#6 0#5 0#5 0#5 = accept [(decide (0#4 = 0#4), .lookahead), (decide (0#5 = 0#5), .reservedField), (decide (0#5 = 0#5), .reservedField), (decide (0#5 = 0#5), .reservedField)] (.sync) from rfl).trans (accept_ok (wf_checks wf)))
theorem tend : Statement .tend :=
  fun wf _ rest => decodeHalves_word rest (by rw [fmtS_op]; rfl)
    ((decode_Major20 _ _ _ _ _).trans <|
      (show decMajor20 0#4 4#6 0#5 0#5 0#5 = accept [(decide (0#4 = 0#4), .lookahead), (decide (0#5 = 0#5), .reservedField), (decide (0#5 = 0#5), .reservedField), (decide (0#5 = 0#5), .reservedField)] (.tend) from rfl).trans (accept_ok (wf_checks wf)))
theorem yield : Statement .yield :=
  fun wf _ rest => decodeHalves_word rest (by rw [fmtS_op]; rfl)
    ((decode_Major20 _ _ _ _ _).trans <|
      (show decMajor20 0#4 5#6 0#5 0#5 0#5 = accept [(decide (0#4 = 0#4), .lookahead), (decide (0#5 = 0#5), .reservedField), (decide (0#5 = 0#5), .reservedField), (decide (0#5 = 0#5), .reservedField)] (.yield) from rfl).trans (accept_ok (wf_checks wf)))
theorem rett : Statement .rett :=
  fun wf _ rest => decodeHalves_word rest (by rw [fmtTr_op]; rfl)
    ((decode_Major21 _ _ _ _).trans <|
      (show decMajor21 1#4 0#11 0#5 0#5 = accept [(decide (0#11 = 0#11), .reservedField), (decide (0#5 = 0#5), .reservedField), (decide (0#5 = 0#5), .reservedField)] (.rett) from rfl).trans (accept_ok (wf_checks wf)))
theorem replay : Statement .replay :=
  fun wf _ rest => decodeHalves_word rest (by rw [fmtTr_op]; rfl)
    ((decode_Major21 _ _ _ _).trans <|
      (show decMajor21 2#4 0#11 0#5 0#5 = accept [(decide (0#11 = 0#11), .reservedField), (decide (0#5 = 0#5), .reservedField), (decide (0#5 = 0#5), .reservedField)] (.replay) from rfl).trans (accept_ok (wf_checks wf)))
theorem wfi : Statement .wfi :=
  fun wf _ rest => decodeHalves_word rest (by rw [fmtTr_op]; rfl)
    ((decode_Major21 _ _ _ _).trans <|
      (show decMajor21 4#4 0#11 0#5 0#5 = accept [(decide (0#11 = 0#11), .reservedField), (decide (0#5 = 0#5), .reservedField), (decide (0#5 = 0#5), .reservedField)] (.wfi) from rfl).trans (accept_ok (wf_checks wf)))
theorem launchCommand : Statement .launchCommand :=
  fun _ h => nomatch h
theorem drainCommand : Statement .drainCommand :=
  fun _ h => nomatch h
theorem resumeCommand : Statement .resumeCommand :=
  fun _ h => nomatch h
theorem abortCommand : Statement .abortCommand :=
  fun _ h => nomatch h
theorem admissionGrant : Statement .admissionGrant :=
  fun _ h => nomatch h
theorem resumeReload : Statement .resumeReload :=
  fun _ h => nomatch h
theorem qpiWrite : Statement .qpiWrite :=
  fun _ h => nomatch h
theorem qcfgWrite : Statement .qcfgWrite :=
  fun _ h => nomatch h
theorem jrelWrite : Statement .jrelWrite :=
  fun _ h => nomatch h
theorem hostWindowWrite : Statement .hostWindowWrite :=
  fun _ h => nomatch h
theorem registerWrite : Statement .registerWrite :=
  fun _ h => nomatch h
theorem bankcfgWrite : Statement .bankcfgWrite :=
  fun _ h => nomatch h
theorem domWrite : Statement .domWrite :=
  fun _ h => nomatch h
theorem hselWrite : Statement .hselWrite :=
  fun _ h => nomatch h
theorem ptbrWrite : Statement .ptbrWrite :=
  fun _ h => nomatch h
theorem hostBar2Read : Statement .hostBar2Read :=
  fun _ h => nomatch h
theorem hostBar2Write : Statement .hostBar2Write :=
  fun _ h => nomatch h
theorem getCert : Statement .getCert :=
  fun _ h => nomatch h
theorem attest : Statement .attest :=
  fun _ h => nomatch h
theorem sealCmd : Statement .sealCmd :=
  fun _ h => nomatch h
theorem unsealCmd : Statement .unsealCmd :=
  fun _ h => nomatch h
theorem sealRange : Statement .sealRange :=
  fun _ h => nomatch h
theorem asidSet : Statement .asidSet :=
  fun _ h => nomatch h
theorem asidClear : Statement .asidClear :=
  fun _ h => nomatch h
theorem stvecSet : Statement .stvecSet :=
  fun _ h => nomatch h
theorem dqOpen : Statement .dqOpen :=
  fun _ h => nomatch h
theorem dqClose : Statement .dqClose :=
  fun _ h => nomatch h
theorem fenceStatus : Statement .fenceStatus :=
  fun _ h => nomatch h
theorem dbgHalt : Statement .dbgHalt :=
  fun _ h => nomatch h
theorem dbgRun : Statement .dbgRun :=
  fun _ h => nomatch h
theorem dbgStep : Statement .dbgStep :=
  fun _ h => nomatch h
theorem dbgRead : Statement .dbgRead :=
  fun _ h => nomatch h
theorem dbgWrite : Statement .dbgWrite :=
  fun _ h => nomatch h
theorem dbgCfg : Statement .dbgCfg :=
  fun _ h => nomatch h
theorem telem : Statement .telem :=
  fun _ h => nomatch h
theorem thrSet : Statement .thrSet :=
  fun _ h => nomatch h
theorem fnReset : Statement .fnReset :=
  fun _ h => nomatch h
theorem devReset : Statement .devReset :=
  fun _ h => nomatch h
theorem firmwareUpdate : Statement .firmwareUpdate :=
  fun _ h => nomatch h
theorem recoveryImage : Statement .recoveryImage :=
  fun _ h => nomatch h
theorem pldmDiscovery : Statement .pldmDiscovery :=
  fun _ h => nomatch h
theorem pldmSensorRead : Statement .pldmSensorRead :=
  fun _ h => nomatch h
theorem conventionalReset : Statement .conventionalReset :=
  fun _ h => nomatch h
theorem functionLevelReset : Statement .functionLevelReset :=
  fun _ h => nomatch h
theorem thermalTrip : Statement .thermalTrip :=
  fun _ h => nomatch h
theorem throttleTest : Statement .throttleTest :=
  fun _ h => nomatch h
theorem throttleRelax : Statement .throttleRelax :=
  fun _ h => nomatch h
theorem containmentFence : Statement .containmentFence :=
  fun _ h => nomatch h
theorem homeSoftError : Statement .homeSoftError :=
  fun _ h => nomatch h
theorem leaseHeartbeat : Statement .leaseHeartbeat :=
  fun _ h => nomatch h
theorem writeLeaseExpiry : Statement .writeLeaseExpiry :=
  fun _ h => nomatch h
theorem readLeaseExpiry : Statement .readLeaseExpiry :=
  fun _ h => nomatch h
theorem residualAgeExpiry : Statement .residualAgeExpiry :=
  fun _ h => nomatch h
theorem quotaWindowStart : Statement .quotaWindowStart :=
  fun _ h => nomatch h
theorem qwait : Statement .qwait :=
  fun _ h => nomatch h
theorem winDeadlock : Statement .winDeadlock :=
  fun _ h => nomatch h
theorem winDeadlockRetry : Statement .winDeadlockRetry :=
  fun _ h => nomatch h
theorem drainLimitExpiry : Statement .drainLimitExpiry :=
  fun _ h => nomatch h
theorem forcedSave : Statement .forcedSave :=
  fun _ h => nomatch h
theorem drainFinish : Statement .drainFinish :=
  fun _ h => nomatch h
theorem launchRetire : Statement .launchRetire :=
  fun _ h => nomatch h
theorem probePass : Statement .probePass :=
  fun _ h => nomatch h
theorem thiefResume : Statement .thiefResume :=
  fun _ h => nomatch h
theorem workNotice : Statement .workNotice :=
  fun _ h => nomatch h
theorem stealWaitExpiry : Statement .stealWaitExpiry :=
  fun _ h => nomatch h
theorem trapEntry : Statement .trapEntry :=
  fun _ h => nomatch h
theorem shadowResultArrival : Statement .shadowResultArrival :=
  fun _ h => nomatch h
theorem wideCompletion : Statement .wideCompletion :=
  fun _ h => nomatch h
theorem walkCompletion : Statement .walkCompletion :=
  fun _ h => nomatch h
theorem pageNotice : Statement .pageNotice :=
  fun _ h => nomatch h
theorem swapOut : Statement .swapOut :=
  fun _ h => nomatch h
theorem swapIn : Statement .swapIn :=
  fun _ h => nomatch h
theorem nvmeCompletion : Statement .nvmeCompletion :=
  fun _ h => nomatch h
theorem copyArrival : Statement .copyArrival :=
  fun _ h => nomatch h
theorem copyCompletion : Statement .copyCompletion :=
  fun _ h => nomatch h
theorem streamFetch : Statement .streamFetch :=
  fun _ h => nomatch h
theorem streamWrite : Statement .streamWrite :=
  fun _ h => nomatch h
theorem accumulateRequest : Statement .accumulateRequest :=
  fun _ h => nomatch h
theorem accumulateAnswer : Statement .accumulateAnswer :=
  fun _ h => nomatch h
theorem writeQueueApply : Statement .writeQueueApply :=
  fun _ h => nomatch h
theorem atomicRequest : Statement .atomicRequest :=
  fun _ h => nomatch h
theorem releaseMarker : Statement .releaseMarker :=
  fun _ h => nomatch h
theorem writeBack : Statement .writeBack :=
  fun _ h => nomatch h
theorem ownershipRequest : Statement .ownershipRequest :=
  fun _ h => nomatch h
theorem invalidationAck : Statement .invalidationAck :=
  fun _ h => nomatch h
theorem evictionNotice : Statement .evictionNotice :=
  fun _ h => nomatch h
theorem remapReturn : Statement .remapReturn :=
  fun _ h => nomatch h
theorem peerReadRequest : Statement .peerReadRequest :=
  fun _ h => nomatch h
theorem peerWrite : Statement .peerWrite :=
  fun _ h => nomatch h
theorem remoteWriteAck : Statement .remoteWriteAck :=
  fun _ h => nomatch h
theorem acquireDropNotice : Statement .acquireDropNotice :=
  fun _ h => nomatch h
theorem donationReceive : Statement .donationReceive :=
  fun _ h => nomatch h
theorem donationReply : Statement .donationReply :=
  fun _ h => nomatch h
theorem storeBufferLeave : Statement .storeBufferLeave :=
  fun _ h => nomatch h
theorem coreSleep : Statement .coreSleep :=
  fun _ h => nomatch h
theorem instructionCacheFill : Statement .instructionCacheFill :=
  fun _ h => nomatch h
theorem powerLoss : Statement .powerLoss :=
  fun _ h => nomatch h
theorem unknownKindCommand : Statement .unknownKindCommand :=
  fun _ h => nomatch h
theorem ringReadFailure : Statement .ringReadFailure :=
  fun _ h => nomatch h

end Sys2Proof.Laws.RoundTrip
end

