-- ==== Sys2Proof/Tests/Slice0.lean ====
section
/-!
SUPPORT. Tests: ill-formed terms that the checks refuse, words of the manual that decode to their instructions, small
steps with results from the manual's tables and examples, and a witness for the hypotheses of every statement.
-/
set_option maxRecDepth 20000
set_option Elab.async false
namespace Sys2Proof.Tests
open Sys2Proof.Machine

/-! ### Ill-formed terms -/

/-- R207: pos + len of 65 is refused, 64 is not. -/
theorem test_wf_bit_field : (Instr.bext 1 2 3 60).wf = true ∧ (Instr.bext 1 2 3 61).wf = false ∧
    (Instr.bins 1 2 63 0).wf = true ∧ (Instr.bins 1 2 63 1).wf = false := by decide
/-- R185: an id outside the table is refused. -/
theorem test_wf_special_register : (Instr.mfs 1 0x00B).wf = true ∧ (Instr.mfs 1 0x00C).wf = false ∧
    (Instr.mts 1 0x017).wf = false ∧ (Instr.mtsset 1 0x10F).wf = false ∧ (Instr.mtsclr 1 0x01C).wf = false := by decide
/-- R19: scopes 5 to 7 are refused. -/
theorem test_wf_scope : (Instr.ldaD 1 2 4 0).wf = true ∧ (Instr.ldaD 1 2 5 0).wf = false ∧ (Instr.ldaW 1 2 7 0).wf = false ∧
    (Instr.stlD 1 2 5).wf = false ∧ (Instr.stlW 1 2 5).wf = false ∧ (Instr.wbr 1 2 5).wf = false ∧
    (Instr.invr 1 2 6).wf = false ∧ (Instr.flr 1 2 7).wf = false ∧ (Instr.fence 5 1).wf = false := by decide
/-- R68: an atomic without an order has scope 0. -/
theorem test_wf_order : (Instr.amoAdd 1 2 3 1 0 0).wf = false ∧ (Instr.amoAnd 1 2 3 5 1 0).wf = false ∧
    (Instr.amoOr 1 2 3 1 0 0).wf = false ∧ (Instr.amoXor 1 2 3 1 0 0).wf = false ∧ (Instr.amoMin 1 2 3 1 0 0).wf = false ∧
    (Instr.amoMax 1 2 3 1 0 0).wf = false ∧ (Instr.amoMinu 1 2 3 1 0 0).wf = false ∧
    (Instr.amoMaxu 1 2 3 1 0 0).wf = false ∧ (Instr.amoSwp 1 2 3 1 0 0).wf = false ∧ (Instr.cas 1 2 3 1 0 0).wf = false ∧
    (Instr.cas 1 2 3 4 1 0).wf = true := by decide
/-- R391: a fence has a kind. -/
theorem test_wf_fence : (Instr.fence 3 0).wf = false ∧ (Instr.fence 3 3).wf = true := by decide
/-- R61: mask and scalar registers in fields of six bits. -/
theorem test_wf_registers : (Instr.vcmpEq 8 0 0 0).wf = false ∧ (Instr.vcmpNe 8 0 0 0).wf = false ∧
    (Instr.vcmpLt 8 0 0 0).wf = false ∧ (Instr.vcmpGe 8 0 0 0).wf = false ∧ (Instr.vcmpLtu 8 0 0 0).wf = false ∧
    (Instr.vcmpGeu 63 0 0 0).wf = false ∧ (Instr.fcmpEq 8 0 0 0).wf = false ∧ (Instr.fcmpLt 8 0 0 0).wf = false ∧
    (Instr.fcmpLe 8 0 0 0).wf = false ∧ (Instr.fcmpUn 8 0 0 0).wf = false ∧ (Instr.vslideup 0 0 32 0).wf = false ∧
    (Instr.vslidedn 0 0 32 0).wf = false ∧ (Instr.fscl 0 0 32 0).wf = false ∧ (Instr.kand 8 0 0).wf = false ∧
    (Instr.kor 0 8 0).wf = false ∧ (Instr.kxor 0 0 8).wf = false ∧ (Instr.knot 0 8).wf = false ∧
    (Instr.kfs 0 32).wf = false ∧ (Instr.ksf 32 0).wf = false ∧ (Instr.vwinReg 32 0).wf = false := by decide
/-- R66, R229: conversions of vbcast, vins and vext. -/
theorem test_wf_conversion : (Instr.vbcast 0 0 2).wf = false ∧ (Instr.vbcast 0 32 0).wf = false ∧
    (Instr.vins 0 0 32 0).wf = false ∧ (Instr.vins 0 0 0 2).wf = false ∧ (Instr.vext 32 0 0 0).wf = false ∧
    (Instr.vext 0 0 0 2).wf = false ∧ (Instr.acc 0 0 0 4).wf = false := by decide
/-- R244, R271: counts and classes of windows. -/
theorem test_wf_windows : (Instr.vwinImm 64 15).wf = true ∧ (Instr.vwinImm 65 0).wf = false ∧
    (Instr.vwinImm 0 16).wf = false ∧ (Instr.twinImm 16).wf = true ∧ (Instr.twinImm 17).wf = false := by decide
/-- R253: tags, and the even tile of mmas. -/
theorem test_wf_tiles : (Instr.mmas 0 0 1 0).wf = false ∧ (Instr.mzero 0 6).wf = false ∧ (Instr.mcvt 0 0 0 3).wf = false ∧
    (Instr.mldt 0 0 0 6).wf = false ∧ (Instr.mstt 0 0 0 7).wf = false ∧ (Instr.mldt 0 0 0 5).wf = true := by decide
/-- R64: the halfword 0 is no instruction. -/
theorem test_wf_zero_halfword : (Instr.cVadd 0 0 0).wf = false ∧ (Instr.cVadd 0 0 1).wf = true ∧
    decodeTableWord 16 0 = none := by decide

/-! ### Words of the manual -/

/-- Chapter 03, fields written out: la, fn, b, a, d, major. -/
theorem test_decode_fields :
    decodeTableWord 32 0b0000_000000_00100_00011_00010_0000001 = some (.add 2 3 4) ∧
    decodeTableWord 32 0b0010_001111_00100_00011_00010_0000001 = some (.div 2 3 4 2) ∧
    decodeTableWord 32 0b000000000000000_00000_00000_0000011 = some (.addi 0 0 0) ∧
    decodeTableWord 32 0b00000000010_0011_00110_00101_0101101 = some (.ldd 5 6 3 2) ∧
    decodeTableWord 32 0b000000100000_000_00000_00111_0011001 = some (.beq 7 0 32) ∧
    decodeTableWord 32 0b0_001101_001100_001011_001010_1010001 = some (.ffma 10 11 12 13 0) ∧
    decodeTableWord 16 0b1_00111_00011_1001_0 = some (.cFadd 3 7 1) := by decide
/-- R205 to R210: examples of the immediate, shift, bit-field, branch and jump forms. -/
theorem test_decode_scalar :
    decodeTableWord 32 0xFFFE6283 = some (.addi 5 6 0x7FFF) ∧ decodeTableWord 32 0x807E5291 = some (.sari 5 5 63) ∧
    decodeTableWord 32 0x041E6293 = some (.bext 5 6 15 8) ∧ decodeTableWord 32 0x00000015 = some (.lui 0 0) ∧
    decodeTableWord 32 0x00000017 = some (.adpc 0 0) ∧ decodeTableWord 32 0xFFC26299 = some (.bne 5 6 0xFFC) ∧
    decodeTableWord 32 0x0446BA19 = some (.bge 20 11 68) ∧ decodeTableWord 32 0x00080F9B = some (.jal 31 0x80) ∧
    decodeTableWord 32 0x00205F9D = some (.jalr 31 5 16) ∧ decodeTableWord 32 0x0001F01D = some (.jalr 0 31 0) := by decide
/-- R212, R423, R171: special registers, traps, translation maintenance. -/
theorem test_decode_system :
    decodeTableWord 32 0x0000029F = some (.mfs 5 0) ∧ decodeTableWord 32 0x00260C1F = some (.mfs 24 0x013) ∧
    decodeTableWord 32 0x4012501F = some (.mts 5 0x009) ∧ decodeTableWord 32 0xC002501F = some (.mtsclr 5 0x001) ∧
    decodeTableWord 32 0x000A0043 = some (.trap 5) ∧ decodeTableWord 32 0x30000043 = some (.brk 0) ∧
    decodeTableWord 32 0x10000043 = some .rett ∧ decodeTableWord 32 0x50005043 = some (.tlbi 5) ∧
    decodeTableWord 32 0x60005043 = some (.tlbia 5) ∧ decodeTableWord 32 0x0180003F = some .ifence ∧
    decodeTableWord 32 0x0040003F = some .flushr := by decide
/-- R303, R307, R309: scalar, ordered and full/empty accesses. -/
theorem test_decode_accesses :
    decodeTableWord 32 0xFFE062A9 = some (.ldw 5 6 0 0x7FF) ∧ decodeTableWord 32 0x002063B5 = some (.std 7 6 1) ∧
    decodeTableWord 32 0x02C062B7 = some (.ldaD 5 6 3 1) ∧ decodeTableWord 32 0x40CE6037 = some (.stlD 6 7 3) ∧
    decodeTableWord 32 0x040062B9 = some (.lde 5 6 2) ∧ decodeTableWord 32 0x400E6039 = some (.stf 6 7) ∧
    decodeTableWord 32 0x800E62B9 = some (.ldeTry 5 6 7) := by decide
/-- R347, R352, R353, R354, R328: atomics, accumulates, range operations. -/
theorem test_decode_atomics :
    decodeTableWord 32 0x84CA603B = some (.amoAdd 0 6 5 3 2 1) ∧ decodeTableWord 32 0x480E62BB = some (.cas 5 6 7 0 0 0) ∧
    decodeTableWord 32 0x100A603D = some (.accsF32 6 5) ∧ decodeTableWord 32 0x8800A15D = some (.acc 2 5 0 2) ∧
    decodeTableWord 32 0xA018A15D = some (.accD 2 5 6 0) ∧ decodeTableWord 32 0x0086533F = some (.wbr 6 5 3) := by decide
/-- R397: the barrier instructions. -/
theorem test_decode_barriers :
    decodeTableWord 32 0x01CC503F = some (.barInit 5 6) ∧ decodeTableWord 32 0x020053BF = some (.barArv 7 5) ∧
    decodeTableWord 32 0x024053BF = some (.barDrop 7 5) ∧ decodeTableWord 32 0x028C503F = some (.barExp 5 6) ∧
    decodeTableWord 32 0x02CE503F = some (.barWait 5 7) ∧ decodeTableWord 32 0x030E543F = some (.barWaitTry 8 5 7) := by decide
/-- R143, R330, R340: tasks, copies and the inbox. -/
theorem test_decode_tasks :
    decodeTableWord 32 0x004C5041 = some (.spawn 5 6) ∧ decodeTableWord 32 0x0016A041 = some (.fpub 10 11) ∧
    decodeTableWord 32 0x00800041 = some .sync ∧ decodeTableWord 32 0x01000041 = some .tend ∧
    decodeTableWord 32 0x020E62E7 = some (.cpy 5 6 7 8) ∧ decodeTableWord 32 0x15638067 = some (.cpym 0 24 17 21) ∧
    decodeTableWord 32 0x180062E7 = some (.ibxRecv 5 6) := by decide
/-- R225 to R247: vector instructions. -/
theorem test_decode_vector :
    decodeTableWord 32 0x041840C9 = some (.vadd 1 2 3 2) ∧ decodeTableWord 32 0xE238C2CB = some (.vext 5 6 7 1) ∧
    decodeTableWord 32 0xA42881CD = some (.fcmpLt 3 4 5 2) ∧ decodeTableWord 32 0x9038414D = some (.fcmpEq 2 2 7 0) ∧
    decodeTableWord 32 0x2000A24F = some (.fredsum 4 5 0) ∧ decodeTableWord 32 0x1010214D = some (.fsub 2 1 2 0) ∧
    decodeTableWord 32 0x0030004D = some (.fadd 0 0 6 0) ∧ decodeTableWord 32 0x5010224F = some (.fdot 4 1 2 0) ∧
    decodeTableWord 32 0x04286151 = some (.ffma 2 3 5 2 0) ∧
    decodeTableWord 32 0xA003A14F = some (.kfs 2 29) ∧ decodeTableWord 32 0xB0006A4F = some (.ksf 20 3) ∧
    decodeTableWord 32 0xC002824B = some (.vbcast 4 20 0) ∧ decodeTableWord 32 0x902002CB = some (.vperm 5 0 4 0) ∧
    decodeTableWord 32 0xA0C082CB = some (.vslideup 5 4 24 0) ∧ decodeTableWord 32 0xC000A44F = some (.vwinImm 8 5) ∧
    decodeTableWord 32 0xC201E04F = some (.vwinImm 64 15) ∧ decodeTableWord 32 0xC400C2CF = some (.vwinReg 5 6) := by decide
/-- R312 to R323: vector memory and streams. -/
theorem test_decode_vector_memory :
    decodeTableWord 32 0x0400A1D9 = some (.vldUnit 3 5 0 1) ∧ decodeTableWord 32 0x4518A259 = some (.vldGather 4 5 6 2 1) ∧
    decodeTableWord 32 0x2C1CA1DB = some (.vstStrided 3 5 7 0 3) ∧ decodeTableWord 32 0x0502C35B = some (.vstUnit 6 22 2 1) ∧
    decodeTableWord 32 0x0018A15D = some (.vldd 2 5 6 0) ∧ decodeTableWord 32 0x2018A15D = some (.vstd 2 5 6 0) ∧
    decodeTableWord 32 0x6000A45D = some (.vqntPeb7 8 5) ∧ decodeTableWord 32 0x0000A1DF = some (.sbind 3 5) ∧
    decodeTableWord 32 0x004001DF = some (.sunbind 3) ∧ decodeTableWord 32 0x0080C1DF = some (.sstat 3 6) := by decide
/-- R253 to R272: matrix and solver instructions. -/
theorem test_decode_matrix :
    decodeTableWord 32 0x00010861 = some (.mma 0 1 2) ∧ decodeTableWord 32 0x0182A1E1 = some (.mmaDc 3 4 5 1) ∧
    decodeTableWord 32 0x10432061 = some (.mmas 0 4 6 8) ∧ decodeTableWord 32 0x180108E1 = some (.maddt 1 1 2) ∧
    decodeTableWord 32 0x280890E1 = some (.mscl 1 2 17) ∧ decodeTableWord 32 0x310001E1 = some (.mzero 3 2) ∧
    decodeTableWord 32 0x308000E1 = some (.mzero 1 1) ∧ decodeTableWord 32 0x480000E1 = some (.mchol 1 0) ∧
    decodeTableWord 32 0x51880A61 = some (.mtrsv 20 1 3) ∧ decodeTableWord 32 0x58081A61 = some (.mstat 20 3) ∧
    decodeTableWord 32 0x004628E3 = some (.mldt 1 5 6 2) ∧ decodeTableWord 32 0x0037B0E5 = some (.mstt 1 22 23 1) ∧
    decodeTableWord 32 0x60080061 = some (.twinImm 16) ∧ decodeTableWord 32 0x60802861 = some (.twinReg 5) := by decide

/-! ### Small steps -/

/-- A running slot at user level. -/
def user : Slot := { mode := .running, pc := 0x1000 }
/-- A running slot with registers. -/
def withRegs (rs : FMap Word) : Slot := { user with regs := rs }
/-- A package that has booted, with slot 0.0.0.0. -/
def pkg (x : Slot) : State := { State.reset with dstate := 2, slots := [(0, x)] }
/-- The state after a step that goes on. -/
def next (o : Out) : State := match o with | .next s => s | _ => State.reset
/-- s3 after an instruction with x in s1 and y in s2. -/
def s3After (i : Instr) (x y : Word) : Word := (next (exec i (pkg (withRegs [(1, x), (2, y)])))).me.reg 3
/-- The value that an instruction leaves pending. -/
def pendAfter (i : Instr) (x y : Word) : Option PendOut :=
  ((next (exec i (pkg (withRegs [(1, x), (2, y)])))).me.pend.head?).map fun p => p.out

/-- R204, the table of division results, rows 2 to 5. -/
theorem test_div_table :
    pendAfter (.div 3 1 2 0) (-7) 2 = some (.value (-3)) ∧ pendAfter (.rem 3 1 2 0) (-7) 2 = some (.value (-1)) ∧
    pendAfter (.divu 3 1 2 0) (-7) 2 = some (.value 0x7FFFFFFFFFFFFFFC) ∧
    pendAfter (.remu 3 1 2 0) (-7) 2 = some (.value 1) ∧ pendAfter (.div 3 1 2 0) 7 (-2) = some (.value (-3)) ∧
    pendAfter (.rem 3 1 2 0) 7 (-2) = some (.value 1) ∧ pendAfter (.div 3 1 2 0) 9 0 = some (.value (-1)) ∧
    pendAfter (.rem 3 1 2 0) 9 0 = some (.value 9) ∧
    pendAfter (.div 3 1 2 0) 0x8000000000000000 (-1) = some (.value 0x8000000000000000) ∧
    pendAfter (.rem 3 1 2 0) 0x8000000000000000 (-1) = some (.value 0) := by decide
/-- R203, R205, R206: wraps, signs and shift amounts taken modulo 64. -/
theorem test_scalar_corners :
    s3After (.add 3 1 2) 0xFFFFFFFFFFFFFFFF 1 = 0 ∧ s3After (.sub 3 1 2) 0 1 = 0xFFFFFFFFFFFFFFFF ∧
    s3After (.shl 3 1 2) 1 65 = 2 ∧ s3After (.sar 3 1 2) 0x8000000000000000 63 = 0xFFFFFFFFFFFFFFFF ∧
    s3After (.slt 3 1 2) (-1) 1 = 1 ∧ s3After (.sltu 3 1 2) (-1) 1 = 0 ∧ s3After (.clz 3 1) 0 0 = 64 ∧
    s3After (.sltiu 3 1 0x7FFF) 5 0 = 1 ∧ s3After (.sari 3 1 63) 5 0 = 0 ∧
    s3After (.bext 3 1 15 8) 0x12345678 0 = 0x3456 := by decide
/-- R200: a write to s0 is discarded, and a source that is also the destination is read first. -/
theorem test_scalar_registers :
    (next (exec (.add 0 1 1) (pkg (withRegs [(1, 5)])))).me.regs = [(1, 5)] ∧
    (next (exec (.add 1 1 1) (pkg (withRegs [(1, 5)])))).me.reg 1 = 10 := by decide
/-- R209, R210: a branch back by 8, and a link. -/
theorem test_branches :
    (next (exec (.bne 1 2 0xFFC) (pkg (withRegs [(1, 1)])))).me.pc = 0xFF8 ∧
    (next (exec (.beq 1 2 0xFFC) (pkg (withRegs [(1, 1)])))).me.pc = 0x1004 ∧
    (next (exec (.jalr 1 1 1) (pkg (withRegs [(1, 0x2000)])))).me.pc = 0x2000 ∧
    (next (exec (.jalr 1 1 1) (pkg (withRegs [(1, 0x2000)])))).me.reg 1 = 0x1004 := by decide
/-- R18: TID of slot 2.13.7.11 (chapter 01's example). -/
theorem test_tid : (State.reset.readSpr 0x2D7B false 0x003) = 0x2D7B ∧ cluOf 0x2D7B = 45 ∧ coreOf 0x2D7B = 727 := by decide
/-- R420, R424: trap 5 at user level. -/
theorem test_trap_entry :
    let t := next (exec (.trap 5) (pkg { user with tvec := 0x4000 }))
    t.me.pc = 0x4000 ∧ t.me.tpc = 0x1000 ∧ t.me.tcau = 0x0E ∧ t.me.tval = 5 ∧ t.me.uh = true := by decide
/-- R154, R417: an address of no region raises PAGE at supervisor level, deferred to the end of the shadow. -/
theorem test_no_region :
    (outcomeOf false ((pkg (withRegs [])).scalarLoad 0 0x0100000000000000 8)).1 = .fault 0x03 0 0x0100000000000000 := by decide
/-- R278, R303, R306: a store to scratch, then a load of its upper half, little-endian. -/
theorem test_scratch_store_load :
    let s := next (exec (.std 2 1 0) (pkg (withRegs [(1, 0xFFE0000000000000), (2, 0x0123456789ABCDEF)])))
    (outcomeOf true (s.scalarLoad 0 (s.mAddr 1 1 4).toNat 4)).1 = .value 0x01234567 := by decide
/-- R309: sto fills a word, ldx.try takes it and a second one finds it empty. -/
theorem test_full_empty :
    let s := next (exec (.sto 1 2) (pkg (withRegs [(1, 0xFFE0000000000000), (2, 77)])))
    let t := next (exec (.ldxTry 3 1 4) s)
    t.me.reg 4 = 77 ∧ t.me.reg 3 = 0 ∧ (next (exec (.ldxTry 3 1 4) t)).me.reg 3 = 1 := by decide
/-- R347: amo.min compares as signed, amo.minu does not; the old value is returned. -/
theorem test_atomics :
    let s := { pkg (withRegs [(1, 0xFFE0000000000000), (2, 0xFFFFFFFF)]) with
      clusters := [(0, { ({} : Cluster) with sram := [(0, 5)] })] }
    let t := next (exec (.amoMin 3 1 2 0 0 0) s)
    let u := next (exec (.amoMinu 3 1 2 0 0 0) s)
    t.me.reg 3 = 5 ∧ Memory.readNat (t.cluAt 0).sram 0 4 = 0xFFFFFFFF ∧ Memory.readNat (u.cluAt 0).sram 0 4 = 5 := by decide
/-- R396, R397: one arrival at an object of one opens its next phase. -/
theorem test_barrier :
    let s := next (exec (.barInit 1 2) (pkg (withRegs [(1, 0xFFE0000000000000), (2, 1)])))
    let t := next (exec (.barArv 3 1) s)
    t.me.reg 3 = 0 ∧ t.wordAt 0 0 = 0x0000000100001001 := by decide

/-- A slot with a window of class 0 and four active lanes in k2 (chapter 09's worked example). -/
def window0 : Slot :=
  { user with
    vcount := 8, prc := 0, masks := [(2, 0x0000000F)]
    vregs := [(1, [(0, 0x4010), (1, 0x3FF0), (2, 0x3FF0), (3, 0x3FF0)]),
      (2, (List.range 32).map fun i => (i, 0x3FF8))] }
/-- The worked example of chapter 09: fredsum gives 9.0 and fdot 10.0, both with NX. -/
theorem test_reductions_round :
    let s := next (exec (.fredsum 3 1 2) (pkg window0))
    let t := next (exec (.fdot 4 1 2 2) (pkg window0))
    laneOf (s.me.vreg 3) 0 = 0x4011 ∧ laneOf (t.me.vreg 4) 0 = 0x4012 ∧ s.me.flg &&& flNX ≠ 0 ∧ t.me.flg &&& flNX ≠ 0 := by
  decide +kernel
/-- The same in exact mode: PXH with TVAL 1. -/
theorem test_reductions_exact :
    let x := { window0 with prc := 0x80, tvec := 0x4000 }
    (next (exec (.fredsum 3 1 2) (pkg x))).me.tval = 1 ∧ (next (exec (.fdot 4 1 2 2) (pkg x))).me.tval = 1 ∧
    (next (exec (.fdot 4 1 2 2) (pkg x))).me.tcau = 0x07 := by decide +kernel

/-- The tables of chapter 06's worked walk. -/
def walkPkg : State :=
  { pkg { user with asid := 3, regs := [(1, 0x0012345678 * 2 ^ 8 + 0x90)] } with
    asids := [(3, { ({} : Asid) with live := true, ptbr := 0x400009 })]
    mem := [(0x400008, 0x01), (0x40000A, 0x41), (0x410040, 0x01), (0x410042, 0x42), (0x420D10, 0x01), (0x420D12, 0x43),
      (0x4300B0, 0x57), (0x4300B1, 0x01), (0x4300B3, 0x20)] }
/-- The worked walk ends at the leaf 0x2000_0157 at 0x43_00B0, for a 64 KiB page. -/
theorem test_walk : (walkPkg.walk 0 3 0x001234567890).1 = .leaf 0x20000157 16 0x4300B0 ∧
    ptePA 0x20000157 + 0x001234567890 % 2 ^ 16 = 0x20007890 := by decide +kernel
/-- R146: a spawn with a request that is no multiple of 64 raises WIN with code 17. -/
theorem test_spawn_request :
    (next (exec (.spawn 1 2) (pkg { withRegs [(1, 0x3000), (2, 65)] with tvec := 0x4000 }))).me.tval = 0x411100 := by decide
/-- The reset state meets the canonical form, and the first instruction after a load runs. -/
theorem test_runs_first :
    (next (step (State.reset.withFetchWord 32 0xFFFE0083))).me.reg 1 = 0xFFFFFFFFFFFFFFFF := by decide

/-- Worked example of chapter 08, and two compact words of R247. -/
theorem test_decode_examples :
    decodeTableWord 32 0x33C62281 = some (.div 5 2 3 3) ∧ decodeTableWord 32 0x24462301 = some (.rem 6 2 3 2) ∧
    decodeTableWord 16 0x0820 = some (.cVadd 1 2 0) ∧ decodeTableWord 16 0x9C7C = some (.cFneg 3 7 1) := by decide

/-! ### Witnesses: states that meet the hypotheses of the statements -/

/-- An operation that answers, and what follows from it. -/
def okRun {α : Type} (r : Run α) : Bool := match r with | .ok _ _ => true | .stop _ _ => false
theorem ok_of {α : Type} {r : Run α} (h : okRun r = true) : ∃ a s, r = .ok a s := by
  cases r with
  | ok a s => exact ⟨a, s, rfl⟩
  | stop r s => cases h

theorem unit_ok {r : Run Unit} (h : okRun r = true) : ∃ s, r = .ok () s :=
  let ⟨(), s, h1⟩ := ok_of h
  ⟨s, h1⟩
/-- A translation succeeds. -/
def xlated (r : State × Xlat) : Bool := match r.2 with | .ok _ _ _ => true | _ => false
theorem xlate_ok {r : State × Xlat} (h : xlated r = true) : ∃ s1 pa pte size, r = (s1, .ok pa pte size) := by
  match r with
  | (s1, .ok pa pte size) => exact ⟨s1, pa, pte, size, rfl⟩
  | (_, .page) => cases h
  | (_, .wait) => cases h
  | (_, .held _) => cases h
  | (_, .poison) => cases h

/-- A run ends in a park. -/
def parks {α : Type} (r : Run α) : Bool := match r with | .stop (.park _ _) _ => true | _ => false
theorem exists_park {α : Type} {r : Run α} (h : parks r = true) : ∃ p op s1, r = .stop (.park p op) s1 := by
  match r with
  | .stop (.park p op) s1 => exact ⟨p, op, s1, rfl⟩
  | .stop (.trap _ _ _) _ => cases h
  | .ok _ _ => cases h
/-- A run ends in a trap. -/
def traps {α : Type} (r : Run α) : Bool := match r with | .stop (.trap _ _ _) _ => true | _ => false
theorem exists_trap {α : Type} {r : Run α} (h : traps r = true) : ∃ c a v s1, r = .stop (.trap c a v) s1 := by
  match r with
  | .stop (.trap c a v) s1 => exact ⟨c, a, v, s1, rfl⟩
  | .stop (.park _ _) _ => cases h
  | .ok _ _ => cases h
/-- A run completes with a result and a state that meet a test. -/
def oks {α : Type} (r : Run α) (p : α → State → Bool) : Bool := match r with | .ok a s1 => p a s1 | .stop _ _ => false
theorem exists_ok {α : Type} {r : Run α} {p : α → State → Bool} (h : oks r p = true) :
    ∃ a s1, r = .ok a s1 ∧ p a s1 = true := by
  match r with
  | .ok a s1 => exact ⟨a, s1, rfl, h⟩
  | .stop _ _ => cases h

/-- A slot whose s1 addresses scratch. -/
def scr : State := pkg (withRegs [(1, 0xFFE0000000000000), (2, 7), (31, 64)])

theorem witness_DecodeEncode : (Instr.bext 31 31 63 0).wf = true ∧ (Instr.bext 31 31 63 0).isEvent = false ∧
    (Instr.cVadd 0 0 1).wf = true ∧ (Instr.cVadd 0 0 1).isEvent = false := by decide
theorem witness_EncodeDecode : decode (encodeBytes (.add 31 31 31) ++ [1, 2]) = .ok (.add 31 31 31, [1, 2]) ∧
    decode (encodeBytes (.cFabs 31 31 1)) = .ok (.cFabs 31 31 1, []) ∧
    (0 : BitVec 16).getLsbD 0 = false ∧ (0xFFFE : BitVec 16).getLsbD 0 = false ∧
    (0x45 : BitVec 32).getLsbD 0 = true ∧ (0x45 : BitVec 32).extractLsb' 1 6 = 0x22 ∧
    (0xFFFFFFFF : BitVec 32).getLsbD 0 = true ∧ (0xFFFFFFFF : BitVec 32).extractLsb' 1 6 = 0x3F :=
  ⟨rfl, rfl, by decide, by decide, by decide, by decide, by decide, by decide⟩

/-- The state in which step fetches a word. -/
def fetching (w : Nat) : State := State.reset.withFetchWord 32 w

theorem witness_StepRunsDecoded_runs :
    let s := fetching 0xFFFE0083
    s.inputs = [] ∧ s.power = true ∧ s.dstate ≠ 1 ∧ s.clk / 256 = s.window ∧ s.nextEvent = none ∧ s.nextSlot = some 0 ∧
    (∃ l, s.lineOf 0 (s.slotAt 0).pc.toNat = some l ∧ regionOf (s.slotAt 0).pc.toNat = .user ∧
      l.user = !(s.slotAt 0).sup ∧ (s.slotAt 0).pc.toNat % 64 ≤ 60 ∧
      decode (l.bytes.drop ((s.slotAt 0).pc.toNat % 64) |>.take 4) = .ok (.addi 1 0 0x7FFF, [])) := by
  refine ⟨by decide, by decide, by decide, by decide, by decide, by decide, _, rfl, by decide, by decide, by decide, rfl⟩
theorem witness_StepRunsDecoded_illegal :
    let s := fetching 0xFFFFFFFF
    s.inputs = [] ∧ s.power = true ∧ s.dstate ≠ 1 ∧ s.clk / 256 = s.window ∧ s.nextEvent = none ∧ s.nextSlot = some 0 ∧
    (∃ hs e, s.fetchInstr 0 = .halves hs ∧ decodeHalves hs = .error e) := by
  refine ⟨by decide, by decide, by decide, by decide, by decide, by decide, _, _, rfl, rfl⟩
/-- The other ways that a fetch goes: from halfwords, from a region without code, and from a line that is not cached. -/
theorem witness_StepRunsDecoded_fetches :
    let s := fetching 0xFFFE0083
    let at_ (pc : Word) : State := s.modSlot 0 fun x => { x with pc := pc }
    (∃ hs, s.fetchInstr 0 = .halves hs ∧ decodeHalves hs = .ok (.addi 1 0 0x7FFF, 2)) ∧
    (let u := at_ 0xFFE0000000000000
     u.inputs = [] ∧ u.power = true ∧ u.dstate ≠ 1 ∧ u.clk / 256 = u.window ∧ u.nextEvent = none ∧ u.nextSlot = some 0 ∧
      u.fetchInstr 0 = .trap cPROT 0xFFE0000000000000) ∧
    (let u := at_ 0x5000
     u.inputs = [] ∧ u.power = true ∧ u.dstate ≠ 1 ∧ u.clk / 256 = u.window ∧ u.nextEvent = none ∧ u.nextSlot = some 0 ∧
      u.fetchInstr 0 = .miss) ∧
    (s.slotAt 0).ready = true := by
  refine ⟨⟨_, rfl, rfl⟩, by decide, by decide, by decide⟩
theorem witness_StepRunsDecoded_input :
    let s : State := { State.reset with inputs := [(.powerLoss, {})] }
    s.inputs = (.powerLoss, {}) :: [] ∧ s.power = true := by decide
theorem witness_StepKeepsCanonicalMemory :
    ((fetching 0xFFFE0083).canonical) ∧ ∃ s', step (fetching 0xFFFE0083) = .next s' :=
  ⟨⟨by decide, by decide, by decide, by decide⟩, _, rfl⟩

theorem witness_ScalarResults :
    scalarValue (.add 3 1 1) (pkg (withRegs [(1, 0xFFFFFFFFFFFFFFFF)])) = some (3, 0xFFFFFFFFFFFFFFFE) ∧
    scalarValue (.add 0 1 1) (pkg (withRegs [(1, 5)])) = some (0, 10) := by decide
theorem witness_LateResults :
    lateValue (.div 3 1 2 15) (pkg (withRegs [(1, 0x8000000000000000), (2, 0xFFFFFFFFFFFFFFFF)])) =
      some (15, 3, 0x8000000000000000) ∧
    lateValue (.remu 3 1 2 0) (pkg (withRegs [(1, 9)])) = some (0, 3, 9) := by decide

/-- A result that is due. -/
def due : Pend := { left := 0, dest := 3, iaddr := 0x1000, iword := 0, va := 0, out := .value 9, arrived := true, fresh := false }
theorem witness_PendingValueArrives :
    let s := pkg { user with pend := [due] }
    (s.slotAt 0).pend = [due] ∧ due.left = 0 ∧ due.arrived = true ∧ due.out = .value 9 := by decide
theorem witness_Branches : 6 ≤ (6 : BitVec 3).toNat ∧ 6 ≤ (7 : BitVec 3).toNat ∧
    branchTaken (.blt 1 2 0x800) (pkg (withRegs [(1, 0xFFFFFFFFFFFFFFFF)])) = some (true, 0x800) ∧
    branchTaken (.bltu 1 2 0x7FF) (pkg (withRegs [(1, 0xFFFFFFFFFFFFFFFF)])) = some (false, 0x7FF) := by decide
theorem witness_Jumps : jumpTarget (.jalr 1 1 1) (pkg (withRegs [(1, 0x2000)])) = some (1, 0x2000) ∧
    jumpTarget (.jal 0 0xFFFFF) (pkg user) = some (0, 0xFFE) := by decide

theorem witness_SpecialRegisterAccesses :
    sprReachable (pkg user) 0x008 ∧ sprReachable (pkg { user with sup := true }) 0x10D ∧
    (sprNamed (.mts 1 0x001) = some 0x001 ∧ sprReachable scr 0x001 ∧
      sprWritten (.mts 1 0x001) (sprState scr 0x001) = some (0x001, 0xFFE0000000000000) ∧
      ∃ s2, (sprState scr 0x001).writeSpr 0 false 0x001 7 = some s2) := by
  refine ⟨⟨by decide, by decide⟩, ⟨by decide, by decide⟩, by decide, ⟨by decide, by decide⟩, by decide, _, rfl⟩
theorem witness_SpecialRegisterReadBack : sprReadBack 0x001 7 = some 7 ∧ sprReadBack 0x10D 64 = some 64 ∧
    (∃ s2, scr.writeSpr 0 false 0x001 7 = some s2) ∧ ∃ s2, scr.writeSpr 0 true 0x10D 64 = some s2 :=
  ⟨by decide, by decide, ⟨_, rfl⟩, _, rfl⟩
theorem witness_IllegalInstructions :
    (sprNamed (.mfs 1 0x100) = some 0x100 ∧ ¬sprReachable scr 0x100) ∧
    (let s := pkg (withRegs [(1, 0x60)])
     sprNamed (.mts 1 0x000) = some 0x000 ∧ sprReachable s 0x000 ∧
      sprWritten (.mts 1 0x000) (sprState s 0x000) = some (0x000, 0x60) ∧
      (sprState s 0x000).writeSpr 0 false 0x000 0x60 = none) ∧
    (forbiddenInHandler .wfi = true ∧ (pkg { user with uh := true }).me.inHandler = true) ∧
    (forbiddenInHandler .sync = true ∧ (pkg { user with sh := true }).me.inHandler = true) := by
  refine ⟨⟨by decide, by unfold sprReachable; decide⟩, ⟨by decide, ⟨by decide, by decide⟩, by decide, by decide⟩, by decide, by decide⟩

theorem witness_TrapEntry_user :
    let s := pkg { user with tvec := 0x4000 }
    settles s ∧ entersUser (s.endShadows s.cur).me 0x0E := by unfold settles entersUser; decide
theorem witness_TrapEntry_super :
    let s := { pkg { user with uh := true } with stvec := 0x8000 }
    let t := { pkg { user with sup := true } with stvec := 0x8000 }
    (settles s ∧ entersSuper (s.endShadows s.cur) (s.endShadows s.cur).me 0xFF) ∧
    (settles t ∧ entersSuper (t.endShadows t.cur) (t.endShadows t.cur).me 0x03) := by unfold settles entersSuper; decide
theorem witness_TrapEntry_faults :
    let s := pkg { user with sh := true }
    let t := pkg user
    let u := pkg { user with uh := true }
    (settles s ∧ (s.endShadows s.cur).me.sh = true) ∧
    (settles t ∧ ¬(0x0E = 0x03 ∨ 0x0E = 0x04 ∨ 0x0E = 0x0B) ∧ (t.endShadows t.cur).me.sup = false ∧
      (t.endShadows t.cur).me.uh = false ∧ (t.endShadows t.cur).me.sh = false ∧ (t.endShadows t.cur).me.tvec = 0) ∧
    (settles u ∧ (u.endShadows u.cur).me.uh = true ∧ (u.endShadows u.cur).me.sh = false ∧
      (u.endShadows u.cur).stvec = 0) := by unfold settles; decide
/-- The worked walk of chapter 06 with another leaf, and s1 at an address of the page. -/
def paged (leaf : Nat) : State := { walkPkg with mem := Memory.writeNat walkPkg.mem 0x4300B0 8 leaf }
/-- A slot with a load that met a page in transit. -/
def loading : State :=
  (paged 0x20008017).modMe fun x => { x with
    pend := [{ left := 3, dest := 3, iaddr := 0, iword := instrBits (.ldd 3 1 3 0), va := 0x1234567890, out := .access
               arrived := true, fresh := false }] }
theorem witness_TrapInstructions :
    let s := pkg { user with tvec := 0x4000 }
    let t := { pkg { user with sup := true } with stvec := 0x8000 }
    let u := { pkg user with breakHalt := true }
    (settles s ∧ s.breakHalt = false ∧ entersUser (s.endShadows s.cur).me 0x0E ∧ entersUser (s.endShadows s.cur).me 0x0D) ∧
    (settles t ∧ t.breakHalt = false ∧ entersSuper (t.endShadows t.cur) (t.endShadows t.cur).me 0x0E ∧
      entersSuper (t.endShadows t.cur) (t.endShadows t.cur).me 0x0D) ∧
    (settles u ∧ u.breakHalt = true) := by unfold settles entersUser entersSuper; decide
/-- A pending value, a deferred fault and a load of a page in transit when a brk halts. -/
theorem witness_TrapInstructions_pending :
    let s := { pkg { user with pend := [due] } with breakHalt := true }
    let f := { pkg { user with pend := [{ due with out := .fault 0x03 0 8 }] } with breakHalt := true }
    let w := { loading with breakHalt := true }
    ((∀ p ∈ s.me.pend, ∃ v, p.out = .value v) ∧ s.me.mode = .running ∧ s.breakHalt = true ∧
      (s.endShadows s.cur).me.pend = [] ∧ (s.endShadows s.cur).me.reg 3 = 9) ∧
    (f.breakHalt = true ∧ (f.endShadows f.cur).me.pend ≠ [] ∧ (f.endShadows f.cur).me.mode = .running) ∧
    (w.breakHalt = true ∧ (w.endShadows w.cur).me.pend ≠ [] ∧ (w.endShadows w.cur).me.mode ≠ .running) :=
  ⟨⟨fun p h => ⟨9, by rw [List.mem_singleton.1 h]; rfl⟩, by decide, by decide, by decide, by decide⟩, by decide, by decide +kernel⟩
theorem witness_TrapReturns :
    let free (x : Slot) : Prop :=
      x.pend = [] ∧ x.later = [] ∧ x.sdef.dfi.getLsbD 14 = false ∧ x.udef.dfi.getLsbD 14 = false
    (free (pkg { user with sh := true, scau := 0x3000 }).me ∧ (pkg { user with sh := true, scau := 0x3000 }).me.sh = true ∧
      (pkg { user with sh := true, scau := 0x3000 }).me.scau.getLsbD 15 = false) ∧
    (free (pkg { user with uh := true }).me ∧ (pkg { user with uh := true }).me.uh = true ∧
      (pkg { user with uh := true }).me.sh = false) ∧
    (let x := (pkg { user with sh := true, scau := 0x8009 }).me
     free x ∧ x.sh = true ∧ x.scau.getLsbD 15 = true) ∧
    (let x := (pkg { user with sh := true, taken := some ({ pc := 0x1000, prio := 0, kind := 0, counted := false, frame := 0 }, true) }).me
     free x ∧ x.sh = true ∧ x.scau.getLsbD 15 = false) ∧
    (free scr.me ∧ scr.me.sh = false ∧ scr.me.uh = false) := by decide


theorem witness_ScalarLoads :
    loadForm (.ldb 3 1 15 0x7FF) = some (3, 1, 15, 0x7FF, 1, true) ∧ loadForm (.ldd 3 1 0 0) = some (3, 1, 0, 0, 8, false) ∧
    (∃ bs s1, scr.scalarLoad 0 (accessAddr scr 1 0 8).toNat 8 = .ok bs s1 ∧ bs.length = 8) ∧
    (∃ c a v s1, scr.scalarLoad 0 (accessAddr scr 2 0 8).toNat 8 = .stop (.trap c a v) s1) ∧
    (∃ p op s1, (paged 0x20008017).scalarLoad 0 (accessAddr (paged 0x20008017) 1 0 8).toNat 8 = .stop (.park p op) s1) :=
  ⟨by decide, by decide, ⟨_, _, rfl, by decide⟩, exists_trap (by decide +kernel), exists_park (by decide +kernel)⟩
theorem witness_ScratchLoads : loadForm (.ldw 3 1 0 3) = some (3, 1, 0, 3, 4, true) ∧
    regionOf (accessAddr scr 1 3 4).toNat = .scratch ∧ noneOut scr ∧
    (∀ e ∈ (scr.coreAt scr.myCore).storeBuf, e.sees scr.cur = true) := ⟨by decide, by decide, ⟨rfl, rfl⟩, by decide⟩
theorem witness_ScalarStores : storeForm (.std 2 1 0x3FF) = some (2, 1, 0x3FF, 8) ∧ actsFrom (.std 2 1 0x3FF) scr scr ∧
    ∃ s1, scr.scalarStore 0 (accessAddr scr 1 0x3FF 8).toNat 0 (leBytes 8 7) = .ok () s1 :=
  ⟨by decide, ⟨_, rfl, fun ⟨_, h, _⟩ => (nomatch h), rfl⟩, _, rfl⟩
theorem actsFrom_of_none {i : Instr} {s : State} {rs : List (Nat × Nat)} (h : accessSpans i s = some rs)
    (hp : s.me.pend = []) : actsFrom i s s := by
  refine ⟨rs, h, ?_, ?_⟩
  · rintro ⟨p, hp', -⟩
    rw [hp] at hp'
    exact nomatch hp'
  · simp [behindReads, State.olderReads, hp]
/-- A slot with a load of scratch that has still to read. -/
def readable : State :=
  scr.modMe fun x => { x with
    pend := [{ left := 3, dest := 3, iaddr := 0, iword := instrBits (.ldd 3 1 3 0), va := 0xFFE0000000000000, out := .access
               arrived := true, fresh := false }] }
/-- A store to the bytes of a pending load: the load reads first, or its page keeps the store waiting. -/
theorem witness_ScalarStores_pending :
    (actsFrom (.stb 2 1 7) readable (afterLoads readable) ∧ readsAwait readable [(0xFFE0000000000007, 1)]) ∧
    (accessSpans (.stb 2 1 0) loading = some [(0x1234567890, 1)] ∧ loading.me.binds = [] ∧ freshOperands loading.me ∧
      forbiddenInHandler (.stb 2 1 0) = false ∧ ¬mayAccess loading [(0x1234567890, 1)]) ∧
    (accessSpans (.amoAdd 3 1 2 0 0 0) scr = some [(0xFFE0000000000000, 4)] ∧ scr.me.pend = []) := by
  have h : readsAwait loading [(0x1234567890, 1)] := ⟨_, List.mem_singleton.2 rfl, by decide⟩
  refine ⟨⟨⟨_, rfl, fun _ => rfl, rfl⟩, ⟨_, List.mem_singleton.2 rfl, by decide⟩⟩,
    ⟨by decide, by decide, fun _ h => (nomatch h), by decide, fun m => ?_⟩, by decide, by decide⟩
  exact absurd (m h) (by unfold loadsRead; decide +kernel)
theorem witness_ScratchStores : storeForm (.sth 2 1 1) = some (2, 1, 1, 2) ∧
    regionOf (accessAddr scr 1 1 2).toNat = .scratch ∧ noneOut scr ∧ scr.me.pend = [] ∧
    (∀ k < 2, 1 < k → scratchPlace scr (accessAddr scr 1 1 2) 2 k ≠ scratchPlace scr (accessAddr scr 1 1 2) 2 1) :=
  ⟨by decide, by decide, ⟨rfl, rfl⟩, by decide, fun k h1 h2 => by omega⟩
theorem witness_StoreBufferLeaves :
    let e : SBEntry := { tid := 0, lid := 0, loc := .sram 0 8, bytes := [1, 2] }
    let s := scr.modCore 0 fun k => { k with storeBuf := [e] }
    let o : SBEntry := { e with loc := .sram 0 9 }
    let f : SBEntry := { e with loc := .sram 1 0, before := true }
    (s.coreAt 0).storeBuf = [] ++ e :: [] ∧ e.loc = .sram 0 8 ∧
    (((scr.modCore 0 fun k => { k with storeBuf := [f, o, e] }).coreAt 0).storeBuf = [f, o] ++ e :: [] ∧ f.before = true ∧
      e.bytes ≠ [] ∧ o.loc.space = e.loc.space ∧ o.loc.addr < 8 + e.bytes.length ∧ 8 < o.loc.addr + o.bytes.length) := by decide

/-- s1 addresses a page of which the walk is in progress elsewhere, or that raises a fault. -/
theorem witness_OrderedAccesses_lda :
    let s := pkg (withRegs [(1, 0xFFE0000000000000), (2, 0xFFE0000000000004), (3, 8)])
    let t := paged 0x20008017
    (ldaForm (.ldaW 3 2 4 15) = some (3, 2, 4, 15, 4) ∧ (s.reg 2).toNat % 4 = 0 ∧ regionOf (s.reg 2).toNat = .scratch ∧
      ∃ bs s1, s.orderedLoad 0 (s.reg 2).toNat 4 4 = .ok bs s1 ∧ bs.length = 4) ∧
    (ldaForm (.ldaD 3 3 0 0) = some (3, 3, 0, 0, 8) ∧ (s.reg 3).toNat % 8 = 0 ∧
      ∃ c acc v s1, s.orderedLoad 0 (s.reg 3).toNat 8 0 = .stop (.trap c acc v) s1) ∧
    (ldaForm (.ldaD 3 1 0 0) = some (3, 1, 0, 0, 8) ∧ (t.reg 1).toNat % 8 = 0 ∧
      ∃ p op s1, t.orderedLoad 0 (t.reg 1).toNat 8 0 = .stop (.park p op) s1) ∧
    (ldaForm (.ldaD 3 2 4 15) = some (3, 2, 4, 15, 8) ∧ (s.reg 2).toNat % 8 ≠ 0) :=
  ⟨⟨by decide, by decide, by decide, _, _, rfl, by decide⟩, ⟨by decide, by decide, exists_trap (by decide +kernel)⟩,
    ⟨by decide, by decide, exists_park (by decide +kernel)⟩, by decide, by decide⟩
/-- A slot that an accumulate fault awaits. -/
def faulted : State := scr.modMe fun x => { x with accFault := some (cALIGN, 8) }
theorem witness_OrderedAccesses_stl :
    (stlForm (.stlD 1 2 0) = some (1, 2, 0, 8) ∧ (scr.reg 1).toNat % 8 = 0 ∧ regionOf (scr.reg 1).toNat = .scratch ∧
      mayRelease (inOrder scr (scr.reg 1) 8) 0 ∧
      ∃ cs s1 s2, scr.resolve 0 accWrite true true (scr.reg 1).toNat 8 = .ok cs s1 ∧ formatCheck accWrite cs s1 = .ok () s2 ∧
        mayRelease (s2.syncAmo s2.cur cs) 4) ∧
    ¬loadsRead loading ∧
    (loadsRead faulted ∧ (beforeRelease faulted 2).me.accFault = some (cALIGN, 8)) ∧
    (let s := pkg (withRegs [(2, 0xFFE0000000000004)])
     stlForm (.stlD 2 3 0) = some (2, 3, 0, 8) ∧ (s.reg 2).toNat % 8 ≠ 0) :=
  ⟨⟨by decide, by decide, by decide, ⟨rfl, Or.inl (by decide)⟩, _, _, _, rfl, rfl, rfl, Or.inr rfl⟩,
    by unfold loadsRead; decide +kernel, ⟨rfl, rfl⟩, by decide, by decide⟩
theorem witness_OrderedAccesses_traps :
    let s := pkg (withRegs [(2, 0xFFE0000000000004), (3, 8)])
    feForm (.ldx 4 2 0) = some (2, 3, true) ∧ s.me.inHandler = false ∧ (s.reg 2).toNat % 8 ≠ 0 ∧
    (s.reg 3).toNat % 8 = 0 ∧ regionOf (s.reg 3).toNat ≠ .scratch := by decide

/-- scr with the word at 0 empty. -/
def emptied : State := scr.setFull 0 0 false
theorem witness_FullEmptyCompletes :
    feAddress (scr.reg 1) ∧ scr.me.inHandler = false ∧ feWord scr (scr.reg 1) = 0 ∧ inOrder scr (scr.reg 1) 8 = scr ∧
    (∃ v s1, findsFull scr 0 false v s1) ∧ (∃ v s1, findsFull scr 0 true v s1) ∧ mayRelease scr 2 ∧
    (feAddress (emptied.reg 1) ∧ mayRelease (inOrder emptied (emptied.reg 1) 8) 2 ∧ ¬isFull emptied 0) :=
  ⟨⟨by decide, by decide⟩, by decide, rfl, rfl, ⟨_, _, rfl, rfl⟩, ⟨_, _, rfl, ⟨rfl, Or.inr rfl⟩, rfl⟩, ⟨rfl, Or.inr rfl⟩,
    ⟨by decide, by decide⟩, ⟨rfl, Or.inr rfl⟩, by unfold isFull; decide⟩
theorem witness_FullEmptyWaits :
    (feAddress (scr.reg 1) ∧ scr.me.inHandler = false ∧ isFull (inOrder scr (scr.reg 1) 8) (feWord scr (scr.reg 1))) ∧
    (feAddress (emptied.reg 1) ∧ emptied.me.inHandler = false ∧
      ¬isFull (inOrder emptied (emptied.reg 1) 8) (feWord emptied (emptied.reg 1))) := by
  unfold feAddress isFull; decide
theorem witness_FullEmptyWord : (2 ^ 64 - 1 : Nat) < 2 ^ 64 ∧ 8 % 8 = 0 ∧
    (∀ w ∈ (scr.release 0 2).waits, w.place ≠ .word 0 8) ∧
    (∀ w ∈ ((((scr.servePlace 0 (.sram 0 8)).drainOver 0 (.sram 0 8) 8).release 0 2).acquireAs 0 2).waits, w.place ≠ .word 0 8) ∧
    ∃ w s2, scr.feLoad 0 8 true = some (w, s2) := ⟨by decide, by decide, by decide, by decide +kernel, _, _, rfl⟩

theorem witness_Atomics :
    amoForm (.amoAdd 3 1 2 4 3 1) = some (0, 3, 1, 2, 4, 3, 1) ∧ amoForm (.cas 0 1 2 0 0 0) = some (9, 0, 1, 2, 0, 0, 0) ∧
    freshOperands scr.me ∧ (∃ c s1, scr.amoTarget (scr.reg 1) 8 = .ok c s1 ∧ mayOrder s1 4 3) ∧
    ∃ c s1, scr.amoTarget (scr.reg 1) 4 = .ok c s1 ∧ mayOrder s1 0 0 := by
  refine ⟨rfl, rfl, ?_, ⟨_, _, rfl, fun _ => ⟨rfl, Or.inr rfl⟩⟩, _, _, rfl, fun h => by cases h⟩
  intro k h; cases h
theorem witness_PostedAtomics :
    amoForm (.amoMaxu 0 1 2 4 2 0) = some (7, 0, 1, 2, 4, 2, 0) ∧ (2 : BitVec 2).getLsbD 0 = false ∧ freshOperands scr.me ∧
    ∃ c s1, scr.amoTarget (scr.reg 1) 4 = .ok c s1 ∧ mayOrder s1 4 2 ∧ c.atHome = false := by
  refine ⟨rfl, by decide, ?_, _, _, rfl, fun _ => ⟨rfl, Or.inr rfl⟩, rfl⟩
  intro k h; cases h
theorem witness_AtomicWord : (scr.coreAt 0).storeBuf = [] ∧ ∀ x : Nat, (x + 1) % 2 ^ 32 < 2 ^ (8 * 4) :=
  ⟨by decide, fun _ => Nat.mod_lt _ (by decide)⟩
theorem witness_AccumulateAdds : (8 = 4 ∨ 8 = 8) ∧ (3 + 1) * 8 ≤ (List.replicate 32 (0 : Byte)).length := by decide
theorem witness_ScalarAccumulates :
    let s := paged 0x20000017
    accsForm (.accsF64 1 2) = some (1, 2, 8, true) ∧ (s.reg 1).toNat % 8 = 0 ∧
    ∃ r s1, s.accTarget (s.reg 1).toNat 8 false = .ok r s1 := ⟨by decide, by decide, ok_of (by decide +kernel)⟩

theorem witness_MaintenanceCompletes : mayRelease scr 0 ∧ mayRelease scr 4 ∧ ¬loadsRead loading ∧
    (loadsRead faulted ∧ (beforeRelease faulted 4).me.accFault = some (cALIGN, 8)) ∧
    ((flushed scr).dropUnits scr.myCore scr.me.lid).me.accFault = none ∧
    ((flushed faulted).dropUnits faulted.myCore faulted.me.lid).me.accFault = some (cALIGN, 8) :=
  ⟨⟨rfl, Or.inl (by decide)⟩, ⟨rfl, Or.inr rfl⟩, by unfold loadsRead; decide +kernel, ⟨rfl, rfl⟩, rfl, rfl⟩
theorem witness_TranslationsGone :
    (let s := pkg { user with sup := true, regs := [(1, 0x123456780003)] }
     s.me.sup = true ∧ mayRelease s 3) ∧ scr.me.sup = false := ⟨⟨by decide, rfl, Or.inr rfl⟩, by decide⟩
theorem witness_Barriers :
    let s := (scr.putWord 0 0 (objectWord 4095 1 1)).putWord 0 8 1
    let s1 := barState s (s.reg 1)
    barAddress (s.reg 1) ∧ (s.reg 2).toNat % 2 ^ 20 ≠ 0 ∧ s.scratchOff s.cur (s.reg 1).toNat = 0 ∧ pendingAt s1 0 ≠ 0 ∧
    expectedAt s1 0 ≠ 0 ∧ mayRelease s1 2 ∧ s.me.inHandler = false ∧ phaseAt s1 0 ≠ (s.reg 2).toNat % 2 ^ 12 ∧
    (let t := scr.putWord 0 0 (objectWord 7 1 1)
     barAddress (t.reg 1) ∧ phaseAt (barState t (t.reg 1)) 0 = (t.reg 2).toNat % 2 ^ 12 ∧ t.me.inHandler = false) :=
  ⟨⟨by decide, by decide⟩, by decide, by decide, by decide, by decide, ⟨rfl, Or.inr rfl⟩, by decide, by decide,
    ⟨by decide, by decide⟩, by decide, by decide⟩
theorem witness_BarrierPhase :
    let s := scr.putWord 0 0 (objectWord 4095 0 2)
    let t := scr.putWord 0 0 (objectWord 4095 1 2)
    (∀ w ∈ s.waits, w.place ≠ .barrier 0 0) ∧ s.wordAt 0 0 / 2 ^ 12 % 2 ^ 20 = 0 ∧ s.wordAt 0 8 = 0 ∧
    (∀ w ∈ t.waits, w.place ≠ .barrier 0 0) ∧ t.wordAt 0 0 / 2 ^ 12 % 2 ^ 20 ≠ 0 := by decide

/-- A task whose frame has a number of units and a JOIN. -/
def task (units join : Nat) : State :=
  let s := pkg { withRegs [(1, 0x3000), (2, 64), (3, 20480)] with frp := frameAddr 0 0 }
  ((s.modClu 0 fun c => { c with frames := [(0, { units := units, holder := 0, round := 0, tiles := [], args := [] })] }).frWr
    (frameAddr 0 0) 56 8 units).frWr (frameAddr 0 0) 16 4 join

theorem witness_TaskInstructions_spawn :
    let s := task 2 0
    let s2 := flushed (s.endShadows s.cur)
    s.me.inHandler = false ∧ atBoundary s s2 ∧ (s.reg 2).toNat = 64 ∧ (s.reg 3).toNat = 20480 ∧ 20480 % 64 = 0 ∧
    s2.me.deque.length < 64 ∧ s2.myDrain = false ∧ (∃ off, s2.frameRoom s2.myClu (s2.childSize 64) = some off) ∧
    ∃ off, s2.frameRoom s2.myClu (s2.childSize 20480) = some off := by
  refine ⟨by decide, ⟨by decide, rfl, by decide⟩, by decide, by decide, by decide, by decide, by decide, ?_, ?_⟩ <;>
  · unfold State.frameRoom
    rw [← Option.isSome_iff_exists, List.find?_cons]
    split
    · rfl
    · decide +kernel
/-- A launch that is being drained. -/
def drained : Launch :=
  { lid := 0, asid := 0, record := [], domain := 0, seq := 0, state := 2, source := 0
    drain := some { image := 0, seq := 0, notify := false, source := 0 } }
theorem witness_TaskInstructions_drained :
    let s := { task 2 0 with launches := [drained] }
    let s2 := flushed (s.endShadows s.cur)
    s.me.inHandler = false ∧ atBoundary s s2 ∧ (s2.reg 2).toNat = 64 ∧ s2.me.deque.length < 63 ∧ s2.myDrain = true ∧
    s2.frJoin s2.me.frp = 0 ∧ s2.me.binds = [] ∧ ∃ off, s2.frameRoom s2.myClu (s2.childSize 64) = some off := by
  refine ⟨by decide, ⟨by decide, rfl, by decide⟩, by decide, by decide, by decide, by decide, by decide, ?_⟩
  unfold State.frameRoom
  rw [← Option.isSome_iff_exists, List.find?_cons]
  split
  · rfl
  · decide +kernel
theorem witness_TaskInstructions_try : scr.frJoin scr.me.frp = 0 ∧ (task 2 1).frJoin (task 2 1).me.frp ≠ 0 := by decide
theorem witness_TaskInstructions_boundary :
    let s := task 2 0
    let t := task 2 1
    let u := { task 2 0 with launches := [drained] }
    (s.me.inHandler = false ∧ atBoundary s (flushed (s.endShadows s.cur)) ∧
      (flushed (s.endShadows s.cur)).frJoin (frameAddr 0 0) = 0 ∧ (flushed (s.endShadows s.cur)).me.binds = [] ∧
      (flushed (s.endShadows s.cur)).myDrain = false) ∧
    (t.me.inHandler = false ∧ atBoundary t (flushed (t.endShadows t.cur)) ∧
      (flushed (t.endShadows t.cur)).frJoin (frameAddr 0 0) ≠ 0 ∧ (flushed (t.endShadows t.cur)).me.binds = []) ∧
    (u.me.inHandler = false ∧ atBoundary u (flushed (u.endShadows u.cur)) ∧
      (flushed (u.endShadows u.cur)).myDrain = true ∧ (flushed (u.endShadows u.cur)).me.binds = []) := by
  refine ⟨⟨by decide, ⟨by decide, rfl, by decide⟩, by decide, by decide, by decide⟩,
    ⟨by decide, ⟨by decide, rfl, by decide⟩, by decide, by decide⟩,
    ⟨by decide, ⟨by decide, rfl, by decide⟩, by decide, by decide⟩⟩
theorem witness_FramePublish :
    let u := (task 10 0).modMe fun x => { x with vcount := 1, vclass := 15, tcount := 4, regs := [(1, 0xFFFFFFFE), (2, 0x03210401)] }
    let u1 := (u.drainWide u.cur).drainStores u.myCore
    (u.me.inHandler = false ∧ (u1.reg 2).toNat % 2 ^ 7 ≤ u1.me.vcount ∧ u1.me.vcount ≤ 64 ∧ u1.me.vclass ≤ 15 ∧
      (u1.reg 2).toNat / 2 ^ 8 % 2 ^ 3 = 4 ∧ (∀ i < 4, (u1.reg 2).toNat / 2 ^ (12 + 4 * i) % 2 ^ 4 < u1.me.tcount) ∧
      (∀ i < 4, ∀ j < 4, (u1.reg 2).toNat / 2 ^ (12 + 4 * i) % 2 ^ 4 = (u1.reg 2).toNat / 2 ^ (12 + 4 * j) % 2 ^ 4 → i = j) ∧
      savedVec ((u1.reg 1).toNat % 2 ^ 32 / 2 * 2) + (u1.reg 2).toNat % 2 ^ 7 * (64 + 16 * u1.me.vclass) ≤
        64 * (u1.frFlags u1.me.frp % 2 ^ 9)) := by decide

theorem witness_LaunchInstruction :
    let s := pkg (withRegs [(1, 0xFFE0000000000000), (2, 255)])
    (s.reg 2).toNat % 256 ≠ 0 ∧ (s.reg 1).toNat % 256 = 0 ∧ mayRelease s 3 ∧
    ∃ cs s2 c s3, (released s 3).resolve (released s 3).cur accRead true true (s.reg 1).toNat 256 = .ok cs s2 ∧
      s2.readChunks s2.cur accRead cs = .ok c s3 ∧ s3.me.mode = .running ∧
      (∃ n, ((s3.setReg 3 0).advance 4).failedCheck c s3.me.asid s3.me.sup true = some n) ∧
      ((((s3.setReg 3 0).advance 4).launchFrom c).2.slotAt s3.cur).mode = .running := by
  refine ⟨by decide, by decide, ⟨rfl, Or.inr rfl⟩, _, _, _, _, rfl, rfl, by decide +kernel, ⟨1, by decide +kernel⟩, by decide +kernel⟩

/-- Donation queue 15 with some descriptors. -/
def donating (lid : Option Nat) (descs : List (List Byte)) : State :=
  { pkg (withRegs [(1, 0xFFE0000000000000), (2, 15)]) with donqs := [(15, { lid := lid, descs := descs })] }
theorem witness_DonationInstructions :
    (let s := donating none []
     (s.reg 1).toNat % 64 = 0 ∧ mayRelease s 4 ∧ (s.donqAt 15).lid ≠ some s.me.lid ∧ s.me.inHandler = false ∧
      ∃ cs s2 d s3, (released s 4).resolve (released s 4).cur accRead true true (s.reg 1).toNat 64 = .ok cs s2 ∧
        s2.readChunks s2.cur accRead cs = .ok d s3) ∧
    ((donating (some 0) []).donqAt 15).lid = some (donating (some 0) []).me.lid ∧
    ((donating (some 0) []).donqAt 15).descs = [] ∧
    (let s := donating (some 0) [List.replicate 64 1]
     (s.donqAt 15).lid = some s.me.lid ∧ (s.donqAt 15).descs = [List.replicate 64 1] ∧
      ∃ s1, s.plainStore s.cur (s.reg 1).toNat (List.replicate 64 1) = .ok () s1) := by
  refine ⟨⟨by decide, ⟨rfl, Or.inr rfl⟩, by decide, by decide, _, _, _, _, rfl, rfl⟩, by decide, by decide, by decide, by decide, _, rfl⟩

/-- A slot with a window of 64 registers of class 4 or more. -/
def wide (n : Nat) : State := pkg { withRegs [(1, 0xFFE0000000000000), (2, 8)] with vcount := 64, vclass := n }
theorem witness_VectorResults :
    (∃ f, vectorForm (.vadd 63 62 61 7) (wide 4) (wide 4).me.vreg = some f ∧ windowHolds (wide 4).me f.ints (f.dest :: f.reads) ∧
      exactAllows (wide 4).me f.exact f.flags) ∧
    ∃ f, vectorForm (.fadd 1 2 3 0) (wide 0) (wide 0).me.vreg = some f ∧ windowHolds (wide 0).me f.ints (f.dest :: f.reads) ∧
      exactAllows (wide 0).me f.exact f.flags := by
  unfold windowHolds exactAllows
  exact ⟨⟨_, rfl, by decide, by decide⟩, _, rfl, by decide, by decide⟩
theorem witness_WindowTraps :
    (∃ f, vectorForm (.vadd 1 2 3 0) (pkg user) (pkg user).me.vreg = some f ∧ (pkg user).me.vcount = 0) ∧
    (let s := pkg { user with vcount := 63 }
     ∃ f, vectorForm (.vadd 1 2 63 0) s s.me.vreg = some f ∧ s.me.vcount ≠ 0 ∧ ∃ r ∈ f.dest :: f.reads, s.me.vcount ≤ r) ∧
    (∃ f, vectorForm (.vadd 1 2 3 0) (wide 3) (wide 3).me.vreg = some f ∧ (wide 3).me.vcount ≠ 0 ∧
      (∀ r ∈ f.dest :: f.reads, r < (wide 3).me.vcount) ∧ f.ints = true ∧ (wide 3).me.vclass < 4) ∧
    (let s := (wide 4).modMe fun x => { x with prc := 0x80, regs := [(1, 0x3FF0000000000001)] }
     ∃ f, vectorForm (.vbcast 1 1 1) s s.me.vreg = some f ∧ windowHolds s.me f.ints (f.dest :: f.reads) ∧ s.me.exact = true ∧
      f.exact = true ∧ f.flags &&& flNX ≠ 0) := by
  unfold windowHolds
  exact ⟨⟨_, rfl, by decide⟩, ⟨_, rfl, by decide, by decide⟩, ⟨_, rfl, by decide, by decide, by decide, by decide⟩,
    _, rfl, by decide, by decide, by decide, by decide +kernel⟩

/-- A slot with tiles 0 to 3, two of them held. -/
def tiled (holds : List Nat) : State :=
  { pkg { withRegs [(1, 0xFFE0000000000000)] with tcount := 4, tmap := [(0, 0), (1, 1), (2, 2), (3, 3)] } with
    cores := [(0, { tas := [(0, { holds := holds }), (1, {}), (2, {}), (3, {})] })] }
theorem witness_WindowTraps_tiles :
    (∃ f, matrixForm (.mzero 4 0) ((tiled []).drainWide 0) = some f ∧ ∃ r ∈ f.dest :: f.named, (tiled []).me.tcount ≤ r) ∧
    ∃ f, matrixForm (.mzero 0 5) ((tiled [64]).drainWide 0) = some f ∧
      (∀ r ∈ f.dest :: f.named, r < (tiled [64]).me.tcount) ∧ f.accepts = true ∧ ((tiled [64]).tile 0 f.dest).holds ≠ [] :=
  ⟨⟨_, rfl, by decide⟩, _, rfl, by decide, by decide, by decide⟩

/-- v0 is bound to a read stream with a vector of F32 elements at its head, v1 to a write stream. -/
def withStreams (s : State) (w : Nat) : State :=
  let r : StreamRec := { base := 0, fmt := 1, dims := 1, dir := 0, desc := false, count := [32, 1, 1, 1], stride := [4, 0, 0, 0] }
  let v : SVec := { lanes := [], cls := 4, raw := (List.range 32).map fun i => (i, .word w) }
  { s.modMe fun x => { x with binds := [(0, 0), (1, 1)] } with
    cores := [(0, { streams := [(0, { newStream 0 0 r with buf := [v] }), (1, newStream 0 1 { r with dir := 1 })] })] }
def streaming : State := withStreams (wide 4) 0x3F800000
/-- The streams of some registers are ready, as a test. -/
def ready (s : State) (rs ws : List Nat) : Bool :=
  decide (s.me.binds.map Prod.snd).Nodup &&
  (rs.all fun r => match s.boundStream s.cur r with | some (_, st) => st.rcd.dir = 0 && st.buf != [] | none => true) &&
  ws.all fun r => match s.boundStream s.cur r with
    | some (_, st) => st.rcd.dir != 0 && st.fault = none && decide (st.buf.length < 8)
    | none => true
theorem streamsReady_of {s : State} {rs ws : List Nat} (h : ready s rs ws = true) : streamsReady s rs ws := by
  simp only [ready, Bool.and_eq_true, decide_eq_true_eq, List.all_eq_true] at h
  refine ⟨h.1.1, fun r hr e st hb => ?_, fun r hr e st hb => ?_⟩
  · have := h.1.2 r hr
    simpa [hb] using this
  · have := h.2 r hr
    simpa [hb, and_assoc] using this
theorem witness_StreamOperands :
    (∃ f, vectorForm (.fadd 1 0 2 0) streaming streaming.vin = some f ∧ windowTakes streaming.me f.ints (f.dest :: f.reads) ∧
      streamsReady streaming f.reads [f.dest] ∧ exactTakes streaming.me (headFlags streaming f.reads f.act) f.exact f.flags) ∧
    (∃ f, vectorForm (.fadd 2 0 2 0) streaming streaming.vin = some f ∧ streaming.boundStream 0 f.dest = none) ∧
    (let s := withStreams ((wide 4).modMe fun x => { x with prc := 0x80 }) 0x3F800001
     ∃ f, vectorForm (.fadd 1 0 2 0) s s.vin = some f ∧ windowTakes s.me f.ints (f.dest :: f.reads) ∧
      streamsReady s f.reads [f.dest] ∧ s.me.exact = true ∧ headFlags s f.reads f.act &&& flNX ≠ 0) ∧
    (∃ f, compareForm (.fcmpLe 7 0 2 0) streaming streaming.vin = some f ∧ windowTakes streaming.me f.ints f.reads ∧
      streamsReady streaming f.reads [] ∧ exactTakes streaming.me (headFlags streaming f.reads fun _ => f.mask) false 0) ∧
    (let s := withStreams ((wide 4).modMe fun x => { x with prc := 0x80 }) 0x3F800001
     ∃ f, compareForm (.fcmpLe 7 0 2 0) s s.vin = some f ∧ windowTakes s.me f.ints f.reads ∧ streamsReady s f.reads [] ∧
      s.me.exact = true ∧ headFlags s f.reads (fun _ => f.mask) &&& flNX ≠ 0) ∧
    (windowTakes streaming.me false [0] ∧ streamsReady streaming [0] [] ∧ streaming.me.exact = false) := by
  unfold windowTakes exactTakes
  exact ⟨⟨_, rfl, by decide, streamsReady_of (by decide +kernel), by decide +kernel⟩, ⟨_, rfl, by decide⟩,
    ⟨_, rfl, by decide, streamsReady_of (by decide +kernel), by decide, by decide +kernel⟩,
    ⟨_, rfl, by decide, streamsReady_of (by decide +kernel), by decide +kernel⟩,
    ⟨_, rfl, by decide, streamsReady_of (by decide +kernel), by decide, by decide +kernel⟩,
    by decide, streamsReady_of (by decide +kernel), by decide⟩
theorem witness_MaskAndLaneResults :
    (∃ f, compareForm (.vcmpGeu 7 63 0 0) (wide 4) (wide 4).me.vreg = some f ∧ windowHolds (wide 4).me f.ints f.reads) ∧
    maskValue (.kand 7 0 0) (wide 4).me = some (7, 0xFFFFFFFF) ∧ windowHolds (wide 0).me false [63] ∧
    exactAllows (wide 0).me true (convert fmtB64 0 (decodeLane 0 0)).2 := by
  unfold windowHolds exactAllows
  exact ⟨⟨_, rfl, by decide⟩, by decide, by decide, by decide⟩
theorem witness_VectorMemory :
    let s := wide 4
    let a : LaneAccess := { v := 63, k := 7, ty := 0, idx := [], addr := unitPlace s 1 4 }
    let s1 := s.stepWides s.myCore fun e => e.tid = s.cur && a.idx.contains e.vd
    (vldForm (.vldUnit 63 1 7 0) s1 = some a ∧ windowHolds s.me (intType a.ty || a.idx ≠ []) (a.v :: a.idx) ∧
      s1.me.exact = false ∧
      ∃ es s2, s1.loadLanes 4 a.addr (lanesOf (s1.me.mask 7)) = .ok es s2 ∧ s2.me.binds = [] ∧ queueRoom s2) ∧
    (let u := s.drainCore s.myCore
     vstForm (.vstUnit 63 1 7 0) u = some a ∧ windowHolds s.me (intType a.ty || a.idx ≠ []) (a.v :: a.idx) ∧
      ∃ ls s2, u.storeLanes 4 a.addr (lanesOf (u.me.mask 7)) = .ok ls s2 ∧ s2.me.binds = []) := by
  unfold windowHolds queueRoom
  exact ⟨⟨rfl, by decide, rfl, _, _, rfl, rfl, by decide, by decide⟩, rfl, by decide, _, _, rfl, rfl⟩
/-- The same in exact mode: a load of integers is exact. -/
theorem witness_VectorMemory_exact :
    let s := (wide 4).modMe fun x => { x with prc := 0x80 }
    s.me.exact = true ∧ flagsOver (lanesOf (s.me.mask 0)) (fun _ => loadElem 0 4 s.me.L s.me.rnd 7) &&& flNX = 0 := by
  decide +kernel
/-- A described page with one byte set at the block that s1 addresses, a window of class 4, and an operand word in s2. -/
def described (fmt w : Nat) : State :=
  let s := paged 0x20000517
  { s.modMe fun x => { x with vcount := 64, vclass := 4, regs := [(1, 0x1234567890), (2, BitVec.ofNat 64 w)] } with
    mem := Memory.write (Memory.write s.mem 0x20007880 (BitVec.ofNat 8 fmt)) 0x200078C0 (BitVec.ofNat 8 fmt) }
theorem witness_DescribedMemory_loads :
    let s := described 0x20 0x20
    windowHolds s.me false [63] ∧ loadableFmt (wantedFmt (s.reg 2)) ∧ s.me.exact = false ∧
    ∃ bs s2, s.readBlocks 0 0x20 (s.reg 1) true (blocksOf 0x20 0 (lanesOf (s.me.mask 0))) = .ok bs s2 ∧ s2.me.binds = [] ∧
      queueRoom s2 := by
  unfold windowHolds loadableFmt queueRoom
  let ⟨bs, s2, h, hp⟩ := exists_ok (r := (described 0x20 0x20).readBlocks 0 0x20 ((described 0x20 0x20).reg 1) true
      (blocksOf 0x20 0 (lanesOf ((described 0x20 0x20).me.mask 0))))
    (p := fun _ s2 => decide (s2.me.binds = [] ∧ (s2.coreAt s2.myCore).wideq.length < 32 ∧
      ((s2.coreAt s2.myCore).wideq.filter fun w => w.tid = s2.cur).length < 8)) (by decide +kernel)
  exact ⟨by decide, by decide, rfl, bs, s2, h, of_decide_eq_true hp⟩
theorem witness_DescribedMemory_stores :
    let s := described 0x1F 0x1F
    let s1 := s.drainCore s.myCore
    windowHolds s.me false [63] ∧ fmtIsVlf (wantedFmt (s.reg 2)) = true ∧ s1.me.exact = false ∧
    (∃ locs s2, blockPlaces s1 1 (s.reg 1) [0] = .ok locs s2) ∧
    (∃ olds locs s2 s3, s1.readBlocks 3 0x1F (s.reg 1) false [0] = .ok olds s2 ∧
      blockPlaces s2 3 (s.reg 1) [0] = .ok locs s3) ∧
    windowHolds s.me false ((List.range 4).map fun r => 60 + r) ∧
    ∃ loc s2, s1.blockLoc s1.cur 1 cFORMAT (blockPlace (s1.reg 1) 0) = .ok loc s2 := by
  unfold windowHolds
  let ⟨olds, s2, h, hp⟩ := exists_ok (r := ((described 0x1F 0x1F).drainCore (described 0x1F 0x1F).myCore).readBlocks 3 0x1F
      ((described 0x1F 0x1F).reg 1) false [0])
    (p := fun _ s2 => okRun (blockPlaces s2 3 ((described 0x1F 0x1F).reg 1) [0])) (by decide +kernel)
  let ⟨locs, s3, h3⟩ := ok_of hp
  exact ⟨by decide, by decide, by decide, ok_of (by decide +kernel), ⟨olds, locs, s2, s3, h, h3⟩, by decide,
    ok_of (by decide +kernel)⟩
theorem witness_VectorAccumulates :
    (let s := (paged 0x20000017).modMe fun x => { x with vcount := 64, vclass := 4, regs := [(1, 0x1234567880)] }
     windowHolds s.me true [63] ∧ (s.reg 1).toNat % 128 = 0 ∧ lanesOf (s.me.mask 7) = [] ∧
     (lanesOf (s.me.mask 0)).head? = some 0 ∧ ∃ ck g dom s2, s.accTarget (s.reg 1).toNat 4 false = .ok (0x20007880, ck, g, dom) s2) ∧
    (let s := described 0x1F 0x1F
     windowHolds s.me false [63] ∧ addableFmt (wantedFmt (s.reg 2)) ∧
      ∃ r s2, s.accTarget (blockPlace (s.reg 1) 0) 64 true = .ok r s2) := by
  unfold windowHolds addableFmt
  let ⟨r, s2, h, hp⟩ := exists_ok (r := ((paged 0x20000017).modMe fun x => { x with
      vcount := 64, vclass := 4, regs := [(1, 0x1234567880)] }).accTarget 0x1234567880 4 false)
    (p := fun r _ => decide (r.1 = 0x20007880)) (by decide +kernel)
  have hr : r = (0x20007880, r.2.1, r.2.2.1, r.2.2.2) := by rw [← of_decide_eq_true hp]
  exact ⟨⟨by decide, by decide, by decide, by decide, _, _, _, s2, hr ▸ h⟩, by decide, by decide, ok_of (by decide +kernel)⟩

/-- The writing instructions of the witnesses above and of those of tiles and messages below act where they stand. -/
theorem witness_actsFrom :
    (actsFrom (.amoAdd 3 1 2 4 3 1) scr scr ∧ actsFrom (.cas 0 1 2 0 0 0) scr scr ∧
      actsFrom (.amoMaxu 0 1 2 4 2 0) scr scr) ∧
    (let s := paged 0x20000017; actsFrom (.accsF64 1 2) s s) ∧
    (let s := (scr.putWord 0 0 (objectWord 4095 1 1)).putWord 0 8 1
     actsFrom (.barInit 1 2) s s ∧ actsFrom (.barExp 1 2) s s) ∧
    (actsFrom (.dtake 3 1 2) (donating none []) (donating none []) ∧
      actsFrom (.dtake 3 1 2) (donating (some 0) [List.replicate 64 1]) (donating (some 0) [List.replicate 64 1])) ∧
    actsFrom (.vstUnit 63 1 7 0) (wide 4) (wide 4) ∧
    (let s := described 0x1F 0x1F
     actsFrom (.vstd 63 1 2 0) s s ∧ actsFrom (.vstdp 63 1 2 0) s s ∧ actsFrom (.vqntPeb3 60 1) s s ∧
      actsFrom (.accD 63 1 2 0) s s) ∧
    (let s := (paged 0x20000017).modMe fun x => { x with vcount := 64, vclass := 4, regs := [(1, 0x1234567880)] }
     actsFrom (.acc 63 1 7 0) s s ∧ actsFrom (.acc 63 1 0 0) s s) ∧
    (actsFrom (.mstt 3 1 0 0) (tiled []) (tiled []) ∧
     let s := { ((described 0x20 0).modMe fun x => { x with tcount := 1, tmap := [(0, 0)] }) with
       cores := [(0, { tas := [(0, { tag := tPEB7 })] })] }
     actsFrom (.mstt 0 1 0 5) s s) ∧
    actsFrom (.ibxRecv 3 1) scr scr := by
  refine ⟨⟨?_, ?_, ?_⟩, ?_, ⟨?_, ?_⟩, ⟨?_, ?_⟩, ?_, ⟨?_, ?_, ?_, ?_⟩, ⟨?_, ?_⟩, ⟨?_, ?_⟩, ?_⟩ <;>
    exact actsFrom_of_none rfl (by decide)

/-- A stream record of 32 elements of F32, in scratch. -/
def recorded : State :=
  { wide 4 with clusters := [(0, { ({} : Cluster) with sram := [(8, 1), (9, 1), (16, 32), (20, 1), (24, 1), (28, 1), (32, 4)] })] }
theorem witness_StreamBindings :
    ((recorded.reg 1).toNat % 64 = 0 ∧
      ∃ cs s2 b s3 e, recorded.resolve 0 0 true false (recorded.reg 1).toNat 64 = .ok cs s2 ∧
        (s2.syncAmo s2.cur cs).readChunks s2.cur 0 cs = .ok b s3 ∧ bindable s3.me 63 b ∧
        (s3.coreAt s3.myCore).freeEngine = some e) ∧
    FMap.find recorded.me.binds 63 = none ∧ ∃ s2, streaming.readyClose 0 = .ok () s2 := by
  refine ⟨⟨by decide, _, _, _, _, 0, rfl, rfl, ?_, by decide⟩, by decide, _, rfl⟩
  unfold bindable
  decide
theorem witness_WindowChanges :
    (windowAsked (.vwinImm 64 15) (pkg user) = some (64, 15) ∧ windowServed (pkg user) 64 15 ∧
      ∀ e ∈ (pkg user).me.vregs, FMap.sorted e.2 = true) ∧
    (windowAsked (.vwinImm 0 0) (wide 4) = some (0, 0) ∧ windowServed (wide 4) 0 0) ∧
    (windowAsked (.vwinReg 2 2) (wide 4) = some (8, 8) ∧ windowServed (wide 4) 8 8) ∧
    (tilesAsked (.twinImm 16) (tiled []) = some 16 ∧ tilesServed (tiled []) 16) ∧
    (tilesAsked (.twinImm 0) (tiled []) = some 0 ∧ tilesServed (tiled []) 0) := by
  unfold windowServed tilesServed
  refine ⟨⟨by decide, by decide, by decide⟩, ⟨by decide, by decide⟩, ⟨by decide, by decide⟩, ⟨by decide, by decide, ?_, ?_, by decide⟩,
    by decide, by decide, ?_, ?_, by decide⟩
  · intro j h1 h2
    exact absurd h1 (by have h3 : j < 4 := h2; omega)
  · intro j h
    have h3 : j < 4 := h
    revert j; decide
  · intro j h0 h
    have h3 : j < 4 := h
    clear h0 h
    revert j; decide
  · intro j h
    have h3 : j < 4 := h
    revert j; decide
theorem witness_MatrixResults :
    (∃ f, matrixForm (.mma 0 1 2) (((tiled []).modCore 0 fun c => { c with tas := FMap.put (FMap.put c.tas 1 { tag := tBF16 }) 2 { tag := tBF16 } }).drainCore 0)
        = some f ∧ tilesHold (tiled []) f.dest f.named ∧ f.accepts = true) ∧
    ∃ f, matrixForm (.mtrn 3 2 0) ((tiled []).drainCore 0) = some f ∧ tilesHold (tiled []) f.dest f.named ∧ f.accepts = true := by
  unfold tilesHold
  exact ⟨⟨_, rfl, by decide, by decide⟩, _, rfl, by decide, by decide⟩
theorem witness_TileAccesses :
    let s1 := (tiled []).drainCore 0
    (3 : BitVec 4).toNat < (tiled []).me.tcount ∧ ((tiled []).tile 0 3).holds = [] ∧ FMap.find (tiled []).me.tmap 3 ≠ none ∧
    (∃ rows s2, s1.plainRows ((List.range 32).map (s1.rowAddr 1 0 0)) = .ok rows s2 ∧ rows.length = 32 ∧
      (∀ p ∈ rows, p.1.length = 128 ∧ p.2.length = 8) ∧ s2.cur = 0) ∧
    ((tiled []).tile 0 3).tag = 0 ∧ ((tiled []).tile 0 3).tag ≠ 5 ∧
    ∃ css s2, Run.mapList (fun a s => (s.resolve 0 1 true true a 128).bind fun cs s3 =>
        (atRow a (formatCheck 1 cs s3)).bind fun _ s4 => .ok cs s4) ((List.range 32).map (s1.rowAddr 1 0 0)) s1 = .ok css s2 := by
  refine ⟨by decide, by decide, by decide, ⟨_, _, rfl, by decide +kernel, by decide +kernel, by decide +kernel⟩, by decide, by decide, _, _, rfl⟩
theorem witness_TileAccesses_blocks :
    let s := { ((described 0x20 0).modMe fun x => { x with tcount := 1, tmap := [(0, 0)] }) with
      cores := [(0, { tas := [(0, { tag := tPEB7 })] })] }
    (s.tile s.cur 0).tag = tPEB7 ∧ (s.tile s.cur 0).holds = [] ∧
    (∃ rows s2, (s.drainCore 0).pebRows tPEB7 ((List.range 32).map ((s.drainCore 0).rowAddr 1 0 tPEB7)) = .ok rows s2) ∧
    ∃ locs s2, Run.mapList (fun r s => Run.mapList (fun h s =>
        (s.rowCheck 1 (s.rowAddr 1 0 tPEB7 r) ((s.rowAddr 1 0 tPEB7 r + 64 * h) % 2 ^ 64)).bind fun _ s3 =>
          s3.blockLoc s3.cur 1 cFORMAT ((s.rowAddr 1 0 tPEB7 r + 64 * h) % 2 ^ 64)) [0, 1] s) (List.range 32) (s.drainCore 0) =
      .ok locs s2 :=
  ⟨by decide, by decide, ok_of (by decide +kernel), ok_of (by decide +kernel)⟩
theorem witness_SolverResults :
    let s := (tiled []).modMe fun x => { x with vcount := 1, vclass := 0 }
    let u := s.modMe fun x => { x with dln := 1 }
    let s1 := s.drainCore s.myCore
    let u1 := u.drainCore u.myCore
    (tilesHold s 0 [1] ∧ (s.tile s.cur 1).tag = tACC32 ∧ ¬tooLate s1 320) ∧
    (tilesHold u 0 [1] ∧ (u.tile u.cur 1).tag = tACC32 ∧ tooLate u1 320) ∧
    (windowHolds s.me false [0] ∧ (3 : BitVec 4).toNat < s.me.tcount ∧ (s.tile s.cur 3).tag = tACC32 ∧ ¬tooLate s1 (solverLatency 3)) ∧
    (windowHolds u.me false [0] ∧ (3 : BitVec 4).toNat < u.me.tcount ∧ (u.tile u.cur 3).tag = tACC32 ∧ tooLate u1 (solverLatency 1)) := by
  unfold tilesHold windowHolds tooLate
  decide
/-- A core with 512 copies in flight. -/
def crowded (x : Slot) : State :=
  let c : Copy := { tid := 0, lid := 0, asid := 0, sup := false, id := 1, kind := 0, dst := 0, src := 0, ctl := 0, done := 0,
                    bytes := 0, status := 0, ranges := [], recv := [], finished := false }
  { pkg x with cores := [(0, { copies := List.replicate 512 c })] }
/-- A message of kind 3 for slot 0 in the inbox. -/
def mailed : State := { scr with cores := [(0, { inbox := [{ tid := 0, lid := 0, bytes := leBytes 16 3 }] })] }
theorem witness_EngineInstructions :
    (copyForm 3 1 2 0 0 (.cpy 3 1 2 0) ∧ scr.inFlight scr.myCore < 512) ∧
    (copyForm 3 0 2 0 1 (.cpyt 3 0 2 0) ∧ tileWordStatus 1 (scr.reg 0).toNat = none) ∧
    (512 ≤ (crowded { user with uh := true }).inFlight 0 ∧ (crowded { user with uh := true }).me.inHandler = true) ∧
    (512 ≤ (crowded user).inFlight 0 ∧ (crowded user).me.inHandler = false) ∧
    (copyForm 3 0 2 0 2 (.cpym 3 0 2 0) ∧ tileWordStatus 2 (scr.reg 0).toNat = some 2) ∧
    (actsFrom (.ibxRecv 3 1) mailed mailed ∧ (mailed.reg 1).toNat % 16 = 0 ∧ mailed.me.inHandler = false ∧
      ∃ j m s1, mailed.firstMsg 0 = some (j, m) ∧ mailed.plainStore 0 (mailed.reg 1).toNat m.bytes = .ok () s1) ∧
    ((scr.reg 1).toNat % 16 = 0 ∧ scr.firstMsg 0 = none ∧ scr.me.inHandler = false) ∧
    (let s1 := scr.drainWide 0; s1.drainBusy 3 (drainNoted s1 3) = false) ∧
    (let s1 := (crowded user).drainWide 0; s1.drainBusy 0 (drainNoted s1 0) = true) ∧
    (let s1 := ((crowded user).modMe fun x => { x with drains := some (x.pc, []) }).drainWide 0
     s1.drainBusy 0 (drainNoted s1 0) = false) := by
  unfold copyForm
  refine ⟨by decide, by decide, by decide +kernel, by decide +kernel, by decide, ⟨actsFrom_of_none rfl (by decide), by decide, by decide, _, _, _, rfl, rfl⟩, by decide, by decide, by decide +kernel, by decide +kernel⟩
theorem witness_SwapRequests :
    let s := pkg { user with sup := true, regs := [(1, 0x10003), (2, 0xC000), (3, 0x20000), (4, 8)] }
    s.me.sup = true ∧ ¬(256 ≤ (s.swaps.filter fun x => x.id ≠ 0).length) ∧ (s.reg 2).toNat % 2 ^ 16 / 2 ^ 14 ≠ 0 ∧
    ((s.reg 1).toNat % 2 ^ 16 / 2 ^ 14 = 0 ∧ (s.reg 1).toNat / 2 ^ 56 = 0 ∧ (s.reg 3).toNat / 2 ^ 42 = 0 ∧ (s.reg 0).toNat < 8) ∧
    ((s.reg 3).toNat % 2 ^ 16 = 0 ∧ (s.reg 3).toNat < s.memBytes) ∧ ((s.reg 2).toNat % 2 ^ 16 ≠ 0) ∧ 8 ≤ (s.reg 4).toNat ∧
    scr.me.sup = false ∧ (∃ v s2, swapStatusOp s 15 0 = (v, s2)) ∧
    let x : Swap := { id := 1, out := false, tid := 0, lid := 0, asid := 3, vpn := 1, drive := 0, lba := 0, dest := 0, ring := none,
                      opt := 0, phase := 0, ok := true, ptePa := 0 }
    256 ≤ (({ s with swaps := List.replicate 256 x }).swaps.filter fun (x : Swap) => x.id ≠ 0).length := by
  refine ⟨by decide, by decide, by decide, by decide, by decide, by decide, by decide, by decide, ⟨_, _, rfl⟩, by decide +kernel⟩
theorem witness_ReplayAndWait :
    (let s := { scr with slots := [(0, { user with udef := { dfi := BitVec.ofNat 64 (instrBits (.ldd 3 1 0 0) * 2 ^ 32 + 0x2300), dfv := 0xFFE0000000000000 } })] }
     s.me.udef.dfi.getLsbD 13 = true ∧ redoWord (s.me.udef.dfi.toNat / 2 ^ 32) ≠ none ∧
      ∃ v s1, s.redo s.cur (s.me.udef.dfi.toNat / 2 ^ 32) s.me.udef.dfv = .ok v s1) ∧
    (let s := { scr with slots := [(0, { user with udef := { dfi := BitVec.ofNat 64 (instrBits (.ldx 3 1 0) * 2 ^ 32 + 0x2300), dfv := 0xFFE0000000000000 } })] }
     s.me.udef.dfi.getLsbD 13 = true ∧ redoWord (s.me.udef.dfi.toNat / 2 ^ 32) = some (.full true) ∧ mayRelease s 2 ∧
      ∃ v s1, (beforeRelease s 2).redo s.cur (s.me.udef.dfi.toNat / 2 ^ 32) s.me.udef.dfv = .ok v s1) ∧
    scr.me.udef.dfi.getLsbD 13 = false ∧ (scr.me.inHandler = false ∧ scr.me.latch = false) ∧
    ((pkg { user with latch := true }).me.inHandler = false ∧ (pkg { user with latch := true }).me.latch = true) := by
  refine ⟨⟨by decide, by decide, _, _, rfl⟩, ⟨by decide, by decide, ⟨rfl, Or.inr rfl⟩, _, _, rfl⟩, by decide, by decide, by decide⟩

/-- A package at work with arguments of an event. -/
def asked (a : EventArgs) : State := { pkg user with ev := a }
theorem witness_HostAccesses :
    (asked { a := 0x7F8, b := 8, v := 1 }).dstate = 2 ∧
    ((asked { a := 0x1FFFFF, bytes := [1] }).ev.a % 2 ^ 21 + 1 ≤ 2 ^ 21) ∧
    ((asked { a := 0x7F8, b := 8, v := 1 }).ev.b ≠ 4 ∧ 0x7F8 % 8 = 0 ∧ 0x400 ≤ 0x7F8 ∧ 0x7F8 < 0x800) ∧
    State.reset.dstate ≠ 2 ∧
    (∃ s1, (asked {}).writeSpr 0 true 0x10E 0xAAAAAAAAAAAAAAAA = some s1) ∧
    (∃ s1, (asked {}).writeSpr 0 true 0x109 0x1FFFF = some s1) ∧ (∃ s1, (asked {}).writeSpr 0 true 0x105 0 = some s1) ∧
    (9 ≤ (asked { v := 0x400014 }).ev.v.toNat % 2 ^ 5 ∧ (asked { v := 0x400014 }).ev.v.toNat % 2 ^ 5 ≤ 20) ∧
    20 < (asked { v := 0x400015 }).ev.v.toNat % 2 ^ 5 := by
  refine ⟨by decide, by decide, by decide, by decide, ⟨_, rfl⟩, ⟨_, rfl⟩, ⟨_, rfl⟩, by decide, by decide⟩

/-- A command of 256 bytes from its fields. -/
def command (kind lid dom entry : Nat) : List Byte :=
  leBytes 1 kind ++ leBytes 1 1 ++ leBytes 6 0 ++ leBytes 8 (lid + dom) ++ leBytes 8 entry ++ leBytes 12 0 ++
    leBytes 4 (if kind = 1 then 4096 else 0) ++ leBytes 2 (if kind = 1 then 504 else 0) ++ leBytes 2 0 ++
    leBytes 2 (if kind = 1 then 8184 else 0) ++ leBytes 2 0 ++ leBytes 4 (if kind = 1 then 256 else 0) ++
    leBytes 4 (if kind = 1 then 1 else 0) ++ leBytes 200 0
/-- Queue 3 of a package with a command at its head. -/
def queued (c : List Byte) (ls : List Launch) : State :=
  { asked { a := 3 } with
    queues := [(3, { base := 0x10000, en := true, log2 := 4, asid := 5, pi := 1 })], asids := [(5, { live := true })]
    cluMask := 2 ^ 64 - 1, launches := ls
    mem := Memory.writeN [] 0x10000 c }
/-- Launch 7 of ASID 5. -/
def launch7 : Launch := { lid := 7, asid := 5, record := command 1 0 1 0x1000, domain := 1, seq := 1, state := 3, source := 3 }
theorem witness_QueueCommands_checks :
    (headCommand (queued (command 9 0 0 0) []) 3 (command 9 0 0 0) ∧ takesKind .unknownKindCommand 9 ∧
      (queued (command 9 0 0 0) []).failedCheck (command 9 0 0 0) 5 false false = some 1) ∧
    (headCommand (queued (command 4 7 0 0) [launch7]) 3 (command 4 7 0 0) ∧ takesKind .abortCommand 4 ∧
      (queued (command 4 7 0 0) [launch7]).failedCheck (command 4 7 0 0) 5 false false = none) ∧
    headCommand (queued (command 1 0 1 0x1000) []) 3 (command 1 0 1 0x1000) ∧
    (queued (command 1 0 1 0x1000) []).failedCheck (command 1 0 1 0x1000) 5 false false = none := by
  unfold headCommand takesKind
  decide +kernel
theorem frameRoom_some (s : State) (k n : Nat)
    (h : ((((s.cluAt k).frameSpans k).map Prod.fst).find? fun off => (s.cluAt k).frameFits k n off).isSome = true) :
    ∃ off, s.frameRoom k n = some off := by
  unfold State.frameRoom
  rw [← Option.isSome_iff_exists, List.find?_cons]
  split
  · rfl
  · rw [List.find?_append, Option.isSome_or]
    exact Bool.or_eq_true_iff.2 (Or.inl h)

/-- Launch 7 before its grant, and held by queue 3. -/
def held : State :=
  { queued (command 1 0 1 0x1000) [{ launch7 with state := 1 }] with
    queues := [(3, { base := 0x10000, en := true, log2 := 4, asid := 5, pi := 1, hold := some 7 })] }
theorem grant_some (s : State) (l : Launch) (h1 : s.liveCount < 4096) (h2 : (s.placeScratch l).isSome = true)
    (h3 : ∃ off, s.frameRoom l.lowClu l.rootSize = some off) : ∃ s5, s.grant l = some s5 := by
  obtain ⟨off, h3⟩ := h3
  obtain ⟨s1, h2⟩ := Option.isSome_iff_exists.1 h2
  unfold State.grant
  rw [if_neg (by omega), h2, h3]
  exact ⟨_, rfl⟩
theorem grant_none (s : State) (l : Launch) (h : (s.placeScratch l).isNone = true) : s.grant l = none := by
  unfold State.grant
  rw [Option.isNone_iff_eq_none.1 h]
  split <;> rfl
theorem witness_QueueCommands_launch :
    let c := command 1 0 1 0x1000
    let s := queued c []
    let l := (({ s with lastQueue := 3 }.acceptNonce c 5 false none).takeLid)
    let j := l.1.jNew l.2 1 3 5 (argAt c 72 8)
    let y := j.1.makeLaunch c l.2 5 j.2 3
    let s4 := consumed { j.1 with launches := j.1.launches ++ [y] } 3
    ∃ s5, s4.grant y = some s5 :=
  grant_some _ _ (by decide +kernel) (by decide +kernel) (frameRoom_some _ _ _ (by decide +kernel))
/-- No bank of cluster 0 is scratch. -/
theorem witness_QueueCommands_held :
    let c := command 1 0 1 0x1000
    let s := { queued c [] with clusters := [(0, { bankcfg := 0x000000000000000A })] }
    let l := (({ s with lastQueue := 3 }.acceptNonce c 5 false none).takeLid)
    let j := l.1.jNew l.2 1 3 5 (argAt c 72 8)
    let y := j.1.makeLaunch c l.2 5 j.2 3
    let s4 := consumed { j.1 with launches := j.1.launches ++ [y] } 3
    headCommand s 3 c ∧ s.failedCheck c 5 false false = none ∧ s4.grant y = none := by
  unfold headCommand
  exact ⟨by decide +kernel, by decide +kernel, grant_none _ _ (by decide +kernel)⟩
theorem witness_QueueCommands_others :
    (let s := { queued [] [] with queues := [(3, { base := 0x100000000000, en := true, log2 := 4, asid := 5, pi := 1 })] }
     s.queueReady 3 = true ∧ s.ringOk (s.queueAt 3) = false) ∧
    ((held.queueAt 3).hold = some 7 ∧ held.launch? 7 = some { launch7 with state := 1 } ∧
      ∃ s1, held.grant { launch7 with state := 1 } = some s1) ∧
    (let c : Command := { image := 0, seq := 0, notify := false, source := 0 }
     let l := { launch7 with lid := 3, state := 5, resume := some c }
     let s := queued [] [l]
     s.launch? s.ev.a = some l ∧ l.resume = some c ∧ ∃ s1, s.placeScratch l = some s1) :=
  ⟨by decide +kernel,
    ⟨by decide +kernel, by decide +kernel,
      grant_some _ _ (by decide +kernel) (by decide +kernel) (frameRoom_some _ _ _ (by decide +kernel))⟩,
    by decide +kernel, by decide +kernel, Option.isSome_iff_exists.1 (by decide +kernel)⟩

/-- A mailbox command with its arguments. -/
def mailbox (code : Nat) (args : List Byte) : State :=
  { asked {} with mbRun := code, mbLen := args.length, mbData := Memory.writeN [] 0 args }
theorem witness_MailboxCommands :
    (∃ r, mailResult .thrSet (mailbox 0x61 [3, 16]) [3, 16] = some (0x61, 2, r)) ∧
    (mailbox 0x61 [3, 16]).mbArgs 0x61 = some [3, 16] ∧ (mailbox 0x61 [3, 16]).mbArgs 0x60 = none ∧
    (asked { c := 1 }).sideOn = true ∧ (mailbox 0x60 []).mbArgs 0x60 = some [] ∧ (mailbox 0x70 []).mbArgs 0x70 = some [] ∧
    (mailbox 0x71 []).mbArgs 0x71 = some [] := ⟨⟨_, rfl⟩, by decide, by decide, by decide, by decide, by decide, by decide⟩
theorem witness_ResetsAndPower :
    (asked {}).dstate = 2 ∧ { asked {} with dstate := 3 }.dstate = 3 ∧ { asked {} with dstate := 4 }.dstate = 4 ∧
    (asked {}).sideOn = true ∧ (∃ f, (asked { a := 34 }).telemFields[34]? = some f) ∧
    (950 ≤ (asked { b := 950 }).ev.b ∧ (asked { b := 950 }).ev.b < 1100 ∧ (asked { b := 950 }).ev.c ≤ 5000 ∧
      4 ≤ ((asked { b := 950 }).dieAt 0).duty) ∧
    (1100 ≤ (asked { b := 1100 }).ev.b ∧ 5000 < (asked { c := 5001 }).ev.c) ∧
    (let e := (asked { b := 949, c := 4750, v := 2400000, bytes := [10] }).ev
     let f := (asked { c := 5000, bytes := [9] }).ev
     (e.b < 950 ∧ e.c ≤ 4750 ∧ e.v.toNat ≤ 2400000) ∧ 4750 < f.c ∧ f.c ≤ 5000 ∧ natOfBytes f.bytes < 10) ∧
    (let s := { asked {} with dies := [(0, { duty := 12 })], clk := 7000000 }
     (s.dieAt 0).duty < min 16 (s.dieAt 0).cap ∧ (s.dieAt 0).trig + 7000000 ≤ s.clk) ∧
    ((asked { a := 0x40, b := 9 }).ev.a < (asked { a := 0x40, b := 9 }).memBytes ∧ (asked { a := 0x40, b := 9 }).ev.c ≠ 1) :=
  ⟨by decide, by decide, by decide, by decide, ⟨_, rfl⟩, by decide, by decide, by decide, by decide, by decide⟩
/-- The cases in which a reset, an image, a sensor, the throttle or a soft error does otherwise. -/
theorem witness_ResetsAndPower_others :
    (State.reset.dstate ≠ 2 ∧ State.reset.dstate ≠ 3 ∧ State.reset.dstate ≠ 4) ∧
    (asked { a := 35 }).telemFields.length ≤ (asked { a := 35 }).ev.a ∧
    { asked {} with sideOn := false }.sideOn = false ∧
    (let s := { asked { c := 4751, bytes := [10] } with dies := [(0, { duty := 3 })] }
     4750 < s.ev.c ∧ 10 ≤ natOfBytes s.ev.bytes ∧ (s.dieAt 0).duty ≤ 4) ∧ 2400000 < (asked { v := 2400001 }).ev.v.toNat ∧
    (min 16 ((asked {}).dieAt 0).cap ≤ ((asked {}).dieAt 0).duty ∧
      (let s := { asked {} with dies := [(0, { duty := 12 })] }
       s.clk < (s.dieAt 0).trig + 7000000)) ∧
    (∀ n ∈ [0, 1, 2, 3, 4], (asked { a := n, b := 63 }).ev.a = n) ∧
    ((asked { a := 0x40, c := 1 }).ev.a < (asked { a := 0x40, c := 1 }).memBytes ∧ (asked { a := 0x40, c := 1 }).ev.c = 1) ∧
    (asked { a := 2 ^ 60 }).memBytes ≤ (asked { a := 2 ^ 60 }).ev.a := by decide

/-- Slot 0 as it is, in a package with one launch. -/
def slotted (x : Slot) (ls : List Launch) : State := { pkg x with cluMask := 1, launches := ls, clk := 2000000 }
/-- Launch 0 in a state. -/
def launch0 : Launch := { lid := 0, asid := 0, record := [], domain := 1, seq := 1, state := 3, source := 0 }
def entry0 : QEntry := { pc := 0x1000, prio := 0, kind := 0, counted := false, frame := frameAddr 0 0 }
theorem witness_SchedulingSteps_slots :
    (let s := { slotted {} [launch0] with clusters := [(0, { cq := [entry0], pressed := true, pressDom := 1 })] }
     (s.slotAt 0).mode = .idle ∧ s.usable.testBit 0 = true ∧
      s.chooseAt 0 8 (s.pressedVictims 0) = some (.cq 0, entry0)) ∧
    (slotted { mode := .starting entry0 true } []).me.mode = .starting entry0 true ∧
    (let s := slotted { mode := .resting, notice := true } []
     s.me.mode = .resting ∧ s.me.notice = true ∧ s.me.restAt + 1024 ≤ s.clk) ∧
    (let p := { due with out := .fault 0x03 0 8 }
     let s := slotted { user with pend := [p] } []
     s.me.ended = some (0, p) ∧ s.me.mode = .running ∧ p.arrived = true ∧ p.out = .fault 0x03 0 8) ∧
    (let p := { due with out := .fault 0x02 1 9 }
     let s := slotted { user with pend := [p], tvec := 0x4000 } []
     s.me.pend = [p] ∧ p.left = 0 ∧ s.me.mode = .running ∧ p.arrived = true ∧ p.out = .fault 0x02 1 9 ∧
      (s.coreAt 0).wideq = [] ∧ supCause 0x02 = false ∧ s.me.sup = false ∧ s.me.uh = false ∧ s.me.sh = false ∧
      s.me.tvec ≠ 0) ∧
    (let p := { due with arrived := false, left := 1 }
     let s := slotted { user with pend := [p] } []
     s.me.pend = [p] ∧ s.me.mode = .running ∧ p.arrived = false ∧ 0 < p.left) ∧
    (let p := { due with arrived := false }
     let s := slotted { user with pend := [p] } []
     s.me.pend = [p] ∧ s.me.mode = .running ∧ p.arrived = false ∧ p.left = 0 ∧ p.out = .value 9) ∧
    (let s := (paged 0x2000001B).modMe fun x => { x with pc := 0x1234567880, fetchMiss := true }
     s.me.mode = .running ∧ s.me.fetchMiss = true ∧ 
      s.missAddr 0 = some 0x1234567880 ∧
      (∃ s1 pa pte size, s.xlate 0 s.me.asid accFetch 0x1234567880 = (s1, .ok pa pte size)) ∧
      ∃ s1, s.fillLine 0 0x1234567880 = .ok () s1) ∧
    (let s := (fetching 0xFFFE0083).modSlot 0 fun x => { x with fetchMiss := true }
     s.me.mode = .running ∧ s.me.fetchMiss = true ∧ s.missAddr 0 = none) :=
  ⟨by decide +kernel, by decide, by decide, by decide, by decide, by decide, by decide,
    ⟨by decide, by decide, by decide +kernel, xlate_ok (by decide +kernel), unit_ok (by decide +kernel)⟩,
    by decide, by decide, by decide +kernel⟩
theorem witness_SchedulingSteps_launches :
    let c : Command := { image := 0, seq := 0, notify := false, source := 0, expired := true }
    (let l := { launch0 with drain := some c }
     let s := slotted user [l]
     (s.launches.find? fun l => (s.remaining l.lid).contains 0) = some l ∧ s.mayForce l = true) ∧
    (let l := { launch0 with drain := some c }
     let s := slotted {} [l]
     s.launch? 0 = some l ∧ l.drain = some c ∧ s.drainDone l = true) ∧
    (let l := { launch0 with ending := some (7, 1, 0) }
     (slotted {} [l]).launch? 0 = some l ∧ l.ending = some (7, 1, 0)) ∧
    (let l := { launch0 with rootEnded := true }
     let s := slotted {} [l]
     s.launch? 0 = some l ∧ l.ending = none ∧ l.rootEnded = true ∧ l.donated = 0 ∧ l.drain = none ∧ l.state = 3 ∧
      s.cores = [] ∧ s.swaps = []) ∧
    (let w : Wait := { tid := 0, place := .event, op := .complete }
     let s := { slotted { user with mode := .parked } [launch0] with waits := [w] }
     s.launch? 0 = some launch0 ∧ s.quietHead 0 = some w ∧ s.quiescent launch0 = true) := by decide +kernel
theorem witness_SchedulingSteps_deadlock :
    let w : Wait := { tid := 0, place := .pool 0, op := .vwin none 64 15 }
    let s (shown : Bool) : State :=
      { slotted { user with mode := .parked, vcount := 1 } [] with
        waits := [w], stvec := 0x8000, cores := [(0, { deadlockShown := shown })] }
    let v : Wait := { tid := 0, place := .pool 0, op := .start entry0 true }
    let u : State := { slotted { mode := .parked } [] with waits := [v], stvec := 0x8000 }
    ((s false).poolWaits 0 = w :: [] ∧ (s false).deadlocked 0 = true ∧ ((s false).coreAt 0).deadlockShown = false ∧
      (s false).me.pend = [] ∧ ((s false).coreAt 0).wideq = [] ∧ (s false).stvec ≠ 0 ∧ (s false).me.sh = false) ∧
    ((s true).poolWaits 0 = w :: [] ∧ (s true).deadlocked 0 = true ∧ ((s true).coreAt 0).deadlockShown = true ∧
      ((s true).coreAt 0).poolAt + 1024 ≤ (s true).clk) ∧
    (u.poolWaits 0 = v :: [] ∧ u.deadlocked 0 = true ∧ (u.coreAt 0).deadlockShown = false ∧ u.me.pend = [] ∧ u.stvec ≠ 0 ∧
      u.me.sh = false) := by decide +kernel
/-- A core of a package at work, for the steps of agents. -/
def agent (c : Core) : State := { asked {} with cores := [(0, c)], cluMask := 1, clk := 2000000 }
def request0 : AccReq :=
  { core := 0, lid := 0, slots := [0], pa := 64, va := 64, ck := 0, grain := 6, dom := 0
    data := .plain 4 false [(0, 1)], must := true, born := none }
def amo0 : AmoReq := { tid := 0, lid := 0, fn := 0, size := 8, loc := .sram 0 0, y := 1 }
def copy0 : Copy :=
  { tid := 0, lid := 0, asid := 0, sup := false, id := 1, kind := 0, dst := 0, src := 0, ctl := 1, done := 0
    bytes := 0, status := 0, ranges := [], recv := [], finished := false }
def swap0 : Swap :=
  { id := 1, out := true, tid := 0, lid := 0, asid := 3, vpn := 1, drive := 0, lba := 0, dest := 0, ring := none
    opt := 0, phase := 0, ok := true, ptePa := 0 }
theorem witness_MemorySteps_queues :
    let e : WideEntry := { tid := 0, vd := 1, cls := 4, lanes := [], act := 0xFFFFFFFF, flags := 0 }
    let b : SBEntry := { tid := 0, lid := 0, loc := .sram 0 0, bytes := [1] }
    let q : AccAns := { req := request0, outcome := 0, cause := 0, flags := 0 }
    ((agent { wideq := [e] }).coreAt 0).wideq = e :: [] ∧
    (((agent { storeBuf := [b] }).coreAt 0).storeBuf[0]? = some b ∧ (agent { storeBuf := [b] }).mayLeave 0 0 = true) ∧
    (let c : SBEntry := { b with loc := .sram 0 8 }
     ((agent { storeBuf := [b, c] }).coreAt 0).storeBuf[1]? = some c ∧ (agent { storeBuf := [b, c] }).mayLeave 0 1 = true) ∧
    ({ asked {} with notices := [(3, 5, 9)] }).notices.contains (3, 5, 9) = true ∧
    ((agent { out := [.amo amo0, .acc request0] }).coreAt 0).oldestTo 0 = some (1, .acc request0) ∧
    (((agent { out := [.acc request0, .amo amo0] }).coreAt 0).oldestTo 100 = some (1, .amo amo0) ∧
      (agent { out := [.acc request0, .amo amo0] }).relReady 0 amo0 = true) ∧
    ((((agent { accAns := [q] }).coreAt 0).accAns.findIdx? fun r => r.req.home = 0) = some 0 ∧
      ((agent { accAns := [q] }).coreAt 0).accAns[0]? = some q) ∧
    (let s := agent { remapped := [.acc request0] }
     ((s.coreAt 0).remapped.findIdx? fun r => !(s.coreAt 0).out.any fun q => s.staleReq q && q.granule = r.granule) = some 0 ∧
      (s.coreAt 0).remapped[0]? = some (.acc request0)) ∧
    (({ asked {} with homes := [(0, { wq := [{ reqs := [request0] }] })] }.homeAt 0).wq[0]? = some { reqs := [request0] } ∧
      ({ asked {} with homes := [(0, { wq := [{ reqs := [request0] }] })] }.homeAt 0).mayApply 0 = true) := by decide
theorem witness_MemorySteps_swaps :
    (∀ x ∈ [swap0, { swap0 with phase := 2 }, { swap0 with out := false }, { swap0 with out := false, phase := 2 },
      { swap0 with phase := 1 }, { swap0 with phase := 4, opt := 1 }], { asked {} with swaps := [x] }.swaps[0]? = some x) ∧
    ((agent { copies := [copy0] }).coreAt 0).copies[0]? = some copy0 ∧ copy0.finished = false ∧ copy0.over = false ∧
    (let c := { copy0 with done := 1 }
     ((agent { copies := [c] }).coreAt 0).copies[0]? = some c ∧ c.over = true ∧ c.notify = false ∧ c.status = 0) := by decide
/-- A stream of 32 elements of F32 in scratch, read or written. -/
def bound (dir : Nat) (buf : List SVec) : Stream :=
  { newStream 0 0 { base := 0xFFE0000000000000, fmt := 1, dims := 1, dir := dir, desc := false, count := [32, 1, 1, 1], stride := [4, 0, 0, 0] } with
    buf := buf }
theorem witness_MemorySteps_streams :
    let v : SVec := { lanes := [], cls := 4 }
    (let s := agent { streams := [(0, bound 0 [])] }
     FMap.find (s.coreAt 0).streams 0 = some (bound 0 []) ∧ (bound 0 []).buf.length < 8 ∧
      ∃ els s1, Run.mapList (fun j s => s.fetchElem 0 (bound 0 []).rcd (0 + j)) (List.range 32) s = .ok els s1) ∧
    (let s := agent { streams := [(0, bound 1 [v])] }
     FMap.find (s.coreAt 0).streams 0 = some (bound 1 [v]) ∧ (bound 1 [v]).buf = v :: [] ∧
      ∃ fl s1, s.writePlain (bound 1 [v]) v (min 32 ((bound 1 [v]).rcd.total - 0)) = .ok fl s1) :=
  ⟨⟨by decide, by decide, _, _, rfl⟩, by decide, by decide, _, _, rfl⟩
/-- A grain of 128 bytes, dirty in its first byte. -/
def grain0 : Grain := { size := 7, ck := 2, dom := 0, bytes := List.replicate 128 7, dirty := true :: List.replicate 127 false }
def dir0 : Dir := { size := 7, ck := 2, dom := 0, sharers := [1], coarse := false, owner := none, request := none }
/-- Core 1 of cluster 0 and the cluster's directory and cache. -/
def sharing (c : Core) (k : Cluster) : State := { agent {} with cores := [(0, { l1 := [(128, grain0)] }), (1, c)], clusters := [(0, k)] }
theorem witness_MemorySteps_grains :
    let e : SBEntry := { tid := 16, lid := 0, loc := .phys 130 2 7 false 0, bytes := [1] }
    let x : Spot := { key := 128, ck := 2, g := 7, dom := 0 }
    (FMap.find ((sharing {} {}).cluAt 0).grains 128 = none ∧ FMap.find ((sharing {} {}).coreAt 1).l1 128 = none) ∧
    (FMap.find ((sharing {} {}).coreAt 0).l1 128 = some grain0 ∧ grain0.isDirty = true) ∧
    ((((sharing { storeBuf := [e] } {}).coreAt 1).wanted.find? fun x => x.key = 128) = some x ∧
      (sharing { storeBuf := [e] } {}).mayAsk 1 x = true) ∧
    (let d := { dir0 with request := some (0, [1, 2]) }
     FMap.find ((sharing {} { dir := [(128, d)] }).cluAt 0).dir 128 = some d ∧ d.awaits 1 = true) ∧
    (let d := { dir0 with request := some (0, [1]) }
     FMap.find ((sharing {} { dir := [(128, d)] }).cluAt 0).dir 128 = some d ∧ d.request = some (0, [1])) ∧
    (let d := { dir0 with owner := some 1 }
     FMap.find ((sharing {} { dir := [(128, d)] }).cluAt 0).dir 128 = some d ∧ d.owner = some 1 ∧ d.request = none) ∧
    (isPeerKey (peerKey 1 64) = true ∧ peerKey 1 64 / 64 * 64 = peerKey 1 64) := by decide +kernel
theorem witness_MemorySteps_homes :
    let w : Lease := { read := false, desc := false, cl := 1, pa := 128, size := 7, beat := 0 }
    let p : RemoteWrite := { core := 0, lid := 0, dev := 1, pa := 64, bytes := [1] }
    let r : Residual := { req := request0, born := 0 }
    ({ agent {} with homes := [(0, { remoteOut := [p] })] }.homeAt 0).remoteOut = p :: [] ∧
    ((agent {}).donOut = [] ∧ { agent {} with donOut := [(0, 0, 0, [])] }.donOut[0]? = some (0, 0, 0, []) ∧
      { agent {} with donIn := [(1, 0, 0, 0, [])] }.donIn[0]? = some (1, 0, 0, 0, []) ∧
      ((agent {}).coreAt 0).inbox.length < 256 ∧ (agent {}).launch? 0 = none ∧
      ({ agent {} with launches := [launch0] }.launch? 0).isSome = true) ∧
    (((agent {}).cluAt 0).beatAt + 700 * (agent {}).lease ≤ (agent {}).clk ∧ (agent {}).usable.testBit 0 = true) ∧
    (let s := { agent {} with homes := [(0, { leases := [w] })] }
     ((s.homeAt 0).leases.find? fun l => !l.read && l.pa = 128 && s.lapsed l && !s.usable.testBit l.cl) = some w ∧ w.desc = false) ∧
    (let s := { agent {} with homes := [(0, { leases := [{ w with read := true }] })] }
     ((s.homeAt 0).leases.find? fun l => l.read && l.pa = 128 && s.lapsed l && !s.usable.testBit l.cl) = some { w with read := true }) ∧
    (let s := agent { residuals := [r] }
     ((s.coreAt 0).residuals.find? fun r => r.req.pa = 64 && s.residualDue r) = some r) ∧
    (agent {}).clk / 256 ≠ (agent {}).window := by decide +kernel
theorem witness_StepRunsDecoded_stalls :
    let w : Wait := { tid := 0, place := .stream 0 1, op := .reissue }
    let s := { streaming with waits := [w] }
    w ∈ s.waits ∧ w.tid = 0 ∧ w.place = .stream 0 1 := by decide
/-- A fault set aside by a handler, and a record with PEND for a word that is full or empty. -/
def pended : Slot :=
  { user with udef := { dfi := BitVec.ofNat 64 (instrBits (.lde 3 1 0) * 2 ^ 32 + 0x4300), dfv := 0xFFE0000000000000 } }
theorem witness_TrapReturns_pending :
    (let s := pkg { user with sh := true, later := [{ due with out := .fault 0x03 0 8 }] }
     s.me.sh = true ∧ s.me.scau.getLsbD 15 = false) ∧
    (let x : Slot := { user with later := [{ due with out := .fault 0x03 0 8 }] }
     (levelRecord x).dfi.getLsbD 14 = false ∧ x.taken = none ∧ x.pend = [] ∧ x.later.length = 1 ∧
      ∀ p ∈ x.later, p.left = 0 ∧ p.arrived = true ∧ ∃ c a v, p.out = .fault c a v) ∧
    ((levelRecord pended).dfi.getLsbD 14 = true ∧ pended.taken = none ∧ pended.pend = [] ∧ pended.later = [] ∧
      redoWord ((levelRecord pended).dfi.toNat / 2 ^ 32) = some (.full false) ∧ (levelRecord pended).dfv.toNat % 8 = 0 ∧
      regionOf (levelRecord pended).dfv.toNat = .scratch) ∧
    (let s' (s : State) := s.setSlot s.cur (returned pended)
     let s0 (s : State) := (s' s).syncAmo s.cur ((s' s).scratchChunks s.cur (levelRecord pended).dfv.toNat 8)
     (∃ v s1, (s0 scr).feLoad 0 ((s0 scr).scratchOff 0 (levelRecord pended).dfv.toNat) false = some (v, s1)) ∧
      (s0 emptied).feLoad 0 ((s0 emptied).scratchOff 0 (levelRecord pended).dfv.toNat) false = none) := by
  refine ⟨by decide, ⟨by decide, by decide, by decide, by decide, ?_⟩, by decide, ⟨_, _, rfl⟩, by decide⟩
  intro p h
  rw [List.mem_singleton.1 h]
  exact ⟨rfl, rfl, _, _, _, rfl⟩
/-- A load behind one of the same bytes that has still to read. -/
theorem witness_loads_behind :
    delayedLoad readable (accessAddr readable 1 0 8).toNat 8 ∧ regionOf (accessAddr readable 1 0 8).toNat = .scratch ∧
    noneOut readable ∧ (∀ e ∈ (readable.coreAt readable.myCore).storeBuf, e.sees readable.cur = true) ∧
    ((readable.reg 1).toNat % 8 = 0 ∧ readable.olderReads [((readable.reg 1).toNat, 8)] = true) ∧
    scr.olderReads [((scr.reg 1).toNat, 8)] = false :=
  ⟨⟨by decide, Or.inl (by decide)⟩, by decide, ⟨rfl, rfl⟩, by decide, by decide, by decide⟩
theorem witness_FullEmpty_acts :
    (actsFrom (.lde 3 1 0) scr scr ∧ feAddress (scr.reg 1) ∧ findsFull (inOrder scr (scr.reg 1) 8) (feWord scr (scr.reg 1)) false 0
      (inOrder scr (scr.reg 1) 8)) ∧
    (actsFrom (.lde 3 1 0) emptied emptied ∧ ¬isFull (inOrder emptied (emptied.reg 1) 8) (feWord emptied (emptied.reg 1))) := by
  refine ⟨⟨actsFrom_of_none rfl rfl, ⟨by decide, by decide⟩, rfl, rfl⟩, actsFrom_of_none rfl rfl, ?_⟩
  unfold isFull
  decide
theorem witness_PostedAtomics_empty : (scr.coreAt (coreOf scr.cur)).storeBuf = [] := by decide
theorem witness_Barriers_waits :
    let s := scr.putWord 0 0 (objectWord 7 1 1)
    actsFrom (.barWait 1 2) s s ∧ actsFrom (.barWaitTry 3 1 2) s s := ⟨actsFrom_of_none rfl rfl, actsFrom_of_none rfl rfl⟩
theorem witness_AccumulateAdds_units :
    (∃ b1 f1 b2 f2, applyAcc (List.replicate 32 0) (.plain 4 true [(7, 1)]) = .done b1 f1 ∧
      applyAcc b1 (.plain 4 true [(0, 0x3F800000)]) = .done b2 f2) ∧
    Block.fmt (fmtNANBLK :: List.replicate 63 0) = fmtNANBLK ∧ Block.fmt (fmtPOISON :: List.replicate 63 0) = fmtPOISON ∧
    (Block.fmt (0x20 :: List.replicate 63 0) = 0x20 ∧ fmtIsVlf 0x20 = false ∧
      (([(0, .fin false 1 0), (31, .zero true)] : List (Nat × Val)).map Prod.fst).Nodup) ∧
    (Block.fmt (fmtEMPTY :: List.replicate 63 0) = fmtEMPTY ∧ fmtIsVlf 0x1F = true) := by
  refine ⟨⟨_, _, _, _, rfl, rfl⟩, by decide, by decide, by decide, by decide⟩
/-- A home that serves unit 64, whose block is INT8 with zeros, at the start of a window. -/
def unitHome : State := { agent {} with mem := [(64, 0x20)] }
def refused0 : AccReq := { request0 with must := false }
theorem witness_AccumulateAdds_home :
    (let s := agent {}
     s.homePoisoned 64 64 0 = false ∧ (∃ bs f, applyAcc (unitAt s request0) request0.data = .done bs f ∧ bs.length = 64) ∧
      lineReady s (s.homeOf 0 64) 64 ∧ sameKindPending s request0 ∧ targetFits s request0 ∧ request0.must = true ∧
      (s.homeAt (s.homeOf 0 64)).wq.length < 256) ∧
    (let s := { agent {} with quotaNow := 0 }
     sameKindPending s refused0 ∧ targetFits s refused0 ∧ refused0.must = false ∧ s.quotaNow ≤ quotaUsed s refused0) ∧
    ({ agent {} with poison := [(64, 64)] }.homePoisoned 64 64 0 = true ∧
      sameKindPending { agent {} with poison := [(64, 64)] } refused0) ∧
    (let r := { refused0 with data := .desc 0x21 [(0, .zero false)] }
     sameKindPending unitHome r ∧ unitHome.homePoisoned 64 64 0 = false ∧ r.data.fmt ≠ some fmtPOISON ∧
      applyAcc (unitAt unitHome r) r.data = .fault 0x05) := by
  unfold sameKindPending targetFits lineReady
  refine ⟨⟨by decide +kernel, ⟨_, _, rfl, by decide +kernel⟩, ⟨?_, ?_⟩, by decide +kernel, ⟨?_, by decide +kernel⟩, by decide, by decide +kernel⟩,
    ⟨by decide +kernel, ⟨?_, by decide +kernel⟩, by decide, by decide +kernel⟩, by decide +kernel,
    by decide +kernel, by decide +kernel, by decide, rfl⟩
  · intro l h; cases h
  · intro _; decide +kernel
  · intro f h; cases h
  · intro f h; cases h
theorem witness_AccumulateAdds_answers :
    let live : State := { agent {} with launches := [launch0] }
    let x : Residual := { req := request0, born := 5 }
    let held := { live with cores := [(0, { residuals := [x] })] }
    (0 ∈ refused0.slots ∧ (live.slotAt 0).lid = 0 ∧ live.lives 0 = true) ∧ (agent {}).lives 0 = false ∧
    ((live.coreAt 0).residual? 64 0 = none ∧
      ((live.coreAt 0).residuals.filter fun y => residualSet y.req.pa = residualSet 64).length < 4) ∧
    ((held.coreAt 0).residual? 64 0 = some x ∧ held.lives 0 = true ∧ x.req.core = coreOf 0 ∧
      x.req.data.sameKind refused0.data = true) := by decide
/-- A launch with the watermarks 64 and 32, and a task of it whose deque is full. -/
def launchRec : Launch := { launch0 with record := List.replicate 40 0 ++ [64, 0, 32, 0] ++ List.replicate 212 0 }
def fullDeque : State :=
  { (task 2 0).modMe fun x => { x with deque := List.replicate 64 entry0 } with launches := [launchRec] }
theorem witness_TaskInstructions_full :
    (let s := fullDeque
     let s2 := flushed (s.endShadows s.cur)
     let v := s2.releaseEdge s2.myCore 0 3
     s.me.inHandler = false ∧ atBoundary s s2 ∧ (s2.reg 2).toNat = 64 ∧ (if s2.myDrain then 63 else 64) ≤ s2.me.deque.length ∧
      s2.slotLaunch s2.cur = some launchRec ∧ (∃ off, s2.frameRoom s2.myClu (s2.childSize 64) = some off) ∧
      (s2.cluAt s2.myClu).pressed = false ∧ (s2.cluAt s2.myClu).cq.length < launchRec.cqhigh ∧
      (v.cluAt s2.myClu).cq.length + 8 ≤ launchRec.cqhigh) ∧
    (let s := fullDeque.modClu 0 fun c => { c with pressed := true }
     let s2 := flushed (s.endShadows s.cur)
     s.me.inHandler = false ∧ atBoundary s s2 ∧ (s2.slotLaunch s2.cur).isSome = true ∧
      (∃ off, s2.frameRoom s2.myClu (s2.childSize 64) = some off) ∧ (s2.cluAt s2.myClu).pressed = true) :=
  ⟨⟨by decide +kernel, ⟨by decide +kernel, rfl, by decide +kernel⟩, by decide +kernel, by decide +kernel, by decide +kernel,
      frameRoom_some _ _ _ (by decide +kernel), by decide +kernel, by decide +kernel, by decide +kernel⟩,
    by decide +kernel, ⟨by decide +kernel, rfl, by decide +kernel⟩, by decide +kernel,
    frameRoom_some _ _ _ (by decide +kernel), by decide +kernel⟩
/-- A child's task: its parent's frame has a JOIN and a state, and a continuation may lie in the deque. -/
def family (join st : Nat) (dq : List QEntry) : State :=
  let fi : FrameInfo := { units := 2, holder := 0, round := 0, tiles := [], args := [] }
  let p := frameAddr 0 0
  let s := (task 2 0).modClu 0 fun c => { c with frames := [(0, fi), (128, fi)] }
  let s := (((s.frWr p 16 4 join).frWr p 0 8 0x7000).frWr p 20 4 st).frWr (frameAddr 0 128) 8 8 p
  { s.modMe fun x => { x with frp := frameAddr 0 128, deque := dq, vcount := 3 } with launches := [launchRec] }
theorem witness_TaskInstructions_ends :
    (let s := family 1 3 [entry0]
     s.me.binds = [] ∧ (taskReleased s (frameAddr 0 128)).me.deque.getLast? = some entry0) ∧
    (let u := taskReleased (task 2 0) (frameAddr 0 0)
     u.me.deque = [] ∧ (task 2 0).frParent (frameAddr 0 0) = 0 ∧ u.myDrain = false ∧ poolIdle u) ∧
    (let s := family 1 3 []
     let u := taskReleased s (frameAddr 0 128)
     let v := u.releaseEdge u.myCore u.me.lid (edgeScope u.myCore (u.frInfo (frameAddr 0 0)).holder)
     s.me.binds = [] ∧ u.me.deque = [] ∧ s.frParent (frameAddr 0 128) = frameAddr 0 0 ∧ frameAddr 0 0 ≠ 0 ∧
      v.frRd (frameAddr 0 0) 16 4 = 1 ∧ v.frState (frameAddr 0 0) = 3) ∧
    (let s := family 2 3 []
     let u := taskReleased s (frameAddr 0 128)
     let v := u.releaseEdge u.myCore u.me.lid (edgeScope u.myCore (u.frInfo (frameAddr 0 0)).holder)
     u.me.deque = [] ∧ s.frParent (frameAddr 0 128) = frameAddr 0 0 ∧ v.frRd (frameAddr 0 0) 16 4 ≠ 1 ∧ v.myDrain = false ∧
      poolIdle v) ∧
    (let s := family 1 0 []
     let e := { entry0 with pc := 0x5000, frame := frameAddr 0 0 }
     s.myDrain = false ∧ s.me.binds = [] ∧ s.me.got = none ∧ poolIdle s ∧ s.startFits s.cur e = true ∧
      (s.frInfo e.frame).round = 0 ∧ s.frFlags e.frame / 2 ^ 12 % 2 = 0 ∧ s.frSave e.frame = 0 ∧
      FMap.find (s.cluAt (frameClu e.frame)).frames (frameOff e.frame) ≠ none) := by
  unfold poolIdle
  exact ⟨by decide +kernel, by decide +kernel, by decide +kernel, by decide +kernel, by decide +kernel⟩
/-- A dtake that has its descriptor of queue 15 and waited for a page. -/
def given : State :=
  (donating (some 0) []).modMe fun x => { x with got := some (15, List.replicate 64 1) }
theorem witness_DonationInstructions_given :
    let s' := given.ungive given.cur
    given.me.got = some (15, List.replicate 64 1) ∧ given.me.inHandler = false ∧ (given.donqAt 15).lid = some given.me.lid ∧
    actsFrom (.dtake 3 1 2) s' s' ∧ (s'.reg 1).toNat % 64 = 0 ∧ (s'.reg 2).toNat % 16 = 15 ∧
    (s'.donqAt 15).lid = some s'.me.lid ∧ (s'.donqAt 15).descs = List.replicate 64 1 :: [] ∧
    ∃ s1, s'.plainStore s'.cur (s'.reg 1).toNat (List.replicate 64 1) = .ok () s1 ∧
      (let s2 := (s1.modDonq 15 fun y => { y with descs := [] }).acquire s1.cur 4
       s2.me.mode = .running ∧ s2.cur = given.cur) :=
  ⟨by decide +kernel, by decide +kernel, by decide +kernel, actsFrom_of_none rfl rfl, by decide +kernel, by decide +kernel, by decide +kernel,
    by decide +kernel, _, rfl, rfl, rfl⟩
theorem ok_and {α : Type} {r : Run α} {p : α → State → Bool} {q : α → State → Prop} (h : oks r p = true)
    (hq : ∀ a s, p a s = true → q a s) : ∃ a s1, r = .ok a s1 ∧ q a s1 :=
  let ⟨a, s1, h1, h2⟩ := exists_ok h
  ⟨a, s1, h1, hq a s1 h2⟩
/-- The elements of v0 stored, as vst of F32 stores them. -/
def storedAll (ls : List (Nat × List Chunk)) (s2 : State) : State :=
  ls.foldl (fun s p => (s.syncAmo s.cur p.2).postChunks s.cur p.2 (leBytes 4
    (storeElem 1 s2.me.vclass s2.me.rnd (laneOf (s2.vin 0) p.1)).1)) s2
/-- Vector loads and stores of bound registers, in scratch. -/
theorem witness_StreamOperands_scratch :
    (let s := streaming
     let s1 := s.drainCore s.myCore
     let a : LaneAccess := { v := 1, k := 0, ty := 1, idx := [], addr := unitPlace s1 1 4 }
     actsFrom (.vldUnit 1 1 0 1) s s ∧ (s.boundStream s.cur 1).isSome = true ∧ vldForm (.vldUnit 1 1 0 1) s1 = some a ∧
      windowTakes s.me false [1] ∧ streamsReady s1 [] [1] ∧ s1.me.exact = false ∧
      ∃ es s2, s1.loadLanes 4 a.addr (lanesOf (s1.me.mask 0)) = .ok es s2 ∧ streamsReady s2 [] [1] ∧
        s2.boundStream s2.cur 1 ≠ none) ∧
    (let s := withStreams (wide 4) 0
     let s1 := s.stepWides s.myCore fun e => e.tid = s.cur && [0].contains e.vd
     let a : LaneAccess := { v := 2, k := 0, ty := 1, idx := [0], addr := indexPlace s1 1 0 4 }
     actsFrom (.vldGather 2 1 0 0 1) s s ∧ (s.boundStream s.cur 2).isSome = false ∧ vldForm (.vldGather 2 1 0 0 1) s1 = some a ∧
      windowTakes s.me true [2, 0] ∧ streamsReady s1 [0] [2] ∧ s1.me.exact = false ∧
      ∃ es s2, s1.loadLanes 4 a.addr (lanesOf (s1.me.mask 0)) = .ok es s2 ∧ streamsReady s2 [0] [2] ∧
        s2.boundStream s2.cur 2 = none ∧ queueRoom s2) ∧
    (let s := streaming
     let s1 := s.drainCore s.myCore
     let a : LaneAccess := { v := 0, k := 0, ty := 1, idx := [], addr := unitPlace s1 1 4 }
     actsFrom (.vstUnit 0 1 0 1) s s ∧ vstForm (.vstUnit 0 1 0 1) s1 = some a ∧ windowTakes s.me false [0] ∧
      streamsReady s1 [0] [] ∧ s1.me.exact = false ∧
      ∃ ls s2, s1.storeLanes 4 a.addr (lanesOf (s1.me.mask 0)) = .ok ls s2 ∧
        streamsReady (storedAll ls s2) [0] []) := by
  unfold windowTakes queueRoom
  refine ⟨⟨actsFrom_of_none rfl rfl, by decide, rfl, by decide, streamsReady_of (by decide +kernel), by decide, ?_⟩,
    ⟨actsFrom_of_none rfl rfl, by decide, rfl, by decide, streamsReady_of (by decide +kernel), by decide, ?_⟩,
    actsFrom_of_none rfl rfl, rfl, by decide, streamsReady_of (by decide +kernel), by decide, ?_⟩
  · refine ok_and (p := fun _ s2 => ready s2 [] [1] && decide (s2.boundStream s2.cur 1 ≠ none)) (by decide +kernel) ?_
    intro es s2 hp
    simp only [Bool.and_eq_true, decide_eq_true_eq] at hp
    exact ⟨streamsReady_of hp.1, hp.2⟩
  · refine ok_and (p := fun _ s2 => ready s2 [0] [2] && decide (s2.boundStream s2.cur 2 = none ∧
        (s2.coreAt s2.myCore).wideq.length < 32 ∧ ((s2.coreAt s2.myCore).wideq.filter fun w => w.tid = s2.cur).length < 8))
      (by decide +kernel) ?_
    intro es s2 hp
    simp only [Bool.and_eq_true, decide_eq_true_eq] at hp
    exact ⟨streamsReady_of hp.1, hp.2⟩
  · exact ok_and (p := fun ls s2 => ready (storedAll ls s2) [0] []) (by decide +kernel) fun _ _ hp => streamsReady_of hp
/-- A state in a described page with v0 and v1 bound; what vstd, vstdp and vqnt of v0 post there, and acc and acc.d. -/
def boundBlocks (fmt : Nat) : State := withStreams (described fmt fmt) 0x3F800000
def stdPosted (locs : List (Nat × Loc)) (s2 : State) : State :=
  postAll s2 (locs.map fun p =>
    (p.2, (vstdBlock s2.me.rnd 15 ((List.range (fmtK 0x1F)).map (slotValue s2 0 (s2.me.mask 0) 0x1F 0 p.1))).1))
def stdpPosted (olds : List (Nat × Option Block)) (locs : List (Nat × Loc)) (s3 : State) : State :=
  postAll s3 (locs.map fun p => (p.2, (vstdBlock s3.me.rnd 15 ((List.range (fmtK 0x1F)).map fun e =>
    match (lanesOf (s3.me.mask 0)).find? fun j => (0 + j) / fmtK 0x1F = p.1 && (0 + j) % fmtK 0x1F = e with
    | some j => laneVal s3.me.vclass (s3.vin 0) j
    | none => ((FMap.getD olds p.1 none).getD emptyBlock).elem e)).1))
def qntPosted (loc : Loc) (s2 : State) : State :=
  postAll s2 [(loc, (vqntBlock true
    ([0, 1].flatMap fun r => (List.range 32).map fun j => laneVal s2.me.vclass (s2.vin r) j)).1)]
theorem witness_StreamOperands_blocks :
    (let s := boundBlocks 0x20
     actsFrom (.vldd 1 1 2 0) s s ∧ windowTakes s.me false [1] ∧ loadableFmt 0x20 ∧ wantedFmt (s.reg 2) = 0x20 ∧
      (s.boundStream s.cur 1).isSome = true ∧ streamsReady (s.drainCore s.myCore) [] [1] ∧ s.me.exact = false ∧
      ∃ bs s2, (s.drainCore s.myCore).readBlocks 0 0x20 (s.reg 1) true
          (blocksOf 0x20 0 (lanesOf ((s.drainCore s.myCore).me.mask 0))) = .ok bs s2 ∧
        streamsReady s2 [] [1] ∧ s2.boundStream s2.cur 1 ≠ none) ∧
    (let s := boundBlocks 0x1F
     let s1 := s.drainCore s.myCore
     actsFrom (.vstd 0 1 2 0) s s ∧ actsFrom (.vstdp 0 1 2 0) s s ∧ windowTakes s.me false [0] ∧ wantedFmt (s.reg 2) = 0x1F ∧
      fmtIsVlf 0x1F = true ∧ streamsReady s1 [0] [] ∧ s1.me.exact = false ∧
      (∃ locs s2, blockPlaces s1 1 (s.reg 1) (blocksOf 0x1F 0 (List.range 32)) = .ok locs s2 ∧
        streamsReady (stdPosted locs s2) [0] []) ∧
      ∃ olds s2, s1.readBlocks 3 0x1F (s.reg 1) false (blocksOf 0x1F 0 (lanesOf (s1.me.mask 0))) = .ok olds s2 ∧
        ∃ locs s3, blockPlaces s2 3 (s.reg 1) (blocksOf 0x1F 0 (lanesOf (s1.me.mask 0))) = .ok locs s3 ∧
          streamsReady (stdpPosted olds locs s3) [0] []) ∧
    (let s := (boundBlocks 0x1F).modMe fun x => { x with binds := [(0, 0)] }
     let s1 := s.drainCore s.myCore
     actsFrom (.vqntPeb7 0 1) s s ∧ windowTakes s.me false [0, 1] ∧ streamsReady s1 [0, 1] [] ∧
      ∃ loc s2, s1.blockLoc s1.cur 1 cFORMAT (blockPlace (s1.reg 1) 0) = .ok loc s2 ∧ streamsReady (qntPosted loc s2) [0, 1] []) := by
  unfold windowTakes loadableFmt
  refine ⟨⟨actsFrom_of_none rfl rfl, by decide, by decide, by decide, by decide, streamsReady_of (by decide +kernel), by decide, ?_⟩,
    ⟨actsFrom_of_none rfl rfl, actsFrom_of_none rfl rfl, by decide, by decide, by decide, streamsReady_of (by decide +kernel),
      by decide, ?_, ?_⟩,
    actsFrom_of_none rfl rfl, by decide, streamsReady_of (by decide +kernel), ?_⟩
  · refine ok_and (p := fun _ s2 => ready s2 [] [1] && decide (s2.boundStream s2.cur 1 ≠ none)) (by decide +kernel) ?_
    intro es s2 hp
    simp only [Bool.and_eq_true, decide_eq_true_eq] at hp
    exact ⟨streamsReady_of hp.1, hp.2⟩
  · exact ok_and (p := fun locs s2 => ready (stdPosted locs s2) [0] []) (by decide +kernel) fun _ _ hp => streamsReady_of hp
  · refine ok_and (p := fun olds s2 => oks (blockPlaces s2 3 ((boundBlocks 0x1F).reg 1)
        (blocksOf 0x1F 0 (lanesOf (((boundBlocks 0x1F).drainCore (boundBlocks 0x1F).myCore).me.mask 0))))
      fun locs s3 => ready (stdpPosted olds locs s3) [0] []) (by decide +kernel) ?_
    exact fun olds s2 h => ok_and h fun _ _ hp => streamsReady_of hp
  · exact ok_and (p := fun loc s2 => ready (qntPosted loc s2) [0, 1] []) (by decide +kernel) fun _ _ hp => streamsReady_of hp
def accPosted (r : Nat × Nat × Nat × Nat) (s2 : State) : State :=
  let u := if r.2.2.1 = 5 then 32 else 64
  (((List.range 32).map fun j => j * 4 / u).eraseDups).foldl (fun s q =>
    s.issueAcc s.cur (r.1 + q * u) (0x1234567880 + q * u) r.2.1 r.2.2.1 r.2.2.2
      (.plain 4 true (((List.range 32).filter fun j => j * 4 / u = q).map fun j =>
        (j - q * (u / 4), (accElem 2 s2.me.vclass (laneOf (s2.vin 0) j)).1)))) s2
theorem witness_StreamOperands_accumulates :
    (let s := withStreams ((paged 0x20000017).modMe fun x => { x with vcount := 64, vclass := 4, regs := [(1, 0x1234567880)] })
       0x3F800000
     let s1 := s.drainCore s.myCore
     actsFrom (.acc 0 1 0 2) s s ∧ windowTakes s.me false [0] ∧ streamsReady s1 [0] [] ∧ s1.me.exact = false ∧
      (s1.reg 1).toNat % 128 = 0 ∧ (lanesOf (s1.me.mask 0)).head? = some 0 ∧ lanesOf (s1.me.mask 7) = [] ∧
      ∃ r s2, s1.accTarget (s1.reg 1).toNat 4 false = .ok r s2 ∧ streamsReady (accPosted r s2) [0] []) ∧
    (let s := boundBlocks 0x1F
     let s1 := s.drainCore s.myCore
     actsFrom (.accD 0 1 2 0) s s ∧ addableFmt (wantedFmt (s.reg 2)) ∧
      ∃ r s2, s1.accTarget (blockPlace (s1.reg 1) 0) 64 true = .ok r s2 ∧
        streamsReady (s2.issueAcc s2.cur r.1 (blockPlace (s1.reg 1) 0) r.2.1 r.2.2.1 r.2.2.2
          (.desc 0x1F [(0, laneVal s2.me.vclass (s2.vin 0) 0)])) [0] []) := by
  unfold windowTakes addableFmt
  refine ⟨⟨actsFrom_of_none rfl rfl, by decide, streamsReady_of (by decide +kernel), by decide, by decide, by decide, by decide, ?_⟩,
    actsFrom_of_none rfl rfl, by decide, ?_⟩
  · exact ok_and (p := fun r s2 => ready (accPosted r s2) [0] []) (by decide +kernel) fun _ _ hp => streamsReady_of hp
  · exact ok_and (p := fun r s2 => ready (s2.issueAcc s2.cur r.1 0x1234567880 r.2.1 r.2.2.1 r.2.2.2
        (.desc 0x1F [(0, laneVal s2.me.vclass (s2.vin 0) 0)])) [0] []) (by decide +kernel) fun _ _ hp => streamsReady_of hp
/-- The accesses of the statements on vector, described, tile and bound accesses act. -/
theorem witness_actsFrom_more :
    actsFrom (.sbind 63 1) recorded recorded ∧ actsFrom (.vldUnit 63 1 7 0) (wide 4) (wide 4) ∧
    actsFrom (.vstUnit 63 1 7 0) (wide 4) (wide 4) ∧
    actsFrom (.vldd 63 1 2 0) (described 0x20 0x20) (described 0x20 0x20) ∧
    actsFrom (.mldt 3 1 0 0) (tiled []) (tiled []) :=
  ⟨actsFrom_of_none rfl (by decide), actsFrom_of_none rfl (by decide), actsFrom_of_none rfl (by decide),
    actsFrom_of_none rfl (by decide), actsFrom_of_none rfl (by decide)⟩
/-- A change of window that leaves out a bound register, and one that does not. -/
theorem witness_WindowChanges_bound :
    windowAsked (.vwinImm 1 15) streaming = some (1, 15) ∧ (∃ b ∈ streaming.me.binds, 1 ≤ b.1) ∧
    windowAsked (.vwinImm 2 15) streaming = some (2, 15) ∧ ¬(∃ b ∈ streaming.me.binds, 2 ≤ b.1) := by decide
/-- A late completion at user level, at supervisor level, and behind a deferred fault. -/
theorem witness_SolverResults_late :
    let u := (tiled []).modMe fun x => { x with vcount := 1, vclass := 0, dln := 1, tvec := 0x4000 }
    let v := { u.modMe fun x => { x with sup := true } with stvec := 0x8000 }
    let w := u.modMe fun x => { x with pend := [{ due with out := .fault 0x02 1 9 }] }
    let u1 := u.drainCore u.myCore
    let v1 := v.drainCore v.myCore
    let w1 := w.drainCore w.myCore
    (tooLate u1 320 ∧ settles u1 ∧ entersUser (u1.endShadows u1.cur).me 0x08) ∧
    (tooLate v1 320 ∧ settles v1 ∧ entersSuper (v1.endShadows v1.cur) (v1.endShadows v1.cur).me 0x08) ∧
    (tooLate w1 320 ∧ (w1.endShadows w1.cur).me.pend ≠ [] ∧ (w1.endShadows w1.cur).me.mode = .running ∧
      (w1.endShadows w1.cur).cur = w1.cur) := by
  unfold tooLate settles entersUser entersSuper
  decide
/-- A copy whose earlier load has read, and one whose earlier load waits for its page. -/
theorem witness_EngineInstructions_loads :
    (scr.inFlight scr.myCore < 512 ∧ loadsRead scr) ∧ (loading.inFlight loading.myCore < 512 ∧ ¬loadsRead loading) := by
  unfold loadsRead
  decide +kernel
/-- A launch that a function-level reset ends, with a DRAIN of it. -/
theorem witness_ResetsAndPower_fenced :
    let c : Command := { image := 0, seq := 2, notify := true, source := 3 }
    let l := { launch7 with drain := some c }
    let s := { queued [] [l] with queues := [(3, { base := 0x10000, en := true, log2 := 4, asid := 5, pi := 7, ci := 6 })] }
    s.dstate = 2 ∧ s.queues ≠ [] ∧ uncached s (s.jAddr l.seq) 64 ∧ l.resume = none ∧ c.seq % 2 ^ 16 ≠ l.seq % 2 ^ 16 ∧
    uncached s (s.jAddr c.seq) 64 := by
  unfold uncached
  decide
theorem witness_MemorySteps_notice :
    let d := { dir0 with request := some (0, [1]) }
    let s := sharing {} { dir := [(128, d)] }
    FMap.find (s.cluAt 0).dir 128 = some d ∧ d.request = some (0, [1]) ∧ FMap.find (s.coreAt 1).l1 128 = none ∧
    FMap.find (s.coreAt 0).l1 128 = some grain0 := by decide +kernel
/-- A swap of the page of the worked walk, and a package with it and a leaf of that page. -/
def swapOf (out : Bool) (phase : Nat) (ok : Bool) : Swap :=
  { swap0 with out := out, vpn := 0x123456, phase := phase, ok := ok, ptePa := 0x4300B0, dest := 0x30000 }
def swapping (leaf : Nat) (x : Swap) : State := { paged leaf with swaps := [x], swapStatus := [(1, 0)] }
theorem witness_MemorySteps_swapOut :
    let x := swapOf true 0 true
    (let s := swapping 0 x
     let y := { x with vpn := 0xFFFFFF }
     s.pageEntry y.asid y.vpn = none) ∧
    (let s := swapping 0x20000017 x
     s.pageEntry x.asid x.vpn = some (0x4300B0, 0x20000017) ∧ ¬mayLeavePage s x 0x20000017) ∧
    (let s := swapping 0x20004017 x
     let u := pageStill s x 0x4300B0 0x20004017
     s.pageEntry x.asid x.vpn = some (0x4300B0, 0x20004017) ∧ mayLeavePage s x 0x20004017 ∧
      ((List.range 16).any fun g => u.homePoisoned (ptePA 0x20004017 + 4096 * g) 4096 (pteDOM 0x20004017)) = false) ∧
    (let s := { swapping 0x20004017 x with poison := [(0x20000080, 128)] }
     let u := pageStill s x 0x4300B0 0x20004017
     s.pageEntry x.asid x.vpn = some (0x4300B0, 0x20004017) ∧ mayLeavePage s x 0x20004017 ∧
      ((List.range 16).any fun g => u.homePoisoned (ptePA 0x20004017 + 4096 * g) 4096 (pteDOM 0x20004017)) = true) ∧
    (let y := swapOf true 2 false
     y.ptePa % 8 = 0 ∧ uncached (swapping 0x2000C017 y) y.ptePa 8) := by
  unfold mayLeavePage uncached
  decide +kernel
theorem witness_MemorySteps_swapIn :
    let x := swapOf false 0 true
    let e := 2 ^ 62 + 0x4016
    (let s := swapping e x
     s.pageEntry x.asid x.vpn = some (0x4300B0, e) ∧ pteV e = false ∧ pteS e = true ∧ pteT e = false ∧ x.dest ≠ 0 ∧
      ownedByOther s.owned x.asid x.dest 16 = false ∧ 0x4300B0 % 8 = 0 ∧ uncached s 0x4300B0 8) ∧
    (let y := swapOf false 2 true
     let s := swapping (e + 2 ^ 15) y
     let r := Memory.readN (FMap.getD s.drives y.drive []) (4096 * y.lba) (17 * 4096)
     ((List.range 16).any fun g => s.homeFenced (y.dest + 4096 * g) (pteDOM (s.homeNat y.ptePa 8))) = false ∧
      recordBad y.asid y.vpn (s.asidAt y.asid).key r = some 3) := by
  unfold uncached
  decide +kernel
/-- A drive with the record of R298 of a described page whose blocks are all EMPTY, under a storage key of zeros. -/
def returning : State :=
  { swapping (2 ^ 62 + 0xC016) (swapOf false 2 true) with
    asids := FMap.put (paged 0).asids 3 { (paged 0).asidAt 3 with key := List.replicate 32 0 }
    drives := [(0, [(0, 83), (1, 87), (2, 65), (3, 80), (4, 1), (6, 3), (8, 86), (9, 52), (10, 18), (18, 1), (20, 42),
      (21, 40), (22, 93), (23, 71), (48, 255), (49, 15), (50, 178), (51, 227), (52, 245), (53, 109), (54, 227), (55, 137),
      (56, 47), (57, 250), (58, 167), (59, 113), (60, 211), (61, 111), (62, 65), (63, 251)])] }
/-- The record reads as swap-in wants it, and nothing is in the way at the destination. -/
theorem witness_MemorySteps_swappedIn :
    let x := swapOf false 2 true
    let s := returning
    let r := Memory.readN (FMap.getD s.drives x.drive []) (4096 * x.lba) (17 * 4096)
    ((List.range 16).any fun g => s.homeFenced (x.dest + 4096 * g) (pteDOM (s.homeNat x.ptePa 8))) = false ∧
    recordBad x.asid x.vpn (s.asidAt x.asid).key r = none ∧ openRecord (s.asidAt x.asid).key r = some [] ∧
    ownedByOther s.owned x.asid x.dest 16 = false ∧ x.ptePa % 8 = 0 := by
  decide +kernel
/-- A state whose homes hold and await nothing stays so when a slice writes a page that it does not cache. -/
theorem quiet_slicePut (s : State) (h pa : Nat) (bs : List Byte) (mask : List Bool)
    (q : s.homes = [] ∧ s.waits = [] ∧ s.poison = []) :
    (s.slicePut h pa bs mask false).homes = [] ∧ (s.slicePut h pa bs mask false).waits = [] ∧
      (s.slicePut h pa bs mask false).poison = [] := by
  have hf : ∀ (bs' : List Nat) (s : State), s.homes = [] ∧ s.waits = [] ∧ s.poison = [] →
      let t := bs'.foldl (fun s b => s.linePut h pa bs mask b) s
      t.homes = [] ∧ t.waits = [] ∧ t.poison = [] := by
    intro bs'
    induction bs' with
    | nil => exact fun s q => q
    | cons b bs' ih =>
      intro s q
      refine ih _ ?_
      have hn : FMap.find (s.homeAt h).cache b = none := by simp [State.homeAt, q.1, FMap.getD, FMap.find]
      simpa only [State.linePut, hn] using q
  have q1 := hf (lineBases pa bs.length) s q
  simp only [State.slicePut, State.wakeBlocks, State.wakeAll, State.heal, Bool.false_eq_true, if_false]
  simp only [q1.1, q1.2.1, q1.2.2, List.filter_nil, List.foldl_nil, and_self]
/-- After the destination has been written no slice holds the line of the entry. -/
theorem witness_MemorySteps_swappedIn_entry :
    let x := swapOf false 2 true
    let s := returning
    let u := (List.range 1024).foldl (fun u j =>
      u.slicePut (u.homeOf 0 (x.dest + 64 * j)) (x.dest + 64 * j) emptyBlock (List.replicate 64 true) false) (s.recall x.dest (2 ^ 16))
    pteCK (s.homeNat x.ptePa 8) = 0 ∧ pteDOM (s.homeNat x.ptePa 8) = 0 ∧ uncached u x.ptePa 8 := by
  have hf : ∀ (js : List Nat) (s : State), s.homes = [] ∧ s.waits = [] ∧ s.poison = [] →
      (js.foldl (fun u j => u.slicePut (u.homeOf 0 (0x30000 + 64 * j)) (0x30000 + 64 * j) emptyBlock (List.replicate 64 true)
        false) s).homes = [] := by
    intro js
    induction js with
    | nil => exact fun s q => q.1
    | cons j js ih => exact fun s q => ih _ (quiet_slicePut s _ _ _ _ q)
  refine ⟨by decide +kernel, by decide +kernel, ?_⟩
  unfold uncached
  intro k hk
  have h0 := hf (List.range 1024) (returning.recall 0x30000 (2 ^ 16)) (by decide +kernel)
  exact absurd (h0 ▸ hk) (by simp)
/-- A copy of core 0 in a state, and copies of 8 bytes from and to scratch, nowhere and the page of the worked walk. -/
def copying (s : State) (c : Copy) : State := s.modCore 0 fun k => { k with copies := [c] }
def copyOf (src dst : Nat) : Copy := { copy0 with asid := 3, src := src, dst := dst, ctl := 8 }
/-- The source of a copy is read, as a test of what was read and the state then. -/
def reads (s : State) (c : Copy) (p : List Byte → State → Bool) : Bool :=
  oks (s.copyResolve c 0 ((c.src + c.done + c.ahead.length) % 2 ^ 64) c.toRead) fun cs s1 =>
    match s1.pointReads 0 cs with | (some new, s2) => p new s2 | (none, _) => false
theorem exists_reads {s : State} {c : Copy} {p : List Byte → State → Bool} (h : reads s c p = true) :
    ∃ cs s1 new s2, s.copyResolve c 0 ((c.src + c.done + c.ahead.length) % 2 ^ 64) c.toRead = .ok cs s1 ∧
      s1.pointReads 0 cs = (some new, s2) ∧ p new s2 = true := by
  obtain ⟨cs, s1, h1, h2⟩ := exists_ok h
  match h3 : s1.pointReads 0 cs with
  | (some new, s2) => exact ⟨cs, s1, new, s2, h1, h3, by simpa [h3] using h2⟩
  | (none, s2) => simp [h3] at h2
theorem witness_MemorySteps_copies :
    (let c := copyOf 0xFFE0000000000000 0xFFE0000000000043
     let s := copying scr c
     (s.coreAt 0).copies[0]? = some c ∧ c.finished = false ∧ c.over = false ∧ c.kind = 0 ∧ c.toRead ≠ 0 ∧ c.bar = false ∧
      ∃ cs s1 new s2, s.copyResolve c 0 ((c.src + c.done + c.ahead.length) % 2 ^ 64) c.toRead = .ok cs s1 ∧
        s1.pointReads 0 cs = (some new, s2) ∧
        ∃ ds s3, s2.copyResolve c 1 ((c.dst + c.done) % 2 ^ 64) c.chunk = .ok ds s3 ∧
          (∀ d ∈ ds, s3.locFenced d.loc = false) ∧
          ∀ d ∈ ds, d.loc.described = true → c.dst % 64 = 0 ∧ c.len % 64 = 0) ∧
    (let c := copyOf 0 0xFFE0000000000040
     let s := copying scr c
     (s.coreAt 0).copies[0]? = some c ∧ c.over = false ∧ c.toRead ≠ 0 ∧
      ∃ cause acc v s1, s.copyResolve c 0 ((c.src + c.done + c.ahead.length) % 2 ^ 64) c.toRead = .stop (.trap cause acc v) s1) ∧
    (let c := copyOf 0x1234567880 0xFFE0000000000040
     let s := copying { paged 0x20000017 with poison := [(0x20007880, 32)] } c
     (s.coreAt 0).copies[0]? = some c ∧ c.over = false ∧ c.toRead ≠ 0 ∧
      ∃ cs s1 s2, s.copyResolve c 0 ((c.src + c.done + c.ahead.length) % 2 ^ 64) c.toRead = .ok cs s1 ∧
        s1.pointReads 0 cs = (none, s2)) ∧
    (let c := copyOf 0xFFE0000000000000 0
     let s := copying scr c
     (s.coreAt 0).copies[0]? = some c ∧ c.over = false ∧ c.toRead ≠ 0 ∧
      ∃ cs s1 new s2, s.copyResolve c 0 ((c.src + c.done + c.ahead.length) % 2 ^ 64) c.toRead = .ok cs s1 ∧
        s1.pointReads 0 cs = (some new, s2) ∧
        ∃ cause acc v s3, s2.copyResolve c 1 ((c.dst + c.done) % 2 ^ 64) c.chunk = .stop (.trap cause acc v) s3) := by
  refine ⟨⟨by decide, by decide, by decide, by decide, by decide, by decide, ?_⟩, ⟨by decide, by decide, by decide, exists_trap (by decide +kernel)⟩,
    ⟨by decide, by decide, by decide, ?_⟩, by decide, by decide, by decide, ?_⟩
  · obtain ⟨cs, s1, new, s2, h1, h2, h3⟩ := exists_reads (s := copying scr (copyOf 0xFFE0000000000000 0xFFE0000000000043))
      (c := copyOf 0xFFE0000000000000 0xFFE0000000000043)
      (p := fun _ s2 => oks (s2.copyResolve (copyOf 0xFFE0000000000000 0xFFE0000000000043) 1 0xFFE0000000000043 8) fun ds s3 =>
        ds.all fun d => s3.locFenced d.loc = false && !d.loc.described) (by decide +kernel)
    obtain ⟨ds, s3, h4, h5⟩ := exists_ok h3
    simp only [List.all_eq_true, Bool.and_eq_true, decide_eq_true_eq, Bool.not_eq_true'] at h5
    exact ⟨cs, s1, new, s2, h1, h2, ds, s3, h4, fun d hd => (h5 d hd).1, fun d hd hx => absurd hx (by simp [(h5 d hd).2])⟩
  · obtain ⟨cs, s1, h1, h2⟩ := exists_ok (r := (copying { paged 0x20000017 with poison := [(0x20007880, 32)] }
        (copyOf 0x1234567880 0xFFE0000000000040)).copyResolve (copyOf 0x1234567880 0xFFE0000000000040) 0 0x1234567880 8)
      (p := fun cs s1 => (s1.pointReads 0 cs).1.isNone) (by decide +kernel)
    exact ⟨cs, s1, (s1.pointReads 0 cs).2, h1, Prod.ext (Option.isNone_iff_eq_none.1 h2) rfl⟩
  · obtain ⟨cs, s1, new, s2, h1, h2, h3⟩ := exists_reads (s := copying scr (copyOf 0xFFE0000000000000 0))
      (c := copyOf 0xFFE0000000000000 0) (p := fun _ s2 => traps (s2.copyResolve (copyOf 0xFFE0000000000000 0) 1 0 8)) (by decide +kernel)
    exact ⟨cs, s1, new, s2, h1, h2, exists_trap h3⟩
/-- A line that a slice may take, and one that it holds. -/
theorem witness_MemorySteps_points :
    nothingOut scr 0 ∧ lineReady scr (scr.homeOf 1 0x20000040) 0x20000040 ∧ 0x20000040 % 64 + 64 ≤ 64 ∧
    scr.homePoisoned 0x20000040 64 1 = false ∧
    (let s := { scr with homes := [(scr.homeOf 1 0x20000040, { cache := [(0x20000040, scr.hbmLine 0)] })] }
     lineReady s (s.homeOf 1 0x20000040) 0x20000040 ∧ FMap.find (s.homeAt (s.homeOf 1 0x20000040)).cache 0x20000040 ≠ none) := by
  unfold nothingOut lineReady
  refine ⟨by decide, ⟨fun l h => (by cases h), fun _ => by decide⟩, by decide, by decide, ⟨fun l h => ?_, fun h => (by cases h)⟩, by decide +kernel⟩
  rw [← Option.some.inj h]
  rfl
/-- A copy of rows from scratch into a tile. -/
def rowsTo (tile done : Nat) (recv : List (Nat × Nat)) : Copy :=
  { copyOf 0xFFE0000000000000 tile with kind := 1, ctl := 0, done := done, recv := recv }
/-- The next row of a copy is read, as a test of the state then. -/
def rowRead (s : State) (c : Copy) (p : State → Bool) : Bool :=
  oks (s.copyResolve c 0 (((c.src : Int) + c.done * c.stride) % 2 ^ 64).toNat 128) fun cs s1 =>
    match s1.pointReads 0 cs with | (some _, s2) => p s2 | (none, _) => false
theorem exists_row {s : State} {c : Copy} {p : State → Bool} (h : rowRead s c p = true) :
    ∃ cs s1 row s2, s.copyResolve c 0 (((c.src : Int) + c.done * c.stride) % 2 ^ 64).toNat 128 = .ok cs s1 ∧
      s1.pointReads 0 cs = (some row, s2) ∧ p s2 = true := by
  obtain ⟨cs, s1, h1, h2⟩ := exists_ok h
  match h3 : s1.pointReads 0 cs with
  | (some row, s2) => exact ⟨cs, s1, row, s2, h1, h3, by simpa [h3] using h2⟩
  | (none, s2) => simp [h3] at h2
/-- A row for a receiver that has been found, for one still to be found, and for one that the window leaves out. -/
theorem witness_MemorySteps_rows :
    (let c := rowsTo 3 1 [(0, 3)]
     let s := copying (tiled []) c
     (s.coreAt 0).copies[0]? = some c ∧ c.finished = false ∧ c.over = false ∧ c.kind ≠ 0 ∧ c.bar = false ∧ c.done ≠ 0 ∧ c.recv.Nodup ∧
      ∃ cs s1 row s2, s.copyResolve c 0 (((c.src : Int) + c.done * c.stride) % 2 ^ 64).toNat 128 = .ok cs s1 ∧
        s1.pointReads 0 cs = (some row, s2) ∧ (FMap.find (s2.coreAt 0).tas 3).isSome = true) ∧
    (let c := rowsTo 3 0 []
     let s := copying (tiled []) c
     (s.coreAt 0).copies[0]? = some c ∧ c.over = false ∧ c.bar = false ∧
      ∃ cs s1 row s2, s.copyResolve c 0 (((c.src : Int) + c.done * c.stride) % 2 ^ 64).toNat 128 = .ok cs s1 ∧
        s1.pointReads 0 cs = (some row, s2) ∧
        (decide (c.tile < (s2.slotAt c.tid).tcount) && !s2.tileHeld c.tid c.tile && (FMap.find (s2.slotAt c.tid).tmap c.tile == some 3) &&
          (FMap.find (s2.coreAt (c.tid / 16)).tas 3).isSome) = true) ∧
    (let c := rowsTo 4 0 []
     let s := copying (tiled []) c
     (s.coreAt 0).copies[0]? = some c ∧ c.over = false ∧ c.bar = false ∧
      ∃ cs s1 row s2, s.copyResolve c 0 (((c.src : Int) + c.done * c.stride) % 2 ^ 64).toNat 128 = .ok cs s1 ∧
        s1.pointReads 0 cs = (some row, s2) ∧ decide ((s2.slotAt c.tid).tcount ≤ c.tile) = true) :=
  ⟨⟨by decide, by decide, by decide, by decide, by decide, by decide, by decide,
      exists_row (p := fun s2 => (FMap.find (s2.coreAt 0).tas 3).isSome) (by decide +kernel)⟩,
    ⟨by decide, by decide, by decide, exists_row (c := rowsTo 3 0 [])
      (p := fun s2 => decide ((rowsTo 3 0 []).tile < (s2.slotAt 0).tcount) && !s2.tileHeld 0 (rowsTo 3 0 []).tile &&
        (FMap.find (s2.slotAt 0).tmap (rowsTo 3 0 []).tile == some 3) && (FMap.find (s2.coreAt 0).tas 3).isSome)
      (by decide +kernel)⟩,
    by decide, by decide, by decide, exists_row (c := rowsTo 4 0 [])
      (p := fun s2 => decide ((s2.slotAt 0).tcount ≤ (rowsTo 4 0 []).tile)) (by decide +kernel)⟩
end Sys2Proof.Tests
end

section
/-!
PROOFS. The steps of slots and launches (R136, R139, R192, R194, R421, R428 to R434): what each step of
`Obligations.SchedulingSteps` comes to when what it waits for is there.
-/
namespace Sys2Proof.Machine

theorem bitOf_eq_testBit (w i : Nat) : bitOf w i = w.testBit i := Nat.testBit_eq_decide_div_mod_eq.symm

/-! ### Steal engines -/

theorem State.probePass_of_pressed {s : State} {u : Nat} {v : Victim} {e : QEntry} (hm : (s.slotAt u).mode = .idle)
    (hu : s.usable.testBit (u / 256) = true) (hc : s.chooseAt u 8 (s.pressedVictims u) = some (v, e)) :
    s.probePass u = s.take u v e := by
  simp [State.probePass, hm, bitOf_eq_testBit, cluOf, hu, hc]

theorem State.thiefResume_of_starting {s : State} {u : Nat} {e : QEntry} {d : Bool}
    (hm : (s.slotAt u).mode = .starting e d) :
    s.thiefResume u =
      (s.acquire u (if e.kind = 1 then 3 else if d then edgeScope (s.frInfo e.frame).holder (u / 16)
        else if e.moved then 3 else 2)).startOrPark u e d := by
  simp only [State.thiefResume, hm, coreOf]

theorem exec_workNotice {s : State} (hm : (s.slotAt s.ev.a).mode = .resting) (hn : (s.slotAt s.ev.a).notice = true) :
    exec .workNotice s = .next (s.setSlot s.ev.a { s.slotAt s.ev.a with mode := .idle, notice := false }) := by
  show execWorkNotice s = _
  simp [execWorkNotice, hm, hn, Slot.wakeEngine]

theorem exec_stealWaitExpiry {s : State} (hm : (s.slotAt s.ev.a).mode = .resting)
    (hr : (s.slotAt s.ev.a).restAt + 1024 ≤ s.clk) :
    exec .stealWaitExpiry s = .next (s.setSlot s.ev.a { s.slotAt s.ev.a with mode := .idle, notice := false }) := by
  show execStealWaitExpiry s = _
  simp [execStealWaitExpiry, hm, hr, Slot.wakeEngine]

/-! ### Pending results of one slot (R192, R194, R420) -/

theorem State.drainWide_none {s : State} {t : Nat} (h : ∀ e ∈ (s.coreAt (t / 16)).wideq, e.tid ≠ t) : s.drainWide t = s :=
  State.stepWides_none fun e he => decide_eq_false (h e he)

/-- With no vector load of a slot on its way, ending its shadows delivers its pending results and nothing else. -/
theorem State.endShadows_eq {s : State} {t : Nat} (h : ∀ e ∈ (s.coreAt (t / 16)).wideq, e.tid ≠ t) :
    s.endShadows t =
      (s.modSlot t fun x => { x with pend := x.pend.map fun p => { p with left := 0, arrived := true } }).settle t := by
  unfold State.endShadows
  rw [State.drainWide_none (by simpa using h)]

/-- A pending result that no delivery takes out of the list: its shadow goes on, it has not arrived, or it is a fault. -/
def Pend.stays (p : Pend) : Prop := p.left ≠ 0 ∨ p.arrived = false ∨ ∃ c a v, p.out = .fault c a v

theorem State.settleFrom_stays (s : State) (t : Nat) (ps kept : List Pend) (h : ∀ p ∈ ps, p.stays) :
    s.settleFrom t kept ps = s.setPend t (kept ++ ps) := by
  induction ps generalizing kept with
  | nil => simp [State.settleFrom]
  | cons p ps ih =>
    have hr : s.settleFrom t (kept ++ [p]) ps = s.setPend t (kept ++ p :: ps) := by
      rw [ih _ fun q hq => h q (List.mem_cons_of_mem p hq), List.append_assoc, List.singleton_append]
    by_cases hl : p.left = 0
    · rcases h p List.mem_cons_self with h0 | ha | ⟨c, a, v, ho⟩
      · exact absurd hl h0
      · simp [State.settleFrom, hl, ha]
      · cases ha : p.arrived
        · simp [State.settleFrom, hl, ha]
        · simp [State.settleFrom, hl, ha, ho, hr]
    · simp [State.settleFrom, hl, hr]

theorem State.settle_stays {s : State} {t : Nat} (h : ∀ p ∈ (s.slotAt t).pend, p.stays) :
    s.settle t = s.setSlot t (s.slotAt t) :=
  s.settleFrom_stays t _ [] h

/-- Where the pending results of a slot are faults that are due, ending its shadows changes nothing. -/
theorem State.endShadows_faults {s : State} {t : Nat} (hw : ∀ e ∈ (s.coreAt (t / 16)).wideq, e.tid ≠ t)
    (h : ∀ p ∈ (s.slotAt t).pend, p.left = 0 ∧ p.arrived = true ∧ ∃ c a v, p.out = .fault c a v) :
    s.endShadows t = s.setSlot t (s.slotAt t) := by
  have hm : (s.slotAt t).pend.map (fun p => { p with left := 0, arrived := true }) = (s.slotAt t).pend := by
    refine (List.map_congr_left fun p hp => ?_).trans (List.map_id _)
    obtain ⟨hl, ha, _⟩ := h p hp
    rw [← hl, ← ha]
    rfl
  rw [State.endShadows_eq hw, State.modSlot_eq, hm, State.settle_stays, State.setSlot_setSlot,
    State.slotAt_setSlot_same]
  rw [State.slotAt_setSlot_same]
  exact fun p hp => .inr (.inr (h p hp).2.2)

theorem Slot.faultDue_of_ended {x : Slot} {i : Nat} {p : Pend} {c a : Nat} {v : Word} (he : x.ended = some (i, p))
    (hm : x.mode = .running) (ha : p.arrived = true) (ho : p.out = .fault c a v) : x.faultDue = true := by
  simp [Slot.faultDue, Slot.due, he, hm, ha, ho]

theorem exec_trapEntry {s : State} (h : (s.slotAt s.ev.a).faultDue = true) :
    exec .trapEntry s = .next (s.deferTrap s.ev.a) := by
  show execTrapEntry s = _
  rw [execTrapEntry, if_pos h]

theorem Slot.ended_single {x : Slot} {p : Pend} (hp : x.pend = [p]) (hl : p.left = 0) : x.ended = some (0, p) := by
  simp [Slot.ended, hp, hl]

/-- The only pending result of a slot is a fault that is due, for its user handler: the handler is entered with the
deferred-fault record (R194, R420, R421). -/
theorem State.deferTrap_user {s : State} {t : Nat} {p : Pend} {c a : Nat} {v : Word} (hp : (s.slotAt t).pend = [p])
    (hl : p.left = 0) (hm : (s.slotAt t).mode = .running) (ha : p.arrived = true) (ho : p.out = .fault c a v)
    (hw : ∀ e ∈ (s.coreAt (t / 16)).wideq, e.tid ≠ t) (hc : supCause c = false) (h8 : c < 256)
    (hsup : (s.slotAt t).sup = false) (huh : (s.slotAt t).uh = false) (hsh : (s.slotAt t).sh = false)
    (htv : (s.slotAt t).tvec ≠ 0) :
    ∃ y, s.deferTrap t = s.setSlot t y ∧ y.pc = (s.slotAt t).tvec ∧ y.tpc = (s.slotAt t).pc ∧ y.tval = v ∧ y.uh = true ∧
      y.tcau = BitVec.ofNat 64 (c + a * 2 ^ 10 + 2 ^ 8) ∧ y.udef.dfp = p.iaddr ∧ y.udef.dfv = p.va := by
  have hb : (trapBits c a + 2 ^ 8) % 256 = c := by simp only [trapBits]; omega
  have hd : (s.slotAt t).firstDue = some (0, { bits := trapBits c a + 2 ^ 8, tval := v, rcd := some (c, p) }) := by
    simp [Slot.firstDue, hp, Slot.dueOf, ho]
  have hs : s.endShadows t = s.setSlot t (s.slotAt t) := State.endShadows_faults hw fun q hq => by
    rw [hp, List.mem_singleton] at hq
    exact hq ▸ ⟨hl, ha, c, a, v, ho⟩
  unfold State.deferTrap
  simp only [hs, State.slotAt_setSlot_same, hm, hd, if_true, State.enterDue, State.setAside, State.modSlot_eq,
    State.setSlot_setSlot, State.enterTrap, hb, Slot.userDest, hc, hsup, huh, hsh, Slot.setDef, Bool.not_false,
    Bool.and_true, Bool.not_true, if_false, htv, Bool.false_eq_true]
  exact ⟨_, rfl, rfl, rfl, rfl, rfl, rfl, rfl, rfl⟩

/-! ### Arrival of a result (R192) -/

theorem exec_shadowResultArrival {s : State} {p : Pend} (hp : (s.slotAt s.ev.a).pend = [p])
    (hm : (s.slotAt s.ev.a).mode = .running) (ha : p.arrived = false) :
    exec .shadowResultArrival s =
      .next ((s.setSlot s.ev.a { s.slotAt s.ev.a with pend := [{ p with arrived := true }] }).settle s.ev.a) := by
  show execShadowResultArrival s = _
  simp [execShadowResultArrival, hm, hp, arriveFirst, ha]

theorem State.settle_within {s : State} {t : Nat} {x : Slot} {p : Pend} (hl : 0 < p.left) :
    (s.setSlot t { x with pend := [p] }).settle t = s.setSlot t { x with pend := [p] } := by
  rw [State.settle_stays, State.setSlot_setSlot, State.slotAt_setSlot_same]
  rw [State.slotAt_setSlot_same]
  intro q hq
  exact .inl (List.mem_singleton.mp hq ▸ Nat.ne_of_gt hl)

theorem State.settle_value {s : State} {t : Nat} {x : Slot} {p : Pend} {v : Word} (hl : p.left = 0)
    (ha : p.arrived = true) (ho : p.out = .value v) :
    (s.setSlot t { x with pend := [p] }).settle t = s.setSlot t { x.setReg p.dest v with pend := [] } := by
  have hr : { { x with pend := [p] }.setReg p.dest v with pend := [] } = { x.setReg p.dest v with pend := [] } := by
    unfold Slot.setReg
    split <;> rfl
  simp only [State.settle, State.slotAt_setSlot_same, State.settleFrom, hl, ha, ho, State.setRegN, State.setPend,
    State.modSlot_eq, State.setSlot_setSlot, bne_self_eq_false, Bool.not_true, Bool.false_eq_true, if_false, hr]

/-! ### Fetch (R160, R169) -/

theorem exec_walkCompletion_ok {s s1 : State} {va pa pte size : Nat} (hm : (s.slotAt s.ev.a).mode = .running)
    (hf : (s.slotAt s.ev.a).fetchMiss = true) (hv : s.missAddr s.ev.a = some va)
    (hx : s.xlate s.ev.a (s.slotAt s.ev.a).asid accFetch va = (s1, .ok pa pte size)) :
    exec .walkCompletion s = .next s1 := by
  show execWalkCompletion s = _
  simp [execWalkCompletion, Slot.awaitsLine, hm, hf, hv, hx, fetchDone]

theorem exec_walkCompletion_none {s : State} (hv : s.missAddr s.ev.a = none) : exec .walkCompletion s = .next s := by
  show execWalkCompletion s = _
  simp [execWalkCompletion, hv]

theorem exec_instructionCacheFill_line {s s1 : State} {va : Nat} (hm : (s.slotAt s.ev.a).mode = .running)
    (hf : (s.slotAt s.ev.a).fetchMiss = true) (hv : s.missAddr s.ev.a = some va) (hl : s.fillLine s.ev.a va = .ok () s1) :
    exec .instructionCacheFill s = .next (s1.setSlot s.ev.a { s1.slotAt s.ev.a with fetchMiss := false }) := by
  show execInstructionCacheFill s = _
  simp only [execInstructionCacheFill, Slot.awaitsLine, hm, hf, decide_true, Bool.and_self, if_true, hv, hl, fetchDone,
    State.modSlot_eq]

theorem exec_instructionCacheFill_none {s : State} (hm : (s.slotAt s.ev.a).mode = .running)
    (hf : (s.slotAt s.ev.a).fetchMiss = true) (hv : s.missAddr s.ev.a = none) :
    exec .instructionCacheFill s = .next (s.setSlot s.ev.a { s.slotAt s.ev.a with fetchMiss := false }) := by
  show execInstructionCacheFill s = _
  simp only [execInstructionCacheFill, Slot.awaitsLine, hm, hf, decide_true, Bool.and_self, if_true, hv, fetchDone,
    State.modSlot_eq]

/-! ### Sleep (R197) -/

theorem exec_coreSleep (s : State) :
    exec .coreSleep s = .next (s.setCore s.ev.a { s.coreAt s.ev.a with
      depth := if (List.range 16).any (fun j =>
        (s.slotAt (s.ev.a * 16 + j)).mode = .running || (s.slotAt (s.ev.a * 16 + j)).mode = .held) then 0
        else (s.coreAt s.ev.a).cslp }) := by
  show execCoreSleep s = _
  simp only [execCoreSleep, coreSlots, List.any_map, State.modCore_eq]
  rfl

/-! ### Drains and the ends of launches (R428 to R430, R434, R456) -/

theorem exec_forcedSave {s : State} {l : Launch} (hl : (s.launches.find? fun l => (s.remaining l.lid).contains s.ev.a) = some l)
    (hm : s.mayForce l = true) : exec .forcedSave s = .next (s.saveSlot l s.ev.a) := by
  show execForcedSave s = _
  simp only [execForcedSave, hl, hm, if_true]

theorem exec_drainFinish {s : State} {l : Launch} {c : Command} (hl : s.launch? s.ev.a = some l) (hc : l.drain = some c)
    (hd : s.drainDone l = true) : exec .drainFinish s = .next (s.finishDrain l c) := by
  show execDrainFinish s = _
  simp only [execDrainFinish, hl, hc, hd, if_true]

theorem exec_launchRetire_ending {s : State} {l : Launch} {st r d : Nat} (hl : s.launch? s.ev.a = some l)
    (he : l.ending = some (st, r, d)) : exec .launchRetire s = .next (s.finishEnd l st r d) := by
  show execLaunchRetire s = _
  simp only [execLaunchRetire, State.retire, hl, he]

theorem setBits_eq_filter_testBit (w n : Nat) : setBits w n = (List.range n).filter fun k => w.testBit k := by
  simp only [setBits, bitOf_eq_testBit]

/-- A launch whose root and donated tasks have ended retires once its copies and swaps are complete (R455, R456). -/
theorem exec_launchRetire_complete {s : State} {l : Launch} (hl : s.launch? s.ev.a = some l) (he : l.ending = none)
    (hr : l.rootEnded = true) (hd : l.donated = 0) (hn : l.drain = none) (hs : l.state = 2 ∨ l.state = 3)
    (hc : ∀ c ∈ s.cores, ∀ x ∈ c.2.copies, x.lid = s.ev.a → x.finished = true)
    (hw : ∀ x ∈ s.swaps, x.lid = s.ev.a → x.id = 0) :
    exec .launchRetire s = .next (((domainSettled s l.domain).jRunFirst s.ev.a).finishEnd l 6 0 0) := by
  have hcopies : (s.cores.any fun c => c.2.copies.any fun x => x.lid = s.ev.a && !x.finished) = false := by
    simpa [List.any_eq_false] using fun a b h x hx => hc (a, b) h x hx
  have hswaps : (s.swaps.any fun x => x.lid = s.ev.a && x.id != 0) = false := by
    simpa [List.any_eq_false] using hw
  have hst : (decide (l.state = jPLACED) || decide (l.state = jRUNNING)) = true := by
    rw [Bool.or_eq_true, decide_eq_true_eq, decide_eq_true_eq]
    exact hs
  show execLaunchRetire s = _
  simp only [execLaunchRetire, State.retire, hl, he, hr, hd, hn, hst, hcopies, hswaps, setBits_eq_filter_testBit,
    decide_true, Option.isNone_none, Bool.and_self, Bool.not_true, Bool.or_self, Bool.false_eq_true, if_false]
  rfl

theorem exec_qwait {s : State} {l : Launch} {w : Wait} (hl : s.launch? s.ev.a = some l) (hw : s.quietHead l.lid = some w)
    (hq : s.quiescent l = true) :
    exec .qwait s = .next (if (s.raiseQwait w).2 = true
      then (s.raiseQwait w).1.modLaunch l.lid fun y => { y with quiet := true } else (s.raiseQwait w).1) := by
  show execQwait s = _
  simp only [execQwait, hl, hw, hq, if_true]

/-! ### Waking a slot (R398, R427) -/

/-- Setting the event latches of a core changes latches only. -/
theorem State.latchCore_slot (s : State) (core t : Nat) :
    ∃ b, (s.latchCore core).slotAt t = { s.slotAt t with latch := b } := by
  unfold State.latchCore
  induction List.range 16 generalizing s with
  | nil => exact ⟨(s.slotAt t).latch, rfl⟩
  | cons i l ih =>
    obtain ⟨b, hb⟩ := ih (s.modSlot (core * 16 + i) fun x => { x with latch := true })
    rw [List.foldl_cons, hb, State.modSlot_eq, State.slotAt_setSlot]
    split
    · next h => exact ⟨b, by rw [h]⟩
    · exact ⟨b, rfl⟩

theorem State.latchCore_rest (s : State) (core : Nat) : ∃ m, s.latchCore core = { s with slots := m } := by
  unfold State.latchCore
  induction List.range 16 generalizing s with
  | nil => exact ⟨s.slots, rfl⟩
  | cons i l ih => exact ih (s.modSlot (core * 16 + i) fun x => { x with latch := true })

/-- A wake changes slots and the lists of waiters only. -/
theorem State.wakeSlot_rest (s : State) (w : Wait) : ∃ m l, s.wakeSlot w = { s with slots := m, waits := l } := by
  unfold State.wakeSlot
  simp only
  split
  · obtain ⟨m, h⟩ := State.latchCore_rest
      ({ s with waits := s.waits.filter fun v => v.tid != w.tid }.modSlot w.tid fun x => { x with mode := .running })
      (coreOf w.tid)
    exact ⟨m, _, h⟩
  · exact ⟨_, _, rfl⟩

/-- The woken slot runs; nothing else of it but the event latch changes. -/
theorem State.wakeSlot_slot (s : State) (w : Wait) :
    ∃ b, (s.wakeSlot w).slotAt w.tid = { s.slotAt w.tid with mode := .running, latch := b } := by
  unfold State.wakeSlot
  simp only
  split
  · obtain ⟨b, h⟩ := State.latchCore_slot
      ({ s with waits := s.waits.filter fun v => v.tid != w.tid }.modSlot w.tid fun x => { x with mode := .running })
      (coreOf w.tid) w.tid
    rw [State.modSlot_eq, State.slotAt_setSlot_same] at h
    exact ⟨b, h⟩
  · rw [State.modSlot_eq, State.slotAt_setSlot_same]
    exact ⟨(s.slotAt w.tid).latch, rfl⟩

/-! ### WIN_DEADLOCK (R433) -/

/-- A slot that is withdrawn from its window request runs, with its results and its level as before. -/
theorem State.withdraw_slot (s : State) (w : Wait) :
    ((s.withdraw w).slotAt w.tid).mode = .running ∧
    ((s.slotAt w.tid).pend = [] → ((s.withdraw w).slotAt w.tid).pend = []) ∧
    ((s.slotAt w.tid).sh = false → ((s.withdraw w).slotAt w.tid).sh = false) := by
  obtain ⟨b, hb⟩ := s.wakeSlot_slot w
  unfold State.withdraw
  simp only
  split
  · rw [State.modSlot_eq, State.slotAt_setSlot_same]
    exact ⟨rfl, fun _ => rfl, fun _ => rfl⟩
  · rw [hb]
    exact ⟨rfl, id, id⟩

/-- A slot that has taken a task is at the pc where that task would start (log 60). -/
theorem State.withdraw_pc_start {s : State} {w : Wait} {e : QEntry} {d : Bool} (h : w.op = .start e d) :
    ((s.withdraw w).slotAt w.tid).pc = BitVec.ofNat 64 (e.pc / 2 * 2) := by
  unfold State.withdraw
  simp only [h]
  rw [State.modSlot_eq, State.slotAt_setSlot_same]
  rfl

theorem State.withdraw_pc_other {s : State} {w : Wait} (h : ∀ e d, w.op ≠ .start e d) :
    ((s.withdraw w).slotAt w.tid).pc = (s.slotAt w.tid).pc := by
  obtain ⟨b, hb⟩ := s.wakeSlot_slot w
  have hw : s.withdraw w = s.wakeSlot w := by
    cases hop : w.op with
    | start e d => exact absurd hop (h e d)
    | _ => simp only [State.withdraw, hop]
  rw [hw, hb]

theorem State.withdraw_rest (s : State) (w : Wait) : ∃ m l, s.withdraw w = { s with slots := m, waits := l } := by
  obtain ⟨m, l, h⟩ := s.wakeSlot_rest w
  unfold State.withdraw
  simp only
  split
  · rw [h]; exact ⟨_, _, rfl⟩
  · exact ⟨m, l, h⟩

theorem State.withdraw_coreAt (s : State) (w : Wait) (c : Nat) : (s.withdraw w).coreAt c = s.coreAt c := by
  obtain ⟨m, l, h⟩ := s.withdraw_rest w
  rw [h]; rfl

theorem State.withdraw_stvec (s : State) (w : Wait) : (s.withdraw w).stvec = s.stvec := by
  obtain ⟨m, l, h⟩ := s.withdraw_rest w
  rw [h]

/-- A slot outside a supervisor handler, with nothing left to complete, takes WIN_DEADLOCK at supervisor level. -/
theorem State.trapSlot_deadlock {s : State} {t : Nat} {v : Word} (hm : (s.slotAt t).mode = .running)
    (hp : (s.slotAt t).pend = []) (hw : ∀ e ∈ (s.coreAt (t / 16)).wideq, e.tid ≠ t) (hsh : (s.slotAt t).sh = false)
    (hv : s.stvec ≠ 0) :
    ∃ y, s.trapSlot t (trapBits cWINDEADLOCK 0) v = (s.setSlot t y, true) ∧
      y.pc = s.stvec ∧ y.sup = true ∧ y.sval = v ∧ y.sepc = (s.slotAt t).pc := by
  have he : s.endShadows t = s.setSlot t (s.slotAt t) :=
    State.endShadows_faults hw fun p h => absurd (hp ▸ h) List.not_mem_nil
  have hu : (s.slotAt t).userDest (trapBits cWINDEADLOCK 0 % 256) = false := by
    simp [Slot.userDest, supCause, trapBits, cWINDEADLOCK]
  rw [State.trapSlot_settled (by rw [he, State.slotAt_setSlot_same, hp]) (by rw [he, State.slotAt_setSlot_same, hm]), he]
  simp only [State.enterTrap, State.slotAt_setSlot_same, hu, hsh, State.setSlot_stvec, hv, State.modSlot_eq,
    State.setSlot_setSlot, Bool.false_and, Bool.false_eq_true, if_false]
  exact ⟨_, rfl, rfl, rfl, rfl, rfl⟩

theorem State.raiseDeadlock_due {s : State} {core : Nat} {again : Bool} {w : Wait} {rest : List Wait}
    (hw : s.poolWaits core = w :: rest) (hd : s.deadlocked core = true)
    (hg : (if again then (s.coreAt core).deadlockShown && (s.coreAt core).poolAt + 1024 ≤ s.clk
      else !(s.coreAt core).deadlockShown) = true) :
    s.raiseDeadlock core again =
      let r := (s.withdraw w).trapSlot w.tid (trapBits cWINDEADLOCK 0) (BitVec.ofNat 64 (s.shortfall w.tid w.op))
      if r.2 = true then r.1.modCore core fun c => { c with deadlockShown := true, poolAt := s.clk } else r.1 := by
  simp only [State.raiseDeadlock, hw, hd, hg, Bool.not_true, Bool.or_self, Bool.false_eq_true, if_false]

/-- What the trap leaves in the slot at the head of a deadlocked core's pool order (R417, R433). -/
theorem State.withdraw_trapSlot {s : State} {w : Wait} {v : Word} (hp : (s.slotAt w.tid).pend = [])
    (hq : ∀ e ∈ (s.coreAt (w.tid / 16)).wideq, e.tid ≠ w.tid) (hv : s.stvec ≠ 0) (hsh : (s.slotAt w.tid).sh = false) :
    ∃ u y, (s.withdraw w).trapSlot w.tid (trapBits cWINDEADLOCK 0) v = (u, true) ∧ u.slotAt w.tid = y ∧
      y.pc = s.stvec ∧ y.sup = true ∧ y.sval = v ∧ y.sepc = ((s.withdraw w).slotAt w.tid).pc := by
  obtain ⟨hm, hpend, hh⟩ := s.withdraw_slot w
  obtain ⟨y, hy, h1, h2, h3, h4⟩ := State.trapSlot_deadlock (v := v) hm (hpend hp) (by rwa [State.withdraw_coreAt]) (hh hsh)
    (by rwa [State.withdraw_stvec])
  rw [State.withdraw_stvec] at h1
  exact ⟨_, y, hy, State.slotAt_setSlot_same _ _ _, h1, h2, h3, h4⟩

end Sys2Proof.Machine

open Sys2Proof.Machine

/-- Settles O59: each step of a slot or a launch, from the lemma about it. -/
theorem schedulingSteps : Obligations.SchedulingSteps := by
  unfold Obligations.SchedulingSteps
  intro s
  refine ⟨fun v e hm hu hc => congrArg _ (State.probePass_of_pressed hm hu hc),
    fun e d hm => congrArg _ (State.thiefResume_of_starting hm),
    fun hm => ⟨fun hn => ⟨_, exec_workNotice hm hn, onlySlot_setSlot _ _ _, State.slotAt_setSlot_same _ _ _⟩,
      fun hr => ⟨_, exec_stealWaitExpiry hm hr, onlySlot_setSlot _ _ _, State.slotAt_setSlot_same _ _ _⟩⟩,
    fun i p c a v he hm ha ho => exec_trapEntry (Slot.faultDue_of_ended he hm ha ho), ?_, ?_, ?_, ?_,
    fun l hl hm => exec_forcedSave hl hm, ⟨_, rfl, rfl, List.map_congr_left fun l _ => (ite_not _ _ _).symm⟩,
    fun l c hl hc hd => exec_drainFinish hl hc hd,
    fun l st r d hl he => exec_launchRetire_ending hl he,
    fun l hl he hr hd hn hs hc hw => exec_launchRetire_complete hl he hr hd hn hs hc hw,
    fun l w hl hw hq => exec_qwait hl hw hq, ?_⟩
  · intro p c a v hp hl hm ha ho hw hc h8 hsup huh hsh htv
    obtain ⟨y, hy, hf⟩ := State.deferTrap_user hp hl hm ha ho hw hc h8 hsup huh hsh htv
    refine ⟨_, exec_trapEntry (Slot.faultDue_of_ended (Slot.ended_single hp hl) hm ha ho), ?_⟩
    rw [hy, State.slotAt_setSlot_same]
    exact ⟨onlySlot_setSlot _ _ _, hf⟩
  · intro p hp hm ha
    have he := exec_shadowResultArrival hp hm ha
    exact ⟨fun hl => ⟨_, he.trans (congrArg _ (State.settle_within hl)), onlySlot_setSlot _ _ _,
        State.slotAt_setSlot_same _ _ _⟩,
      fun v hl ho => ⟨_, he.trans (congrArg _ (State.settle_value hl rfl ho)), onlySlot_setSlot _ _ _, by simp, by simp,
        fun r => by rw [State.slotAt_setSlot_same]; exact Slot.reg_setReg _ _ _ _⟩⟩
  · intro hm hf
    refine ⟨fun va hv => ⟨fun s1 pa pte size hx => exec_walkCompletion_ok hm hf hv hx,
      fun s1 hl => ⟨_, exec_instructionCacheFill_line hm hf hv hl, onlySlot_setSlot _ _ _, State.slotAt_setSlot_same _ _ _⟩⟩,
      fun hv => ⟨exec_walkCompletion_none hv, _, exec_instructionCacheFill_none hm hf hv, onlySlot_setSlot _ _ _,
        State.slotAt_setSlot_same _ _ _⟩⟩
  · refine ⟨_, exec_coreSleep s, rfl, fun k => ?_⟩
    rw [State.coreAt_setCore]
    by_cases hk : k = s.ev.a
    · subst hk; simp
    · simp [hk]
  · intro w rest hw hd
    refine ⟨fun hn => congrArg _ (State.raiseDeadlock_due hw hd (by simp [hn])),
      fun hn hc => congrArg _ (State.raiseDeadlock_due hw hd (by simp [hn, hc])), fun hp hq hv hsh => ?_⟩
    obtain ⟨u, y, hr, hy, h1, h2, h3, h4⟩ := State.withdraw_trapSlot
      (v := BitVec.ofNat 64 (s.shortfall w.tid w.op)) hp hq hv hsh
    simp only [hr, if_true, State.modCore_eq, State.slotAt_setCore_frame, hy]
    refine ⟨h1, h2, h3, h4.trans ?_⟩
    split
    · next e d hop => exact State.withdraw_pc_start hop
    · next hn => exact State.withdraw_pc_other hn
end

section
/-!
PROOFS. What wakes, writes at the homes, swaps and messages leave as they were: facts about the shared operations of
Machine/Memory.lean and Machine/Swap.lean.
-/
namespace Sys2Proof.Machine

/-! ### Little-endian numbers and bits (R2, R3) -/

theorem leBytes_length (n w : Nat) : (leBytes n w).length = n := by
  induction n generalizing w with
  | zero => rfl
  | succ n ih => simp [leBytes, ih]

theorem natOfBytes_leBytes (n w : Nat) : natOfBytes (leBytes n w) = w % 256 ^ n := by
  induction n generalizing w with
  | zero => simp [leBytes, natOfBytes, Nat.mod_one]
  | succ n ih =>
    rw [leBytes, natOfBytes, ih, BitVec.toNat_ofNat, Nat.pow_succ' (m := 256), Nat.mod_mul]

theorem Memory.readN_getElem? (m : Memory) (a n i : Nat) :
    (Memory.readN m a n)[i]? = if i < n then some (Memory.read m (a + i)) else none := by
  induction n generalizing a i with
  | zero => rfl
  | succ n ih =>
    cases i with
    | zero => simp [Memory.readN]
    | succ i => simp [Memory.readN, ih, Nat.add_assoc, Nat.add_comm 1 i]

theorem Memory.readN_length (m : Memory) (a n : Nat) : (Memory.readN m a n).length = n := by
  induction n generalizing a with
  | zero => rfl
  | succ n ih => simp [Memory.readN, ih]

theorem Memory.readN_writeN (m : Memory) (a : Nat) (bs : List Byte) :
    Memory.readN (Memory.writeN m a bs) a bs.length = bs := by
  apply List.ext_getElem?
  intro i
  rw [Memory.readN_getElem?, Memory.read_writeN]
  by_cases h : i < bs.length
  · simp [h]
  · simp [h]

theorem withBit_false (e i : Nat) : withBit e i false = e - 2 ^ i * b2n (e.testBit i) := by
  rw [withBit, bitOf_eq_testBit, Nat.mul_comm, b2n, b2n, if_neg Bool.false_ne_true, Nat.zero_mul, Nat.add_zero]

/-- Clearing bit 15 of an entry leaves bit 63 as it is. -/
theorem testBit_withBit_15_63 (e : Nat) : (withBit e 15 false).testBit 63 = e.testBit 63 := by
  have h : (e - 2 ^ 15 * b2n (e.testBit 15)) / 2 ^ 63 % 2 = e / 2 ^ 63 % 2 := by
    rw [Nat.testBit_eq_decide_div_mod_eq]
    by_cases h : e / 2 ^ 15 % 2 = 1
    · simp only [h, decide_true, b2n, if_true]; omega
    · simp only [h, decide_false, b2n, Bool.false_eq_true, if_false, Nat.mul_zero, Nat.sub_zero]
  rw [withBit_false, Nat.testBit_eq_decide_div_mod_eq, h, ← Nat.testBit_eq_decide_div_mod_eq]

/-! ### Wakes (R398) -/

/-- Slots and the lists of waiters may differ, nothing else. -/
def onlyWakes (s t : State) : Prop := ∃ m l, t = { s with slots := m, waits := l }

theorem onlyWakes_refl (s : State) : onlyWakes s s := ⟨s.slots, s.waits, rfl⟩

theorem onlyWakes_trans {s t u : State} (h : onlyWakes s t) (h' : onlyWakes t u) : onlyWakes s u := by
  obtain ⟨m, l, rfl⟩ := h
  obtain ⟨m', l', rfl⟩ := h'
  exact ⟨m', l', rfl⟩

theorem State.wakeAll_onlyWakes (s : State) (p : Wait → Bool) : onlyWakes s (s.wakeAll p) := by
  unfold State.wakeAll
  induction s.waits.filter p generalizing s with
  | nil => exact onlyWakes_refl s
  | cons w l ih => exact onlyWakes_trans (s.wakeSlot_rest w) (ih (s.wakeSlot w))

theorem State.wakeBlocks_onlyWakes (s : State) (pa n : Nat) (f : Nat → Byte) : onlyWakes s (s.wakeBlocks pa n f) :=
  s.wakeAll_onlyWakes _

theorem State.streamMoved_onlyWakes (s : State) (core e : Nat) : onlyWakes s (s.streamMoved core e) :=
  s.wakeAll_onlyWakes _

/-! ### Tags of poisoned grains (R436) -/

theorem State.heal_rest (s : State) (pa : Nat) (mask : List Bool) :
    ∃ po me, s.heal pa mask = { s with poison := po, mended := me } := by
  unfold State.heal
  induction s.poison.filter fun g => g.1 < pa + mask.length && pa < g.1 + g.2 generalizing s with
  | nil => exact ⟨s.poison, s.mended, rfl⟩
  | cons g l ih =>
    obtain ⟨po, me, h⟩ := ih (s.healGrain g.1 g.2 pa mask)
    rw [List.foldl_cons, h]
    unfold State.healGrain
    simp only
    split <;> exact ⟨_, _, rfl⟩

/-! ### Writes of one line at the homes (R96, R285, R290) -/

theorem FMap.mem_of_find {α : Type} {m : FMap α} {k : Nat} {v : α} (h : FMap.find m k = some v) : (k, v) ∈ m := by
  induction m with
  | nil => cases h
  | cons c m ih =>
    obtain ⟨j, w⟩ := c
    rw [FMap.find] at h
    split at h
    · next hj => rw [hj, Option.some.inj h]; exact List.mem_cons_self
    · exact List.mem_cons_of_mem _ (ih h)

theorem lineBases_single {pa n : Nat} (hn : 0 < n) (h : pa % 64 + n ≤ 64) : lineBases pa n = [pa / 64 * 64] := by
  have h1 : (pa + n + 63) / 64 - pa / 64 = 1 := by omega
  rw [lineBases, h1]
  simp

/-- A line of which no home slice's cache holds a byte is found in none. -/
theorem uncached_find {s : State} {pa n : Nat} (hn : 0 < n) (hu : uncached s pa n) :
    (s.homes.find? fun h => (FMap.find h.2.cache (pa / 64 * 64)).isSome) = none := by
  rw [List.find?_eq_none]
  intro x hx hs
  obtain ⟨l, hl⟩ := Option.isSome_iff_exists.mp hs
  have := hu x hx _ (FMap.mem_of_find hl)
  simp only at this
  omega

/-- A write at the homes to bytes of one line that no cache holds goes to HBM; tags may heal and waiters wake. -/
theorem State.homeWrite_uncached {s : State} {pa : Nat} {bs : List Byte} (hn : 0 < bs.length)
    (h : pa % 64 + bs.length ≤ 64) (hu : uncached s pa bs.length) :
    ∃ m l po me, s.homeWrite pa bs =
      { s with slots := m, waits := l, poison := po, mended := me, mem := Memory.writeN s.mem pa bs } := by
  have hb : max pa (pa / 64 * 64) = pa := by omega
  have ht : (bs.drop (pa - pa)).take (pa / 64 * 64 + 64 - pa) = bs := by
    rw [Nat.sub_self, List.drop_zero, List.take_of_length_le (by omega)]
  have hp : s.physPut pa bs (pa / 64 * 64) = { s with mem := Memory.writeN s.mem pa bs } := by
    simp only [State.physPut, uncached_find hn hu, hb, ht]
  unfold State.homeWrite
  simp only [lineBases_single hn h, List.foldl_cons, List.foldl_nil, hp]
  obtain ⟨po, me, he⟩ := State.heal_rest { s with mem := Memory.writeN s.mem pa bs } pa (List.replicate bs.length true)
  rw [he]
  obtain ⟨m, l, hw⟩ := State.wakeBlocks_onlyWakes
    { s with mem := Memory.writeN s.mem pa bs, poison := po, mended := me } pa bs.length fun b =>
      State.physByte { s with mem := Memory.writeN s.mem pa bs, poison := po, mended := me } b
  exact ⟨m, l, po, me, hw⟩

/-! ### Page-table entries (R299, R300) -/

/-- What a write of a page-table entry leaves: slots, lists of waiters, tags and HBM may differ. -/
theorem State.putPte_uncached {s : State} {pa e : Nat} (h8 : pa % 8 = 0) (hu : uncached s pa 8) :
    ∃ m l po me, s.putPte pa e =
      { s with slots := m, waits := l, poison := po, mended := me, mem := Memory.writeN s.mem pa (leBytes 8 e) } :=
  State.homeWrite_uncached (by rw [leBytes_length]; omega) (by rw [leBytes_length]; omega) (by rwa [leBytes_length])

/-- Memory after a write of 8 bytes has the entry there, and every other byte as before. -/
theorem entryWritten_of_mem {s t : State} {pa e : Nat} (h : t.mem = Memory.writeN s.mem pa (leBytes 8 e)) :
    entryWritten s t pa e := by
  have hr := Memory.readN_writeN s.mem pa (leBytes 8 e)
  rw [leBytes_length] at hr
  refine ⟨?_, fun b hb => ?_⟩
  · rw [h]
    exact (congrArg natOfBytes hr).trans (natOfBytes_leBytes 8 e)
  · rw [h, Memory.read_writeN, leBytes_length, if_neg (by omega)]

/-! ### The end of a swap (R339, R344) -/

theorem State.postMsg_rest (s : State) (t lid : Nat) (bs : List Byte) :
    ∃ m l c, s.postMsg t lid bs = { s with slots := m, waits := l, cores := c } := by
  unfold State.postMsg
  split
  · exact ⟨s.slots, s.waits, s.cores, rfl⟩
  · simp only
    obtain ⟨m, l, h⟩ := State.wakeAll_onlyWakes
      (s.modCore (coreOf t) fun c => { c with inbox := c.inbox ++ [{ tid := t, lid := lid, bytes := bs }] })
      fun w => decide (w.tid = t) && decide (w.place = .inbox (coreOf t))
    rw [h]
    exact ⟨_, _, _, rfl⟩

/-- The end of a swap: its status is final, it leaves the engine unless it has a message to post, and besides only slots,
lists of waiters and cores may differ. -/
theorem State.endSwap_rest (s : State) (i : Nat) (x : Swap) (code : Nat) :
    ∃ m l c st sw, s.endSwap i x code =
        { s with slots := m, waits := l, cores := c, swapStatus := st, swaps := sw } ∧
      (x.id ≠ 0 → st = s.swapStatus.map fun p => if p.1 = x.id then (p.1, code) else p) ∧
      ((x.id = 0 ∨ x.opt.testBit 2 = false) → sw = s.swaps.take i ++ s.swaps.drop (i + 1)) := by
  have hs : ∃ st, (if x.id = 0 then s else
        { s with swapStatus := s.swapStatus.map fun (p : Nat × Nat) => if p.1 = x.id then (p.1, code) else p }) =
      { s with swapStatus := st } ∧
      (x.id ≠ 0 → st = s.swapStatus.map fun p => if p.1 = x.id then (p.1, code) else p) := by
    split
    · next h => exact ⟨s.swapStatus, rfl, fun hn => absurd h hn⟩
    · exact ⟨_, rfl, fun _ => rfl⟩
  obtain ⟨st, hst, hid⟩ := hs
  have hm : (x.id = 0 ∨ x.opt.testBit 2 = false) →
      (x.id != 0 && bitOf x.opt 2 && (s.launch? x.lid).isSome) = false := by
    rw [bitOf_eq_testBit]
    rintro (h | h) <;> simp [h]
  unfold State.endSwap
  simp only [hst]
  split
  · next h =>
    refine ⟨_, _, _, st, _, rfl, hid, fun hx => ?_⟩
    rw [hm hx] at h
    simp at h
  · split
    · obtain ⟨m, l, c, h⟩ := State.postMsg_rest { s with swapStatus := st, swaps := dropIdx s.swaps i } x.tid x.lid
        (msgBytes 4 code x.id 0 (x.asid + x.vpn * 2 ^ 16) [])
      exact ⟨m, l, c, st, _, h, hid, fun _ => rfl⟩
    · exact ⟨_, _, _, st, _, rfl, hid, fun _ => rfl⟩

/-- What the end of a swap leaves of a state in which its page notice has been sent. -/
theorem swapEnded_endSwap {s u : State} (i : Nat) (x : Swap) (code : Nat) (hw : u.swaps = s.swaps)
    (hs : u.swapStatus = s.swapStatus) (hn : u.notices = s.notices) :
    swapEnded s ((u.notifyPage x.asid x.vpn).endSwap i x code) i x code := by
  obtain ⟨m, l, c, st, sw, h, hid, hx⟩ := (u.notifyPage x.asid x.vpn).endSwap_rest i x code
  rw [h]
  refine ⟨fun h => (hx h).trans (by rw [← hw]; rfl), fun h => (hid h).trans (by rw [← hs]; rfl), ?_⟩
  rw [← hn]
  rfl

theorem State.endSwap_mem (s : State) (i : Nat) (x : Swap) (code : Nat) : (s.endSwap i x code).mem = s.mem := by
  obtain ⟨m, l, c, st, sw, h, -⟩ := s.endSwap_rest i x code
  rw [h]

theorem State.endSwap_drives (s : State) (i : Nat) (x : Swap) (code : Nat) : (s.endSwap i x code).drives = s.drives := by
  obtain ⟨m, l, c, st, sw, h, -⟩ := s.endSwap_rest i x code
  rw [h]

theorem State.ringBack_rest (s : State) (x : Swap) (give : Bool) : ∃ d, s.ringBack x give = { s with dies := d } := by
  unfold State.ringBack
  split
  · exact ⟨s.dies, rfl⟩
  · exact ⟨_, rfl⟩

end Sys2Proof.Machine
end

section
/-!
PROOFS. The swap engine (R297 to R301): its steps, the record of a page, and what each end of a swap leaves.
-/
namespace Sys2Proof.Machine

/-! ### Steps of the engine -/

section
variable {s : State} {x : Swap} (hx : s.swaps[s.ev.a]? = some x)
include hx

theorem exec_swapOut_start (ho : x.out = true) (hp : x.phase = 0) : exec .swapOut s = .next (s.swapOutStart s.ev.a x) := by
  show execSwapOut s = _
  simp [execSwapOut, State.swapOutStep, hx, ho, hp]

theorem exec_swapOut_end (ho : x.out = true) (hp : x.phase = 2) : exec .swapOut s = .next (s.swapOutEnd s.ev.a x) := by
  show execSwapOut s = _
  simp [execSwapOut, State.swapOutStep, hx, ho, hp]

theorem exec_swapIn_start (ho : x.out = false) (hp : x.phase = 0) : exec .swapIn s = .next (s.swapInStart s.ev.a x) := by
  show execSwapIn s = _
  simp [execSwapIn, State.swapInStep, hx, ho, hp]

theorem exec_swapIn_end (ho : x.out = false) (hp : x.phase = 2) : exec .swapIn s = .next (s.swapInEnd s.ev.a x) := by
  show execSwapIn s = _
  simp [execSwapIn, State.swapInStep, hx, ho, hp]

/-- The drive's answer: a record that is written without error stands on the drive (R301). -/
theorem exec_nvmeCompletion (hp : x.phase = 1 ∨ x.phase = 4) :
    ∃ t ok, exec .nvmeCompletion s = .next t ∧ (ok = true → s.ev.b = 1) ∧
      t = { s with
        drives := if x.phase = 1 ∧ x.out = true ∧ ok = true then
            FMap.put s.drives x.drive (Memory.writeN (FMap.getD s.drives x.drive []) (4096 * x.lba) x.data)
          else s.drives
        swaps := s.swaps.set s.ev.a
          { x with
            phase := if (x.phase = 1 ∧ x.out = true ∧ ok = true) ∧ x.opt.testBit 0 = true then 4 else 2, ok := ok } } := by
  refine ⟨_, decide (s.ev.b = 1) && !bitOf s.fencedFlash x.drive && driveInUse x.drive &&
    decide (x.lba + (if x.out then x.data.length / 4096 else 1) ≤ Config.driveLbas x.drive), rfl, fun h => ?_, ?_⟩
  · simp only [Bool.and_eq_true, decide_eq_true_eq] at h
    exact h.1.1.1
  · simp only [State.nvmeDone, hx, State.writeDrive]
    generalize (decide (s.ev.b = 1) && !bitOf s.fencedFlash x.drive && driveInUse x.drive &&
      decide (x.lba + (if x.out then x.data.length / 4096 else 1) ≤ Config.driveLbas x.drive)) = ok
    rcases hp with hp | hp
    · cases ho : x.out <;> cases ok <;> simp [hp, bitOf_eq_testBit]
    · simp [hp]

end

/-! ### Swap-out (R299) -/

theorem State.swapOutStart_none {s : State} {x : Swap} (i : Nat) (h : s.pageEntry x.asid x.vpn = none) :
    s.swapOutStart i x = s.endSwap i x 4 := by
  simp only [State.swapOutStart, h]

theorem not_mayLeavePage_iff (s : State) (x : Swap) (e : Nat) :
    (!pteV e || pteT e || leafBad s.memBytes 16 e || pteK e != 2 || ownedByOther s.owned x.asid (ptePA e) 16) = true ↔
      ¬mayLeavePage s x e := by
  unfold mayLeavePage
  cases pteV e <;> cases pteT e <;> cases leafBad s.memBytes 16 e <;>
    cases ownedByOther s.owned x.asid (ptePA e) 16 <;> simp

theorem State.swapOutStart_kept {s : State} {x : Swap} {pa e : Nat} (i : Nat) (h : s.pageEntry x.asid x.vpn = some (pa, e))
    (hm : ¬mayLeavePage s x e) : s.swapOutStart i x = s.endSwap i x 4 := by
  simp only [State.swapOutStart, h, (not_mayLeavePage_iff s x e).mpr hm, if_true]

/-- The page leaves: the homes drop it, its record waits for the drive, and its ASID counts on (R298, R299). -/
def State.sendPage (u : State) (i : Nat) (x : Swap) (pa e : Nat) : State :=
  let s2 := (u.homesDrop (ptePA e) (2 ^ 16)).modAsid x.asid fun y => { y with iv := y.iv + 1 }
  { s2 with swaps := s2.swaps.set i { x with
      phase := 1, ptePa := pa
      data := makeRecord x.asid x.vpn (pteD e) (u.asidAt x.asid).key (Config.bootCount + u.boots)
        (u.asidAt x.asid).iv (u.pageBlocks (ptePA e) (pteDOM e)) } }

theorem State.swapOutStart_leaves {s : State} {x : Swap} {pa e : Nat} (i : Nat)
    (h : s.pageEntry x.asid x.vpn = some (pa, e)) (hm : mayLeavePage s x e) :
    s.swapOutStart i x =
      if ((List.range 16).any fun g => (pageStill s x pa e).homePoisoned (ptePA e + 4096 * g) 4096 (pteDOM e)) = true then
        (((pageStill s x pa e).putPte pa e).notifyPage x.asid x.vpn).endSwap i x 2
      else (pageStill s x pa e).sendPage i x pa e := by
  have hb := (Bool.not_eq_true _).mp fun h => (not_mayLeavePage_iff s x e).mp h hm
  unfold State.swapOutStart
  rw [h]
  exact if_neg (ne_true_of_eq_false hb)

theorem State.lineDrop_rest (s : State) (h base : Nat) : ∃ me hs, s.lineDrop h base = { s with mem := me, homes := hs } := by
  unfold State.lineDrop State.lineOut
  split <;> exact ⟨_, _, rfl⟩

/-- Dropping a range from the homes changes HBM and the homes only. -/
theorem State.homesDrop_rest (s : State) (pa n : Nat) : ∃ me hs, s.homesDrop pa n = { s with mem := me, homes := hs } := by
  have hl : ∀ (h : Nat) (l : List Nat) (s : State),
      ∃ me hs, l.foldl (fun s b => s.lineDrop h b) s = { s with mem := me, homes := hs } := by
    intro h l
    induction l with
    | nil => exact fun s => ⟨s.mem, s.homes, rfl⟩
    | cons b l ih =>
      intro s
      obtain ⟨me, hs, h1⟩ := s.lineDrop_rest h b
      obtain ⟨me', hs', h2⟩ := ih (s.lineDrop h b)
      exact ⟨me', hs', by rw [List.foldl_cons, h2, h1]⟩
  unfold State.homesDrop
  induction s.homes.map (fun h => h.1) generalizing s with
  | nil => exact ⟨s.mem, s.homes, rfl⟩
  | cons h l ih =>
    obtain ⟨me, hs, h1⟩ := hl h (((s.homeAt h).cache.filter fun l => l.1 < pa + n && pa < l.1 + 64).map fun l => l.1) s
    obtain ⟨me', hs', h2⟩ := ih ((((s.homeAt h).cache.filter fun l => l.1 < pa + n && pa < l.1 + 64).map fun l => l.1).foldl
      (fun s b => s.lineDrop h b) s)
    exact ⟨me', hs', by rw [List.foldl_cons, h2, h1]⟩

/-- A page that leaves is in no drive yet: its record waits, under the next IV count of its ASID. -/
theorem State.sendPage_record (u : State) (i : Nat) (x : Swap) (pa e : Nat) :
    (u.sendPage i x pa e).drives = u.drives ∧ ((u.sendPage i x pa e).asidAt x.asid).iv = (u.asidAt x.asid).iv + 1 ∧
      (u.sendPage i x pa e).swaps = u.swaps.set i { x with
        phase := 1, ptePa := pa
        data := makeRecord x.asid x.vpn (pteD e) (u.asidAt x.asid).key (Config.bootCount + u.boots)
          (u.asidAt x.asid).iv (u.pageBlocks (ptePA e) (pteDOM e)) } := by
  obtain ⟨me, hs, hd⟩ := u.homesDrop_rest (ptePA e) (2 ^ 16)
  unfold State.sendPage
  rw [hd]
  refine ⟨rfl, ?_, rfl⟩
  show ((State.modAsid { u with mem := me, homes := hs } x.asid fun y => { y with iv := y.iv + 1 }).asidAt x.asid).iv = _
  rw [State.asidAt_modAsid, if_pos rfl]
  rfl

/-- The end of a swap-out: the swapped entry, or on an error of the drive the entry as it was (R299, R301). -/
theorem State.swapOutEnd_ends {s : State} {x : Swap} (i : Nat) (h8 : x.ptePa % 8 = 0) (hu : uncached s x.ptePa 8) :
    let e := s.homeNat x.ptePa 8
    swapEnded s (s.swapOutEnd i x) i x (if x.ok then 1 else 2) ∧ entryWritten s (s.swapOutEnd i x) x.ptePa
      (if x.ok then e / 2 % 2 ^ 14 * 2 + 2 ^ 16 * x.drive + 2 ^ 18 * x.lba + 2 ^ 62 + 2 ^ 63 * b2n (x.opt.testBit 1)
      else e - 2 ^ 15 * b2n (e.testBit 15)) := by
  intro e
  have hv : (if x.ok then bitsOf e 14 1 * 2 + x.drive * 2 ^ 16 + x.lba * 2 ^ 18 + 2 ^ 62 + b2n (bitOf x.opt 1) * 2 ^ 63
        else withBit e 15 false) =
      if x.ok then e / 2 % 2 ^ 14 * 2 + 2 ^ 16 * x.drive + 2 ^ 18 * x.lba + 2 ^ 62 + 2 ^ 63 * b2n (x.opt.testBit 1)
      else e - 2 ^ 15 * b2n (e.testBit 15) := by
    simp only [bitsOf, bitOf_eq_testBit, withBit_false, Nat.mul_comm, Nat.pow_one]
  unfold State.swapOutEnd
  simp only
  rw [hv]
  obtain ⟨m, l, po, me, hp⟩ := State.putPte_uncached (e := if x.ok then
    e / 2 % 2 ^ 14 * 2 + 2 ^ 16 * x.drive + 2 ^ 18 * x.lba + 2 ^ 62 + 2 ^ 63 * b2n (x.opt.testBit 1)
    else e - 2 ^ 15 * b2n (e.testBit 15)) h8 hu
  rw [hp]
  exact ⟨swapEnded_endSwap i x _ rfl rfl rfl, entryWritten_of_mem (State.endSwap_mem _ _ _ _)⟩

/-! ### Swap-in (R300, R301) -/

theorem State.swapInStart_asks {s : State} {x : Swap} {pa e : Nat} (i : Nat) (h : s.pageEntry x.asid x.vpn = some (pa, e))
    (hV : pteV e = false) (hS : pteS e = true) (hT : pteT e = false) (hd : x.dest ≠ 0)
    (ho : ownedByOther s.owned x.asid x.dest 16 = false) (h8 : pa % 8 = 0) (hu : uncached s pa 8) :
    entryWritten s (s.swapInStart i x) pa (e + 2 ^ 15) ∧ (s.swapInStart i x).swaps = s.swaps.set i
      { x with phase := 1, ptePa := pa, drive := e / 2 ^ 16 % 2 ^ 2, lba := e / 2 ^ 18 % 2 ^ 40 } := by
  obtain ⟨m, l, po, me, hp⟩ := State.putPte_uncached (e := e + 2 ^ 15) h8 hu
  have hd' : (x.dest != 0) = true := bne_iff_ne.mpr hd
  simp only [State.swapInStart, h, hV, hS, hT, ho, hd', Bool.not_true, Bool.and_false, Bool.or_self,
    Bool.false_eq_true, if_false, if_true, hp]
  exact ⟨entryWritten_of_mem rfl, rfl⟩

/-- A swap-in that fails: T and AS of the entry are clear, and no drive changes (R301). -/
theorem State.swapInFail_ends {s : State} {x : Swap} (i code : Nat) (h8 : x.ptePa % 8 = 0) (hu : uncached s x.ptePa 8) :
    let e := s.homeNat x.ptePa 8
    swapEnded s (s.swapInFail i x code) i x code ∧
      entryWritten s (s.swapInFail i x code) x.ptePa (e - 2 ^ 15 * b2n (e.testBit 15) - 2 ^ 63 * b2n (e.testBit 63)) ∧
      (s.swapInFail i x code).drives = s.drives := by
  intro e
  obtain ⟨m, l, po, me, hp⟩ := State.putPte_uncached (e := withBit (withBit e 15 false) 63 false) h8 hu
  have hv : withBit (withBit e 15 false) 63 false = e - 2 ^ 15 * b2n (e.testBit 15) - 2 ^ 63 * b2n (e.testBit 63) := by
    rw [withBit_false _ 63, testBit_withBit_15_63, withBit_false]
  unfold State.swapInFail
  simp only
  rw [hp, hv]
  obtain ⟨d, hd⟩ := State.ringBack_rest { s with
    slots := m, waits := l, poison := po, mended := me, mem := Memory.writeN s.mem x.ptePa (leBytes 8
      (e - 2 ^ 15 * b2n (e.testBit 15) - 2 ^ 63 * b2n (e.testBit 63))) } x true
  rw [hd]
  exact ⟨swapEnded_endSwap i x _ rfl rfl rfl, entryWritten_of_mem (State.endSwap_mem _ _ _ _), State.endSwap_drives _ _ _ _⟩

/-- The state in which a swap-in ends: its page's entry is written and its notice sent, and where `g` holds its record is
gone from the drive (R300, R301). -/
def State.pageIn (u : State) (x : Swap) (v : Nat) (g : Bool) (gone : Memory) : State :=
  let s4 := State.notifyPage ((u.putPte x.ptePa v).ringBack x false) x.asid x.vpn
  if g then { s4 with drives := FMap.put s4.drives x.drive gone } else s4

theorem State.pageIn_ends {u : State} {x : Swap} (i v : Nat) (g : Bool) (gone : Memory) (h8 : x.ptePa % 8 = 0)
    (hu : uncached u x.ptePa 8) :
    let t := (u.pageIn x v g gone).endSwap i x 1
    swapEnded u t i x 1 ∧ entryWritten u t x.ptePa v ∧
      t.drives = if g then FMap.put u.drives x.drive gone else u.drives := by
  obtain ⟨m, l, po, me, hp⟩ := State.putPte_uncached (e := v) h8 hu
  obtain ⟨d, hd⟩ := State.ringBack_rest { u with
    slots := m, waits := l, poison := po, mended := me, mem := Memory.writeN u.mem x.ptePa (leBytes 8 v) } x false
  have hs : u.pageIn x v g gone = State.notifyPage { u with
      slots := m, waits := l, poison := po, mended := me, mem := Memory.writeN u.mem x.ptePa (leBytes 8 v), dies := d
      drives := if g then FMap.put u.drives x.drive gone else u.drives } x.asid x.vpn := by
    unfold State.pageIn
    rw [hp, hd]
    cases g <;> rfl
  intro t
  unfold t
  rw [hs]
  exact ⟨swapEnded_endSwap i x _ rfl rfl rfl, entryWritten_of_mem (State.endSwap_mem _ _ _ _), State.endSwap_drives _ _ _ _⟩

/-! What a swap-in finds at its end: an error of the drive, a home that cannot be written, a record that is not accepted, or
a page (R300, R344). -/

theorem State.swapInEnd_error {s : State} {x : Swap} (i : Nat) (h : x.ok = false) :
    s.swapInEnd i x = s.swapInFail i x 2 := by
  simp only [State.swapInEnd, h, Bool.not_false, Bool.true_or, if_true]

theorem State.swapInEnd_lost {s : State} {x : Swap} (i : Nat)
    (h : ((List.range 16).any fun g => s.homeFenced (x.dest + 4096 * g) (pteDOM (s.homeNat x.ptePa 8))) = true) :
    s.swapInEnd i x = s.swapInFail i x 2 := by
  simp only [State.swapInEnd, h, Bool.or_true, if_true]

section
variable {s : State} {x : Swap} (i : Nat) (hok : x.ok = true)
  (hl : ((List.range 16).any fun g => s.homeFenced (x.dest + 4096 * g) (pteDOM (s.homeNat x.ptePa 8))) = false)
include hok hl

theorem State.swapInEnd_refused {code : Nat}
    (h : recordBad x.asid x.vpn (s.asidAt x.asid).key
      (Memory.readN (FMap.getD s.drives x.drive []) (4096 * x.lba) (17 * 4096)) = some code) :
    s.swapInEnd i x = s.swapInFail i x code := by
  simp only [State.swapInEnd, hok, hl, h, Bool.not_true, Bool.or_self, Bool.false_eq_true, if_false]

theorem State.swapInEnd_unopened
    (h : recordBad x.asid x.vpn (s.asidAt x.asid).key
      (Memory.readN (FMap.getD s.drives x.drive []) (4096 * x.lba) (17 * 4096)) = none)
    (ho : openRecord (s.asidAt x.asid).key
      (Memory.readN (FMap.getD s.drives x.drive []) (4096 * x.lba) (17 * 4096)) = none) :
    s.swapInEnd i x = s.swapInFail i x 3 := by
  simp only [State.swapInEnd, hok, hl, h, ho, Bool.not_true, Bool.or_self, Bool.false_eq_true, if_false]

/-- A page that comes in: its blocks are written at their home, its entry is present, and its record goes from the drive
where the request asks for that. -/
theorem State.swapInEnd_ends {kept : List (Nat × Block)}
    (h : recordBad x.asid x.vpn (s.asidAt x.asid).key
      (Memory.readN (FMap.getD s.drives x.drive []) (4096 * x.lba) (17 * 4096)) = none)
    (ho : openRecord (s.asidAt x.asid).key
      (Memory.readN (FMap.getD s.drives x.drive []) (4096 * x.lba) (17 * 4096)) = some kept)
    (hw : ownedByOther s.owned x.asid x.dest 16 = false) :
    let disk := FMap.getD s.drives x.drive []
    let r := Memory.readN disk (4096 * x.lba) (17 * 4096)
    let e := s.homeNat x.ptePa 8
    let u := (List.range 1024).foldl (fun u j =>
      u.slicePut (u.homeOf (pteDOM e) (x.dest + 64 * j)) (x.dest + 64 * j) (FMap.getD kept j emptyBlock)
        (List.replicate 64 true) (pteCK e != 0)) (s.recall x.dest (2 ^ 16))
    let n := 1 + (64 * argAt r 16 2 + 4095) / 4096
    x.ptePa % 8 = 0 → uncached u x.ptePa 8 → swapEnded u (s.swapInEnd i x) i x 1 ∧
      entryWritten u (s.swapInEnd i x) x.ptePa (e / 2 % 2 ^ 14 * 2 + 1 + x.dest + 2 ^ 63 * b2n (e.testBit 63)) ∧
      (s.swapInEnd i x).drives = if x.id ≠ 0 ∧ x.opt.testBit 0 = true then
          FMap.put u.drives x.drive (disk.filter fun y => !(4096 * x.lba ≤ y.1 && y.1 < 4096 * (x.lba + n)))
        else u.drives := by
  intro disk r e u n h8 hu
  have hv : bitsOf e 14 1 * 2 + 1 + x.dest + b2n (bitOf e 63) * 2 ^ 63 =
      e / 2 % 2 ^ 14 * 2 + 1 + x.dest + 2 ^ 63 * b2n (e.testBit 63) := by
    simp only [bitsOf, bitOf_eq_testBit, Nat.mul_comm, Nat.pow_one]
  have hg : (x.id != 0 && bitOf x.opt 0) = true ↔ x.id ≠ 0 ∧ x.opt.testBit 0 = true := by
    rw [bitOf_eq_testBit, Bool.and_eq_true, bne_iff_ne]
  have hs : s.swapInEnd i x = (u.pageIn x (e / 2 % 2 ^ 14 * 2 + 1 + x.dest + 2 ^ 63 * b2n (e.testBit 63))
      (x.id != 0 && bitOf x.opt 0) (disk.filter fun y => !(4096 * x.lba ≤ y.1 && y.1 < 4096 * (x.lba + n)))).endSwap i x 1 := by
    rw [← hv]
    simp only [State.swapInEnd, hok, hl, h, ho, hw, Bool.not_true, Bool.or_self, Bool.false_eq_true, if_false]
    rfl
  have he := State.pageIn_ends i (e / 2 % 2 ^ 14 * 2 + 1 + x.dest + 2 ^ 63 * b2n (e.testBit 63)) (x.id != 0 && bitOf x.opt 0)
    (disk.filter fun y => !(4096 * x.lba ≤ y.1 && y.1 < 4096 * (x.lba + n))) h8 hu
  simp only [hg] at he
  rw [hs]
  exact he

end

end Sys2Proof.Machine
end

section
/-!
PROOFS. The record of a page (R298): the fields of its header, and its size.
-/
namespace Sys2Proof.Machine

/-! ### Fields of a list of bytes -/

theorem argAt_here (n v : Nat) (q : List Byte) : argAt (leBytes n v ++ q) 0 n = v % 256 ^ n := by
  rw [argAt, List.drop_zero, List.take_left' (leBytes_length n v), natOfBytes_leBytes]

theorem argAt_skip (k v off n : Nat) (q : List Byte) : argAt (leBytes k v ++ q) (k + off) n = argAt q off n := by
  rw [argAt, argAt, ← List.drop_drop, List.drop_left' (leBytes_length k v)]

/-! ### The record -/

theorem padTo_length_mod {n : Nat} (hn : 0 < n) (bs : List Byte) : (padTo n bs).length % n = 0 := by
  rw [padTo, List.length_append, List.length_replicate, Nat.add_mod_mod]
  have h := Nat.mod_lt bs.length hn
  rw [← Nat.mod_add_mod, Nat.add_sub_of_le (Nat.le_of_lt h), Nat.mod_self]

/-- The blocks that a record keeps, one after another. -/
theorem keptBlocks_flatten (f : Block → Bool) (blocks : List Block) :
    (((blocks.zip (blocks.map f)).filter fun p => p.2).flatMap fun p => p.1) = (blocks.filter f).flatten := by
  induction blocks with
  | nil => rfl
  | cons b bs ih =>
    rw [List.map_cons, List.zip_cons_cons, List.filter_cons, List.filter_cons]
    cases h : f b
    · simpa using ih
    · simp [ih]

/-- The first 20 bytes of a header stand at the start of its record. -/
theorem makeRecord_header (asid vpn boot n : Nat) (desc : Bool) (key : List Byte) (blocks : List Block) :
    ∃ q, makeRecord asid vpn desc key boot n blocks =
      leBytes 4 recordMagic ++ (leBytes 2 1 ++ (leBytes 2 asid ++ (leBytes 8 vpn ++
        (leBytes 2 ((blocks.filter fun y => !(desc && Block.fmt y = fmtEMPTY)).flatten.length / 64) ++
          (leBytes 2 (b2n desc) ++ q))))) := by
  simp only [makeRecord, keptBlocks_flatten, recordHeader, padTo, List.append_assoc, List.take_append, leBytes_length]
  exact ⟨_, rfl⟩

theorem makeRecord_length_mod (asid vpn boot n : Nat) (desc : Bool) (key : List Byte) (blocks : List Block) :
    (makeRecord asid vpn desc key boot n blocks).length % 4096 = 0 := by
  unfold makeRecord
  simp only [List.length_append]
  rw [Nat.add_mod, padTo_length_mod (by decide), padTo_length_mod (by decide)]

theorem makeRecord_fields (asid vpn boot n : Nat) (desc : Bool) (key : List Byte) (blocks : List Block) :
    let kept := blocks.filter fun y => !(desc && Block.fmt y = fmtEMPTY)
    let r := makeRecord asid vpn desc key boot n blocks
    argAt r 0 4 = 0x50415753 ∧ argAt r 4 2 = 1 ∧ argAt r 6 2 = asid % 2 ^ 16 ∧ argAt r 8 8 = vpn % 2 ^ 64 ∧
      argAt r 16 2 = (kept.flatten.length / 64) % 2 ^ 16 ∧ argAt r 18 2 = b2n desc ∧ r.length % 4096 = 0 := by
  intro kept r
  have hl := makeRecord_length_mod asid vpn boot n desc key blocks
  obtain ⟨q, hq⟩ := makeRecord_header asid vpn boot n desc key blocks
  have hd : b2n desc % 256 ^ 2 = b2n desc := by cases desc <;> rfl
  refine ⟨?_, ?_, ?_, ?_, ?_, ?_, hl⟩ <;> unfold r <;> rw [hq]
  · exact argAt_here 4 _ _
  · exact (argAt_skip 4 _ 0 2 _).trans (argAt_here 2 1 _)
  · exact ((argAt_skip 4 _ 2 2 _).trans (argAt_skip 2 _ 0 2 _)).trans (argAt_here 2 asid _)
  · exact (((argAt_skip 4 _ 4 8 _).trans (argAt_skip 2 _ 2 8 _)).trans (argAt_skip 2 _ 0 8 _)).trans (argAt_here 8 vpn _)
  · exact ((((argAt_skip 4 _ 12 2 _).trans (argAt_skip 2 _ 10 2 _)).trans (argAt_skip 2 _ 8 2 _)).trans
      (argAt_skip 8 _ 0 2 _)).trans (argAt_here 2 _ _)
  · exact (((((argAt_skip 4 _ 14 2 _).trans (argAt_skip 2 _ 12 2 _)).trans (argAt_skip 2 _ 10 2 _)).trans
      (argAt_skip 8 _ 2 2 _)).trans (argAt_skip 2 _ 0 2 _)).trans ((argAt_here 2 _ _).trans hd)

end Sys2Proof.Machine
end

section
/-!
PROOFS. The copy engine (R332 to R336): the steps of a copy of bytes and of a copy to tiles.
-/
namespace Sys2Proof.Machine

/-! ### Steps of the engine -/

section
variable {s : State} {c : Copy} (hc : (s.coreAt s.ev.a).copies[s.ev.b]? = some c) (hf : c.finished = false)
include hc hf

theorem exec_copyArrival (ho : c.over = false) :
    exec .copyArrival s = .next (if c.kind = 0 then s.cpyStep s.ev.a s.ev.b c else s.rowStep s.ev.a s.ev.b c) := by
  show Host.Outcome.next (s.copyStep s.ev.a s.ev.b) = _
  simp only [State.copyStep, hc, hf, ho, Bool.or_self, Bool.false_eq_true, if_false]

/-- A copy that has moved all and has no message to post ends (R332). -/
theorem exec_copyCompletion (ho : c.over = true) (hn : c.notify = false) (hs : c.status = 0) :
    exec .copyCompletion s = .next ((s.setCopy s.ev.a s.ev.b { c with finished := true }).serveCopy s.ev.a) := by
  show Host.Outcome.next (s.completeCopy s.ev.a s.ev.b) = _
  simp only [State.completeCopy, hc, hf, ho, hn, hs, Bool.not_true, Bool.or_self, Bool.false_and, bne_self_eq_false,
    Bool.false_eq_true, if_false]

end

/-! ### A chunk of bytes (R333, R336) -/

theorem State.failCopy_trap (s : State) (core i : Nat) (c : Copy) (page prot cause acc : Nat) (v : Word) :
    s.failCopy core i c (copyFail page prot (.trap cause acc v)) =
      s.setCopy core i { c with status := if cause = 3 then page else prot } := rfl

section
variable {s : State} {core i : Nat} {c : Copy} (hr : c.toRead ≠ 0)
include hr

theorem State.cpyStep_source_trap {cause acc : Nat} {v : Word} {s1 : State}
    (h : s.copyResolve c 0 ((c.src + c.done + c.ahead.length) % 2 ^ 64) c.toRead = .stop (.trap cause acc v) s1) :
    s.cpyStep core i c = s1.setCopy core i { c with status := if cause = 3 then 1 else 3 } := by
  simp only [State.cpyStep, hr, if_false, accRead, h, State.failCopy_trap]

theorem State.cpyStep_source_poison {cs : List Chunk} {s1 s2 : State}
    (h : s.copyResolve c 0 ((c.src + c.done + c.ahead.length) % 2 ^ 64) c.toRead = .ok cs s1)
    (hp : s1.pointReads core cs = (none, s2)) : s.cpyStep core i c = s2.setCopy core i { c with status := 6 } := by
  simp only [State.cpyStep, hr, if_false, accRead, h, hp, State.failCopy]

theorem State.cpyStep_dest_trap {cs : List Chunk} {s1 s2 s3 : State} {new : List Byte} {cause acc : Nat} {v : Word}
    (h : s.copyResolve c 0 ((c.src + c.done + c.ahead.length) % 2 ^ 64) c.toRead = .ok cs s1)
    (hp : s1.pointReads core cs = (some new, s2))
    (hd : s2.copyResolve c 1 ((c.dst + c.done) % 2 ^ 64) c.chunk = .stop (.trap cause acc v) s3) :
    s.cpyStep core i c = s3.setCopy core i { c with status := if cause = 3 then 2 else 4 } := by
  simp only [State.cpyStep, hr, if_false, accRead, accWrite, h, hp, hd, State.failCopy_trap]

/-- A chunk whose source and destination can be reached moves. -/
theorem State.cpyStep_moves {cs ds : List Chunk} {s1 s2 s3 : State} {new : List Byte}
    (h : s.copyResolve c 0 ((c.src + c.done + c.ahead.length) % 2 ^ 64) c.toRead = .ok cs s1)
    (hp : s1.pointReads core cs = (some new, s2))
    (hd : s2.copyResolve c 1 ((c.dst + c.done) % 2 ^ 64) c.chunk = .ok ds s3)
    (hl : ∀ d ∈ ds, s3.locFenced d.loc = false)
    (ha : ∀ d ∈ ds, d.loc.described = true → c.dst % 64 = 0 ∧ c.len % 64 = 0) (hb : c.bar = false) :
    s.cpyStep core i c = (s3.pointWrites core c.lid ds ((c.ahead ++ new).take c.chunk)).setCopy core i { c with
      done := c.done + c.chunk, ahead := (c.ahead ++ new).drop c.chunk, bytes := c.bytes + c.chunk
      ranges := c.ranges ++ keyParts ds } := by
  have hl' : (ds.any fun d => s3.locFenced d.loc) = false := by
    rw [List.any_eq_false]
    exact fun d hd => ne_true_of_eq_false (hl d hd)
  have ha' : ((ds.any fun d => d.loc.described) && (c.dst % 64 != 0 || c.len % 64 != 0)) = false := by
    rw [Bool.and_eq_false_iff]
    by_cases he : ∃ d ∈ ds, d.loc.described = true
    · obtain ⟨d, hm, hd⟩ := he
      obtain ⟨h1, h2⟩ := ha d hm hd
      right
      rw [h1, h2]
      rfl
    · left
      rw [List.any_eq_false]
      exact fun d hm hd => he ⟨d, hm, hd⟩
  simp only [State.cpyStep, hr, if_false, accRead, accWrite, h, hp, hd, hl', ha', Bool.false_eq_true, State.countBar, hb]

end

/-! ### A row of a tile (R334, R335) -/

/-- A core with a row written to one of its tiles. -/
def Core.putRow (k : Core) (st done : Nat) (row : List Byte) : Core :=
  match FMap.find k.tas st with
  | none => k
  | some t => { k with tas := FMap.put k.tas st { t with data := Memory.writeN t.data (128 * done) row } }

theorem Core.putRow_find (k : Core) (st done : Nat) (row : List Byte) (q : Nat) :
    FMap.find (k.putRow st done row).tas q = if q = st then
      (FMap.find k.tas st).map fun t => { t with data := Memory.writeN t.data (128 * done) row }
    else FMap.find k.tas q := by
  unfold Core.putRow
  split
  · next h =>
    split
    · next hq => rw [hq, h]; rfl
    · rfl
  · next t h =>
    simp only [FMap.find_put, h, Option.map_some]

theorem State.writeRow_plain {c : Copy} (s : State) (row : List Byte) (hb : c.bar = false) :
    s.writeRow c row = c.recv.foldl (fun s r => s.modCore r.1 fun k => k.putRow r.2 c.done row) s := by
  simp only [State.writeRow, State.countBar, hb, Bool.false_eq_true, if_false]
  rfl

/-- A row goes to one tile of one core. -/
theorem State.modCore_putRow_find (s : State) (q r : Nat × Nat) (done : Nat) (row : List Byte) :
    FMap.find ((s.modCore q.1 fun k => k.putRow q.2 done row).coreAt r.1).tas r.2 = if r = q then
      (FMap.find (s.coreAt r.1).tas r.2).map fun t => { t with data := Memory.writeN t.data (128 * done) row }
    else FMap.find (s.coreAt r.1).tas r.2 := by
  rw [State.modCore_eq, State.coreAt_setCore]
  by_cases h1 : r.1 = q.1
  · rw [if_pos h1, Core.putRow_find, h1]
    by_cases h2 : r.2 = q.2
    · rw [if_pos h2, if_pos (Prod.ext h1 h2), h2]
    · rw [if_neg h2, if_neg fun h => h2 (congrArg Prod.snd h)]
  · rw [if_neg h1, if_neg fun h => h1 (congrArg Prod.fst h)]

theorem State.foldl_putRow_other (l : List (Nat × Nat)) (s : State) (r : Nat × Nat) (done : Nat) (row : List Byte)
    (h : r ∉ l) : FMap.find ((l.foldl (fun s r => s.modCore r.1 fun k => k.putRow r.2 done row) s).coreAt r.1).tas r.2 =
      FMap.find (s.coreAt r.1).tas r.2 := by
  induction l generalizing s with
  | nil => rfl
  | cons q l ih =>
    rw [List.foldl_cons, ih _ fun hm => h (List.mem_cons_of_mem _ hm), State.modCore_putRow_find,
      if_neg fun hq : r = q => h (hq ▸ List.mem_cons_self)]

/-- Every one of some tiles that are named once takes the row. -/
theorem State.foldl_putRow_mem (l : List (Nat × Nat)) (s : State) (r : Nat × Nat) (done : Nat) (row : List Byte)
    (hn : l.Nodup) (h : r ∈ l) :
    FMap.find ((l.foldl (fun s r => s.modCore r.1 fun k => k.putRow r.2 done row) s).coreAt r.1).tas r.2 =
      (FMap.find (s.coreAt r.1).tas r.2).map fun t => { t with data := Memory.writeN t.data (128 * done) row } := by
  induction l generalizing s with
  | nil => cases h
  | cons q l ih =>
    obtain ⟨hq, hl⟩ := List.nodup_cons.mp hn
    rw [List.foldl_cons]
    rcases List.mem_cons.mp h with rfl | hm
    · rw [State.foldl_putRow_other _ _ _ _ _ hq, State.modCore_putRow_find, if_pos rfl]
    · rw [ih _ hl hm, State.modCore_putRow_find, if_neg fun hr : r = q => hq (hr ▸ hm)]

theorem State.setCopy_tas (s : State) (core i : Nat) (c : Copy) (k : Nat) :
    ((s.setCopy core i c).coreAt k).tas = (s.coreAt k).tas := by
  rw [State.setCopy, State.modCore_eq, State.coreAt_setCore]
  split
  · next h => rw [h]
  · rfl

/-- What the receivers of a row are: those that could be written when the first row arrived. -/
def State.rowReceivers (s : State) (c : Copy) : State × Copy := if c.done = 0 then s.openReceivers c else (s, c)

theorem State.rowStep_writes {s s1 s2 : State} {core i : Nat} {c : Copy} {cs : List Chunk} {row : List Byte}
    (h : s.copyResolve c 0 (((c.src : Int) + c.done * c.stride) % 2 ^ 64).toNat 128 = .ok cs s1)
    (hp : s1.pointReads core cs = (some row, s2)) :
    let p := s2.rowReceivers c
    s.rowStep core i c =
      (p.1.setCopy core i { p.2 with done := p.2.done + 1, bytes := p.2.bytes + 128 * p.2.recv.length }).writeRow p.2 row := by
  simp only [State.rowStep, accRead, h, hp, State.rowReceivers]

theorem State.rowReceivers_later {s : State} {c : Copy} (h : c.done ≠ 0) : s.rowReceivers c = (s, c) := if_neg h

/-- The first row of a cpyt whose tile can be written: the tile takes its tag and a zero sideband (R334). -/
theorem State.rowReceivers_open {s : State} {c : Copy} {st : Nat} {y : Tile} (hd : c.done = 0) (hk : c.kind = 1)
    (ht : c.tile < (s.slotAt c.tid).tcount) (hh : s.tileHeld c.tid c.tile = false)
    (hm : FMap.find (s.slotAt c.tid).tmap c.tile = some st) (hy : FMap.find (s.coreAt (c.tid / 16)).tas st = some y) :
    s.rowReceivers c = (s.modCore (c.tid / 16) fun k =>
      { k with tas := FMap.put k.tas st { y with tag := c.tileTag, side := [] } }, { c with recv := [(c.tid / 16, st)] }) := by
  have hg : FMap.getD (s.slotAt c.tid).tmap c.tile 64 = st := by rw [FMap.getD, hm]; rfl
  have hy' : s.tile c.tid c.tile = y := by rw [State.tile, hg, FMap.getD, coreOf, hy]; rfl
  have hf : (c.receivers.filter fun r => decide (c.tile < (s.slotAt r.1).tcount) && !s.tileHeld r.1 c.tile) = [(c.tid, 0)] := by
    simp only [Copy.receivers, hk, if_true, List.filter_cons, List.filter_nil, ht, hh, decide_true, Bool.not_false,
      Bool.and_self]
  have hl : c.receivers.length = 1 := by simp only [Copy.receivers, hk, if_true, List.length_singleton]
  simp only [State.rowReceivers, hd, if_true, State.openReceivers, hf, hl, List.foldl_cons, List.foldl_nil, List.map_cons,
    List.map_nil, List.length_singleton, Nat.lt_irrefl, if_false, hg, coreOf, hy', State.setTile, hm]

/-- The first row of a cpyt whose tile is outside the window: no receiver, and status 7 (R336). -/
theorem State.rowReceivers_closed {s : State} {c : Copy} (hd : c.done = 0) (hk : c.kind = 1)
    (ht : (s.slotAt c.tid).tcount ≤ c.tile) : s.rowReceivers c = (s, { c with recv := [], status := 7 }) := by
  have hf : (c.receivers.filter fun r => decide (c.tile < (s.slotAt r.1).tcount) && !s.tileHeld r.1 c.tile) = [] := by
    simp only [Copy.receivers, hk, if_true, List.filter_cons, List.filter_nil, Nat.not_lt.mpr ht, decide_false,
      Bool.false_and, Bool.false_eq_true, if_false]
  have hl : c.receivers.length = 1 := by simp only [Copy.receivers, hk, if_true, List.length_singleton]
  simp only [State.rowReceivers, hd, if_true, State.openReceivers, hf, hl, List.foldl_nil, List.map_nil, List.length_nil,
    Nat.zero_lt_one]

section
variable {s s1 s2 : State} {core i : Nat} {c : Copy} {cs : List Chunk} {row : List Byte}
  (h : s.copyResolve c 0 (((c.src : Int) + c.done * c.stride) % 2 ^ 64).toNat 128 = .ok cs s1)
  (hp : s1.pointReads core cs = (some row, s2))
include h hp

/-- Every receiver's tile takes the row. -/
theorem State.rowStep_tile {u : State} {c' : Copy} (hu : s2.rowReceivers c = (u, c')) (hb : c'.bar = false)
    (hn : c'.recv.Nodup) {r : Nat × Nat} (hr : r ∈ c'.recv) :
    FMap.find ((s.rowStep core i c).coreAt r.1).tas r.2 =
      (FMap.find (u.coreAt r.1).tas r.2).map fun t => { t with data := Memory.writeN t.data (128 * c'.done) row } := by
  rw [State.rowStep_writes h hp, hu, State.writeRow_plain _ _ hb, State.foldl_putRow_mem _ _ _ _ _ hn hr, State.setCopy_tas]

theorem State.rowStep_first {st : Nat} {y : Tile} (hb : c.bar = false) (hd : c.done = 0) (hk : c.kind = 1)
    (ht : c.tile < (s2.slotAt c.tid).tcount) (hh : s2.tileHeld c.tid c.tile = false)
    (hm : FMap.find (s2.slotAt c.tid).tmap c.tile = some st) (hy : FMap.find (s2.coreAt (c.tid / 16)).tas st = some y) :
    FMap.find ((s.rowStep core i c).coreAt (c.tid / 16)).tas st =
      some { y with tag := c.tileTag, side := [], data := Memory.writeN y.data 0 row } := by
  refine (State.rowStep_tile h hp (State.rowReceivers_open hd hk ht hh hm hy) hb (List.nodup_cons.mpr ⟨List.not_mem_nil, List.nodup_nil⟩)
    (List.mem_singleton_self _)).trans ?_
  rw [State.modCore_eq, State.coreAt_setCore_same, FMap.find_put_same, hd]
  rfl

theorem State.rowStep_later (hb : c.bar = false) (hd : c.done ≠ 0) (hn : c.recv.Nodup) {r : Nat × Nat} (hr : r ∈ c.recv)
    {y : Tile} (hy : FMap.find (s2.coreAt r.1).tas r.2 = some y) :
    FMap.find ((s.rowStep core i c).coreAt r.1).tas r.2 =
      some { y with data := Memory.writeN y.data (128 * c.done) row } := by
  rw [State.rowStep_tile h hp (State.rowReceivers_later hd) hb hn hr, hy]
  rfl

theorem State.rowStep_closed (hb : c.bar = false) (hd : c.done = 0) (hk : c.kind = 1)
    (ht : (s2.slotAt c.tid).tcount ≤ c.tile) {st : Copy}
    (hst : ((s.rowStep core i c).coreAt core).copies[i]? = some st) : st.status = 7 ∧ st.recv = [] := by
  have hu := State.rowStep_writes (core := core) (i := i) h hp
  rw [State.rowReceivers_closed hd hk ht] at hu
  rw [hu.trans (State.writeRow_plain (c := { c with recv := [], status := 7 }) _ _ hb)] at hst
  simp only [List.foldl_nil, State.setCopy, State.modCore_eq, State.coreAt_setCore_same, List.getElem?_set, if_true] at hst
  split at hst
  · obtain rfl := Option.some.inj hst
    exact ⟨rfl, rfl⟩
  · cases hst

end

end Sys2Proof.Machine
end

section
/-!
PROOFS. Points of serialisation (R15, R283 to R285, R290, R333): what the copy engine reads and writes in an SRAM and at a
home slice that has the line or takes it in.
-/
namespace Sys2Proof.Machine

/-! ### Lines of one slice -/

theorem State.sliceByte_eq (s : State) (h q : Nat) : s.sliceByte h q =
    ((FMap.find (s.homeAt h).cache (q / 64 * 64)).map fun l => l.bytes.getD (q % 64) 0).getD (Memory.read s.mem q) := rfl

theorem State.hbmLine_getD (s : State) (base i : Nat) (h : i < 64) :
    (s.hbmLine base).bytes.getD i 0 = Memory.read s.mem (base + i) := by
  rw [List.getD_eq_getElem?_getD, State.hbmLine, Memory.readN_getElem?, if_pos h]
  rfl

/-- A slice that has room takes in a line as HBM has it. -/
theorem State.lineIn_eq {s : State} {h base : Nat} (hn : FMap.find (s.homeAt h).cache base = none)
    (hl : (s.homeAt h).cache.length < homeLines) :
    s.lineIn h base = s.modHome h fun x => { x with cache := FMap.put x.cache base (s.hbmLine base) } := by
  simp only [State.lineIn, hn, State.lineRoom, hl, if_true]

theorem State.lineIn_held {s : State} {h base : Nat} {l : HomeLine} (hf : FMap.find (s.homeAt h).cache base = some l) :
    s.lineIn h base = s := by
  simp only [State.lineIn, hf]

section
variable {s : State} {h pa : Nat} (hr : lineReady s h pa)
include hr

/-- Taking a line in changes the homes only. -/
theorem State.lineIn_rest : ∃ hs, s.lineIn h (pa / 64 * 64) = { s with homes := hs } := by
  cases hf : FMap.find (s.homeAt h).cache (pa / 64 * 64) with
  | none => exact ⟨_, State.lineIn_eq hf (hr.2 hf)⟩
  | some l => exact ⟨s.homes, State.lineIn_held hf⟩

/-- The slice has the line then, whole. -/
theorem State.lineIn_find :
    ∃ l, FMap.find ((s.lineIn h (pa / 64 * 64)).homeAt h).cache (pa / 64 * 64) = some l ∧ l.bytes.length = 64 := by
  cases hf : FMap.find (s.homeAt h).cache (pa / 64 * 64) with
  | none =>
    rw [State.lineIn_eq hf (hr.2 hf), State.homeAt_modHome, if_pos rfl]
    exact ⟨_, FMap.find_put_same _ _ _, Memory.readN_length _ _ _⟩
  | some l =>
    rw [State.lineIn_held hf]
    exact ⟨l, hf, hr.1 l hf⟩

/-- Every byte of the slice is as before. -/
theorem State.lineIn_sliceByte (q : Nat) : (s.lineIn h (pa / 64 * 64)).sliceByte h q = s.sliceByte h q := by
  cases hf : FMap.find (s.homeAt h).cache (pa / 64 * 64) with
  | none =>
    rw [State.lineIn_eq hf (hr.2 hf), State.sliceByte_eq, State.sliceByte_eq, State.homeAt_modHome, if_pos rfl,
      State.modHome_mem, FMap.find_put]
    by_cases hq : q / 64 * 64 = pa / 64 * 64
    · rw [if_pos hq, hq, hf, Option.map_some, Option.getD_some, State.hbmLine_getD _ _ _ (Nat.mod_lt _ (by decide)), ← hq,
        Nat.div_add_mod']
      rfl
    · rw [if_neg hq]
  | some l => rw [State.lineIn_held hf]

end

/-! ### The home of a line -/

theorem State.homeOf_congr (s : State) (dom : Nat) {a b : Nat} (h : a / 4096 = b / 4096) : s.homeOf dom a = s.homeOf dom b := by
  simp only [State.homeOf, State.homeUnder, State.storeOf, h]

/-! ### A core with nothing under way -/

section
variable {s : State} {core : Nat} (hn : nothingOut s core)
include hn

theorem State.servePlace_nothing (loc : Loc) : s.servePlace core loc = s := by
  simp only [State.servePlace, hn.1, List.any_nil, Bool.false_eq_true, if_false]

theorem State.orderBefore_nothing (dom pa : Nat) : s.orderBefore core dom pa = s := by
  simp only [State.orderBefore, hn.1, hn.2, List.isEmpty_nil, Bool.and_self, if_true]

theorem State.pointRead_sram (q off va n : Nat) : s.pointRead core { loc := .sram q off, len := n, va := va } =
    (some (Memory.readN (s.cluAt q).sram off n), s) := by
  simp only [State.pointRead, State.servePlace_nothing hn]

theorem State.pointWrite_sram (lid q off : Nat) (bs : List Byte) (j y : Nat) :
    Memory.read ((s.pointWrite core lid (.sram q off) bs).cluAt j).sram y =
      if j = q ∧ off ≤ y ∧ y < off + bs.length then bs.getD (y - off) 0 else Memory.read (s.cluAt j).sram y := by
  simp only [State.pointWrite, State.servePlace_nothing hn, State.modClu, State.cluAt_setClu]
  by_cases hj : j = q
  · rw [if_pos hj, Memory.read_writeN, hj]
    simp only [true_and]
  · rw [if_neg hj, if_neg fun h => hj h.1]

/-- A read at a home slice gives the bytes that the slice has, and changes no byte of memory. -/
theorem State.pointRead_phys {pa ck g dom va n : Nat} (hck : ck ≠ 0) (h0 : n ≠ 0) (hl : pa % 64 + n ≤ 64)
    (hr : lineReady s (s.homeOf dom pa) pa) (hp : s.homePoisoned pa n dom = false) :
    ∃ s1, s.pointRead core { loc := .phys pa ck g false dom, len := n, va := va } =
      (some (s.sliceSee (s.homeOf dom pa) pa n), s1) ∧ bytesKept s s1 := by
  have hh : s.homeHold core dom pa n = s.lineIn (s.homeOf dom pa) (pa / 64 * 64) := by
    simp only [State.homeHold, lineBases_single (Nat.pos_of_ne_zero h0) hl, List.foldl_cons, List.foldl_nil,
      State.orderBefore_nothing hn, State.sliceHold,
      lineBases_single (pa := pa / 64 * 64) (n := 64) (by decide) (by omega),
      s.homeOf_congr dom (show pa / 64 * 64 / 4096 = pa / 4096 by omega),
      show pa / 64 * 64 / 64 * 64 = pa / 64 * 64 by omega]
  obtain ⟨hs, he⟩ := State.lineIn_rest hr
  have hsee : (s.lineIn (s.homeOf dom pa) (pa / 64 * 64)).homeSee dom pa n = s.sliceSee (s.homeOf dom pa) pa n := by
    refine List.map_congr_left fun i hi => ?_
    have hi := List.mem_range.mp hi
    have ho : (s.lineIn (s.homeOf dom pa) (pa / 64 * 64)).homeOf dom (pa + i) = s.homeOf dom pa := by
      rw [he]
      exact s.homeOf_congr dom (by omega)
    rw [ho, State.lineIn_sliceByte hr]
  have hpo : (s.lineIn (s.homeOf dom pa) (pa / 64 * 64)).homePoisoned pa n dom = false := by
    rw [he]
    exact hp
  refine ⟨s.lineIn (s.homeOf dom pa) (pa / 64 * 64), ?_, ?_⟩
  · simp only [State.pointRead, hck, if_false, hh, hsee, hpo, Bool.false_and, Bool.or_self, Bool.false_eq_true]
  · rw [he]
    exact ⟨fun _ => rfl, fun _ _ => rfl, fun _ _ => rfl, fun _ _ => rfl⟩

end

/-! ### A write to one line -/

theorem mergeBytes_all (os ns : List Byte) (h : ns.length ≤ os.length) :
    mergeBytes os ns (List.replicate ns.length true) = ns ++ os.drop ns.length := by
  induction ns generalizing os with
  | nil => cases os <;> rfl
  | cons n ns ih =>
    cases os with
    | nil => simp at h
    | cons o os =>
      rw [List.length_cons, List.replicate_succ, mergeBytes, ih os (by simpa using h), if_pos rfl]
      rfl

/-- A line into which all of some bytes are written, from offset k on. -/
theorem HomeLine.put_getD {l : HomeLine} {pa : Nat} {bs : List Byte} (hl : l.bytes.length = 64) (h : pa % 64 + bs.length ≤ 64)
    (i : Nat) :
    (l.put (pa / 64 * 64) pa bs (List.replicate bs.length true)).bytes.getD i 0 =
      if pa % 64 ≤ i ∧ i < pa % 64 + bs.length then bs.getD (i - pa % 64) 0 else l.bytes.getD i 0 := by
  have hm : max pa (pa / 64 * 64) = pa := by omega
  have hk : pa - pa / 64 * 64 = pa % 64 := by omega
  have hd : (l.bytes.drop (pa % 64)).length = 64 - pa % 64 := by rw [List.length_drop, hl]
  simp only [HomeLine.put, hm, hk, Nat.sub_self, List.drop_zero]
  rw [List.take_of_length_le (l := bs) (by omega),
    List.take_of_length_le (l := List.replicate bs.length true) (by rw [List.length_replicate]; omega),
    mergeBytes_all _ _ (by omega)]
  simp only [List.getD_eq_getElem?_getD, List.getElem?_append, List.length_take, hl, List.getElem?_take, List.getElem?_drop]
  by_cases h1 : i < pa % 64
  · rw [if_pos (by omega), if_pos h1, if_neg (by omega)]
  · rw [if_neg (by omega)]
    by_cases h2 : i < pa % 64 + bs.length
    · rw [if_pos (by omega), if_pos (by omega), show min (pa % 64) 64 = pa % 64 by omega]
    · rw [if_neg (by omega), if_neg (by omega), show pa % 64 + (bs.length + (i - min (pa % 64) 64 - bs.length)) = i by omega]

theorem State.heal_sliceByte (s : State) (pa : Nat) (mask : List Bool) (h y : Nat) :
    (s.heal pa mask).sliceByte h y = s.sliceByte h y := by
  obtain ⟨po, me, he⟩ := s.heal_rest pa mask
  rw [he]
  rfl

theorem State.wakeBlocks_sliceByte (s : State) (pa n : Nat) (f : Nat → Byte) (h y : Nat) :
    (s.wakeBlocks pa n f).sliceByte h y = s.sliceByte h y := by
  obtain ⟨m, l, hw⟩ := s.wakeBlocks_onlyWakes pa n f
  rw [hw]
  rfl

/-- Tags that heal and slots that wake leave the bytes of a write as its lines have them. -/
theorem State.slicePut_sliceByte (s : State) (h pa : Nat) (bs : List Byte) (mask : List Bool) (h' y : Nat) :
    (s.slicePut h pa bs mask).sliceByte h' y =
      ((lineBases pa bs.length).foldl (fun s b => (s.lineIn h b).linePut h pa bs mask b) s).sliceByte h' y :=
  (State.wakeBlocks_sliceByte _ _ _ _ _ _).trans (State.heal_sliceByte _ _ _ _ _)

/-- What a write of one line leaves at its slice. -/
theorem State.slicePut_line {s : State} {h pa : Nat} {bs : List Byte} (hb : bs ≠ []) (hl : pa % 64 + bs.length ≤ 64)
    (hr : lineReady s h pa) {y : Nat} (hy : y / 64 = pa / 64) :
    (s.slicePut h pa bs (List.replicate bs.length true)).sliceByte h y =
      if pa ≤ y ∧ y < pa + bs.length then bs.getD (y - pa) 0 else s.sliceByte h y := by
  obtain ⟨l, hf, h64⟩ := State.lineIn_find hr
  obtain ⟨hs, he⟩ := State.lineIn_rest hr
  have hlp : (s.lineIn h (pa / 64 * 64)).linePut h pa bs (List.replicate bs.length true) (pa / 64 * 64) =
      (s.lineIn h (pa / 64 * 64)).modHome h fun x =>
        { x with cache := FMap.put x.cache (pa / 64 * 64) (l.put (pa / 64 * 64) pa bs (List.replicate bs.length true)) } := by
    simp only [State.linePut, hf]
  have hin := State.lineIn_sliceByte hr y
  rw [State.sliceByte_eq, hy, hf, Option.map_some, Option.getD_some] at hin
  rw [State.slicePut_sliceByte, lineBases_single (List.length_pos_iff.mpr hb) hl, List.foldl_cons, List.foldl_nil, hlp,
    State.sliceByte_eq, hy, State.homeAt_modHome, if_pos rfl, FMap.find_put_same, Option.map_some, Option.getD_some,
    HomeLine.put_getD h64 hl, hin]
  by_cases hp : pa ≤ y ∧ y < pa + bs.length
  · rw [if_pos hp, if_pos (by omega), show y % 64 - pa % 64 = y - pa by omega]
  · rw [if_neg hp, if_neg (by omega)]

/-- A write of the copy engine to one line: its bytes at the line's home, and the line's other bytes as before. -/
theorem State.pointWrite_phys {s : State} {core : Nat} (hn : nothingOut s core) (lid : Nat) {pa ck dom : Nat} (g : Nat)
    (d : Bool) {bs : List Byte} (hck : ck ≠ 0) (hb : bs ≠ []) (hl : pa % 64 + bs.length ≤ 64)
    (hr : lineReady s (s.homeOf dom pa) pa) {y : Nat} (hy : y / 64 = pa / 64) :
    (s.pointWrite core lid (.phys pa ck g d dom) bs).sliceByte (s.homeOf dom pa) y =
      if pa ≤ y ∧ y < pa + bs.length then bs.getD (y - pa) 0 else s.sliceByte (s.homeOf dom pa) y := by
  have hp : pieceOf 6 pa bs (pa / 64 * 64) = (pa, bs) := by
    rw [pieceOf, show max pa (pa / 64 * 64) = pa by omega, Nat.sub_self, List.drop_zero,
      List.take_of_length_le (by omega)]
  simp only [State.pointWrite, hck, if_false, lineBases_single (List.length_pos_iff.mpr hb) hl, List.foldl_cons,
    List.foldl_nil, State.orderBefore_nothing hn, hp, s.homeOf_congr dom (show pa / 64 * 64 / 4096 = pa / 4096 by omega)]
  exact State.slicePut_line hb hl hr hy

end Sys2Proof.Machine
end

section
/-!
PROOFS. Streams (R195, R325), the requests of a core to its homes (R293, R348, R360, R366, R369), write-backs and the
directory (R283 to R285, R291).
-/
namespace Sys2Proof.Machine

/-! ### Wide queue, store buffer, page notices (R167, R195, R387) -/

theorem exec_wideCompletion {s : State} {e : WideEntry} {r : List WideEntry} (h : (s.coreAt s.ev.a).wideq = e :: r) :
    exec .wideCompletion s = .next ((s.modCore s.ev.a fun c => { c with wideq := r }).completeWide e) := by
  show Host.Outcome.next (s.stepWide s.ev.a) = _
  simp only [State.stepWide, h]

theorem exec_storeBufferLeave {s : State} {e : SBEntry} (h : (s.coreAt s.ev.a).storeBuf[s.ev.b]? = some e)
    (hm : s.mayLeave s.ev.a s.ev.b = true) : exec .storeBufferLeave s =
      .next ((s.modCore s.ev.a fun c => { c with
        storeBuf := c.storeBuf.take s.ev.b ++ c.storeBuf.drop (s.ev.b + 1) }).performStore s.ev.a e.lid e.loc e.bytes) := by
  show Host.Outcome.next (if s.mayLeave s.ev.a s.ev.b then s.leaveAt s.ev.a s.ev.b else s) = _
  simp only [hm, if_true, State.leaveAt, h, dropIdx]

theorem exec_pageNotice {s : State} (h : s.notices.contains (s.ev.a, s.ev.b, s.ev.v.toNat) = true) :
    exec .pageNotice s = .next (s.pageNotice s.ev.a s.ev.b s.ev.v.toNat) := by
  show Host.Outcome.next (if s.notices.contains (s.ev.a, s.ev.b, s.ev.v.toNat) then _ else s) = _
  rw [if_pos h]

/-! ### Streams (R325) -/

theorem State.streamMoved_stream (s : State) (core e : Nat) (x : Stream) :
    FMap.find (((s.putStream core e x).streamMoved core e).coreAt core).streams e = some x := by
  obtain ⟨m, l, h⟩ := (s.putStream core e x).streamMoved_onlyWakes core e
  rw [h]
  show FMap.find ((s.putStream core e x).coreAt core).streams e = some x
  rw [State.putStream, State.modCore_eq, State.coreAt_setCore_same]
  exact FMap.find_put_same _ _ _

/-- The elements that an engine keeps of a vector, by lane. -/
theorem mem_rawElems {α : Type} (els : List (Option α)) (j : Nat) (e : α) :
    (j, e) ∈ (els.zipIdx.filterMap fun o => o.1.map fun e => (o.2, e)) ↔ els[j]? = some (some e) := by
  rw [List.mem_filterMap]
  constructor
  · rintro ⟨⟨x, i⟩, hm, he⟩
    obtain ⟨y, hy, hp⟩ := Option.map_eq_some_iff.mp he
    obtain ⟨rfl, rfl⟩ := Prod.mk.inj hp
    rw [List.mem_zipIdx_iff_getElem?] at hm
    exact hm.trans (congrArg some hy)
  · exact fun h => ⟨(some e, j), List.mem_zipIdx_iff_getElem?.mpr h, rfl⟩

section
variable {s : State} {st : Stream} (hs : FMap.find (s.coreAt s.ev.a).streams s.ev.b = some st)
include hs

/-- A read stream with room takes in its next vector, the elements as they are in memory (log 78). -/
theorem exec_streamFetch (hl : st.buf.length < 8) (hd : st.rcd.dir = 0) {els : List (Option SElem)} {s1 : State}
    (h : Run.mapList (fun j s => s.fetchElem st.tid st.rcd (st.pos + j)) (List.range 32) s = .ok els s1) :
    ∃ t v, exec .streamFetch s = .next t ∧ FMap.find (t.coreAt s.ev.a).streams s.ev.b = some { st with
        pos := st.pos + 32, buf := st.buf ++ [v], fault := none, told := false, waiting := none } ∧
      v.lanes = [] ∧ ∀ j e, (j, e) ∈ v.raw ↔ els[j]? = some (some e) := by
  have hc : (st.rcd.dir != 0 || decide (8 ≤ st.buf.length)) = false := by
    rw [hd, decide_eq_false (Nat.not_le.mpr hl)]
    rfl
  refine ⟨s.streamFetch s.ev.a s.ev.b, { lanes := [], cls := (s1.slotAt st.tid).vclass, raw := _ }, rfl, ?_, rfl,
    mem_rawElems els⟩
  simp only [State.streamFetch, hs, hc, Bool.false_eq_true, if_false, h]
  exact State.streamMoved_stream _ _ _ _

/-- A plain write stream has written its oldest vector. -/
theorem exec_streamWrite (hd : st.rcd.dir = 1) (hp : st.rcd.desc = false) {v : SVec} {r : List SVec} {fl : Flags} {s1 : State}
    (hb : st.buf = v :: r) (h : s.writePlain st v (min 32 (st.rcd.total - st.pos)) = .ok fl s1) :
    ∃ t, exec .streamWrite s = .next t ∧ FMap.find (t.coreAt s.ev.a).streams s.ev.b = some { st with
      pos := st.pos + min 32 (st.rcd.total - st.pos), buf := r, fault := none, told := false, waiting := none } := by
  refine ⟨s.streamWrite s.ev.a s.ev.b, rfl, ?_⟩
  simp only [State.streamWrite, hs, hb, hd, hp, h, bne_self_eq_false, Bool.false_eq_true, if_false]
  exact State.streamMoved_stream (s1.orFlags st.tid fl) s.ev.a s.ev.b _

end

/-! ### Requests of a core (R15, R292, R293, R348, R360) -/

theorem Core.oldestTo_out {k : Core} {p i : Nat} {r : HomeReq} (h : k.oldestTo p = some (i, r)) : k.out[i]? = some r := by
  unfold Core.oldestTo at h
  split at h
  · next j hj =>
    obtain ⟨q, hq, he⟩ := Option.map_eq_some_iff.mp h
    obtain ⟨rfl, rfl⟩ := Prod.mk.inj he
    exact hq
  · cases h

theorem exec_accumulateRequest {s : State} {i : Nat} {r : AccReq}
    (h : (s.coreAt s.ev.a).oldestTo s.ev.b = some (i, .acc r)) :
    exec .accumulateRequest s = .next (s.arriveAt s.ev.a i) := by
  show Host.Outcome.next (s.serveOldest s.ev.a s.ev.b false) = _
  simp only [State.serveOldest, h, Bool.false_eq_true, if_false, State.serveAt, Core.oldestTo_out h]

theorem exec_atomicRequest {s : State} {i : Nat} {r : AmoReq} (h : (s.coreAt s.ev.a).oldestTo s.ev.b = some (i, .amo r))
    (hr : s.relReady s.ev.a r = true) : exec .atomicRequest s = .next (s.serveAt s.ev.a i) := by
  show Host.Outcome.next (s.serveOldest s.ev.a s.ev.b true) = _
  simp only [State.serveOldest, h, hr, Bool.and_self, if_true]

theorem exec_accumulateAnswer {s : State} {i : Nat} {r : AccAns}
    (h : ((s.coreAt s.ev.a).accAns.findIdx? fun r => r.req.home = s.ev.b) = some i)
    (hr : (s.coreAt s.ev.a).accAns[i]? = some r) : exec .accumulateAnswer s = .next ((s.modCore s.ev.a fun c =>
      { c with accAns := c.accAns.take i ++ c.accAns.drop (i + 1) }).takeAnswer r) := by
  show Host.Outcome.next (s.stepAnswer s.ev.a fun a => a.req.home = s.ev.b) = _
  simp only [State.stepAnswer, h, hr, dropIdx]

/-- The core reissues the oldest request that it may, and the marker that counted it (R292, R293). -/
theorem exec_remapReturn {s : State} {i : Nat} {r : HomeReq}
    (h : ((s.coreAt s.ev.a).remapped.findIdx? fun r => !(s.coreAt s.ev.a).out.any fun q =>
      s.staleReq q && q.granule = r.granule) = some i) (hr : (s.coreAt s.ev.a).remapped[i]? = some r) :
    let n := s.homeOf r.target.1 r.target.2
    exec .remapReturn s = .next ((s.modCore s.ev.a fun c =>
      { c with
        remapped := c.remapped.take i ++ c.remapped.drop (i + 1), out := putBack (r.setHome n) c.out
        issued := countAdd c.issued n 1 }).markAgain s.ev.a n r.granule) := by
  show Host.Outcome.next (s.reissue s.ev.a) = _
  simp only [State.reissue, State.nextReissue, h, State.reissueAt, hr, dropIdx]

theorem exec_writeQueueApply {s : State} (h : (s.homeAt s.ev.a).mayApply s.ev.b = true) :
    exec .writeQueueApply s = .next (s.applyEntry s.ev.a s.ev.b) := by
  show Host.Outcome.next (if (s.homeAt s.ev.a).mayApply s.ev.b then s.applyEntry s.ev.a s.ev.b else s) = _
  rw [if_pos h]

/-- A home keeps the markers of other cores, and those whose count it has not reached (R369). -/
theorem exec_releaseMarker (s : State) :
    ∃ t, exec .releaseMarker s = .next t ∧ { t with homes := s.homes } = s ∧
      (t.homeAt s.ev.a).markers = (s.homeAt s.ev.a).markers.filter fun m =>
        m.1 ≠ s.ev.b ∨ ¬(FMap.getD (s.homeAt s.ev.a).received m.1 0 + 2 ^ 32 - m.2 % 2 ^ 32) % 2 ^ 32 < 2 ^ 31 := by
  refine ⟨s.modHome s.ev.a fun x => x.confirm s.ev.b, rfl, rfl, ?_⟩
  rw [State.homeAt_modHome, if_pos rfl]
  refine List.filter_congr fun m _ => ?_
  rw [Bool.eq_iff_iff]
  by_cases hm : m.1 = s.ev.b
  · simp only [hm, bne_self_eq_false, Bool.false_or, Bool.not_eq_true', countGe, decide_eq_false_iff_not, decide_eq_true_eq,
      ne_eq, not_true, false_or]
  · simp only [bne_iff_ne.mpr hm, Bool.true_or, decide_eq_true_eq, ne_eq, hm, not_false_iff, true_or]

/-! ### Write-backs (R285, R291) -/

section
variable {s : State}

theorem exec_writeBack_cluster (h : s.ev.c = 0) : exec .writeBack s = .next (s.cluOut (s.ev.a * 16) s.ev.a s.ev.b) := by
  show Host.Outcome.next (if s.ev.c = 0 then _ else _) = _
  rw [if_pos h]

/-- A grain that the cluster cache does not hold leaves it without a write. -/
theorem State.cluOut_absent (core k key : Nat) (h : FMap.find (s.cluAt k).grains key = none) :
    bytesKept s (s.cluOut core k key) := by
  have hw : s.writeBack core k key = s := by simp only [State.writeBack, h]
  rw [State.cluOut, hw]
  refine ⟨fun _ => rfl, fun j a => ?_, fun _ _ => rfl, fun _ _ => rfl⟩
  rw [State.modClu, State.cluAt_setClu]
  split
  · next hj => rw [hj]
  · rfl

theorem exec_writeBack_l1 (h : s.ev.c = 1) : exec .writeBack s = .next (s.l1Push s.ev.a s.ev.b) := by
  show Host.Outcome.next (if s.ev.c = 0 then _ else if s.ev.c = 1 then _ else _) = _
  rw [if_neg (by omega), if_pos h]

theorem State.l1Push_dirty {core key : Nat} {g : Grain} (h : FMap.find (s.coreAt core).l1 key = some g)
    (hd : g.isDirty = true) :
    s.l1Push core key = (s.mergeUp core key g).modCore core fun c => { c with l1 := FMap.put c.l1 key g.clean } := by
  simp only [State.l1Push, h, hd, Bool.not_true, Bool.false_eq_true, if_false]

theorem State.l1Push_absent {core key : Nat} (h : FMap.find (s.coreAt core).l1 key = none) : s.l1Push core key = s := by
  simp only [State.l1Push, h]

theorem exec_writeBack_line (h : 1 < s.ev.c) : exec .writeBack s = .next (s.lineDrop s.ev.a s.ev.b) := by
  show Host.Outcome.next (if s.ev.c = 0 then _ else if s.ev.c = 1 then _ else _) = _
  rw [if_neg (by omega), if_neg (by omega)]

end

/-! ### The directory (R283, R284) -/

theorem exec_ownershipRequest {s : State} {x : Spot} (h : ((s.coreAt s.ev.a).wanted.find? fun x => x.key = s.ev.b) = some x)
    (hm : s.mayAsk s.ev.a x = true) :
    exec .ownershipRequest s = .next ((s.openDir (s.ev.a / 16) x []).askDir s.ev.a x) := by
  show Host.Outcome.next (match (s.coreAt s.ev.a).wanted.find? fun x => x.key = s.ev.b with
    | some x => if s.mayAsk s.ev.a x then (s.openDir (cluOfCore s.ev.a) x []).askDir s.ev.a x else s
    | none => s) = _
  simp only [h, hm, if_true, cluOfCore]

theorem State.ackDir_awaited {s : State} {k core key : Nat} {d : Dir} (h : FMap.find (s.cluAt k).dir key = some d)
    (ha : d.awaits core = true) :
    s.ackDir k core key = ((s.l1Give (k * 16 + core) key).setDir k key (d.answer core)).settleDir k key := by
  simp only [State.ackDir, h, ha, if_true]

theorem exec_invalidationAck {s : State} {d : Dir} (h : FMap.find (s.cluAt (s.ev.a / 16)).dir s.ev.b = some d)
    (ha : d.awaits (s.ev.a % 16) = true) : exec .invalidationAck s =
      .next (((s.l1Give s.ev.a s.ev.b).setDir (s.ev.a / 16) s.ev.b (d.answer (s.ev.a % 16))).settleDir (s.ev.a / 16) s.ev.b) := by
  show Host.Outcome.next (s.ackDir (s.ev.a / 16) (s.ev.a % 16) s.ev.b) = _
  rw [State.ackDir_awaited h ha, Nat.div_add_mod']

theorem State.l1Give_absent {s : State} {core key : Nat} (h : FMap.find (s.coreAt core).l1 key = none) :
    s.l1Give core key = s := by
  simp only [State.l1Give, h]

theorem Dir.awaits_last {d : Dir} {c i : Nat} (h : d.request = some (c, [i])) : d.awaits i = true := by
  simp only [Dir.awaits, h, List.contains_cons, beq_self_eq_true, Bool.true_or]

/-- The last answer to an invalidation. -/
theorem Dir.answer_last {d : Dir} {c i : Nat} (h : d.request = some (c, [i])) :
    d.answer i = { d with request := some (c, []) } := by
  simp only [Dir.answer, h, List.filter_cons, List.filter_nil, bne_self_eq_false, Bool.false_eq_true, if_false]

theorem Dir.evicted_last {d : Dir} {c i : Nat} (h : d.request = some (c, [i])) :
    d.evicted i = { d with request := some (c, []) } := by
  rw [Dir.evicted, if_pos (Dir.awaits_last h), Dir.answer_last h]

theorem State.setDir_listed {s : State} {k key : Nat} {d : Dir} (h : d.isNone = false) :
    s.setDir k key d = s.modClu k fun c => { c with dir := FMap.put c.dir key d } := by
  simp only [State.setDir, h, Bool.false_eq_true, if_false]

theorem State.setDir_find {s : State} {k key : Nat} {d : Dir} (h : d.isNone = false) :
    FMap.find ((s.setDir k key d).cluAt k).dir key = some d := by
  rw [State.setDir_listed h, State.modClu, State.cluAt_setClu_same]
  exact FMap.find_put_same _ _ _

/-- A grant to a core that holds the grain: its entry names it as the owner, and nothing but the directory changes. -/
theorem State.settleDir_grant {s : State} {k c key : Nat} {d : Dir} {g : Grain}
    (hg : FMap.find (s.coreAt (k * 16 + c)).l1 key = some g) :
    let t := (s.setDir k key { d with request := some (c, []) }).settleDir k key
    { t with clusters := s.clusters } = s ∧
      FMap.find (t.cluAt k).dir key = some { d with sharers := [], coarse := false, owner := some c, request := none } := by
  intro t
  have h1 : Dir.isNone { d with request := some (c, []) } = false := by simp only [Dir.isNone, Option.isNone_some, Bool.and_false]
  have h2 : Dir.isNone { d with sharers := [], coarse := false, owner := some c, request := none } = false := rfl
  have ht : t = (s.setDir k key { d with request := some (c, []) }).setDir k key
      { d with sharers := [], coarse := false, owner := some c, request := none } := by
    have hg' : FMap.find (((s.setDir k key { d with request := some (c, []) }).setDir k key
      { d with sharers := [], coarse := false, owner := some c, request := none }).coreAt (k * 16 + c)).l1 key = some g := hg
    simp only [t, State.settleDir, State.setDir_find h1, State.ownGrant, hg']
  rw [ht]
  exact ⟨rfl, State.setDir_find h2⟩

section
variable {s : State} {d : Dir} (hd : FMap.find (s.cluAt (s.ev.a / 16)).dir s.ev.b = some d)
  (hl : FMap.find (s.coreAt s.ev.a).l1 s.ev.b = none)
include hd hl

/-- The last answer lets the grant come (R284). -/
theorem exec_invalidationAck_grant {c : Nat} {g : Grain} (hr : d.request = some (c, [s.ev.a % 16]))
    (hg : FMap.find (s.coreAt (s.ev.a / 16 * 16 + c)).l1 s.ev.b = some g) :
    ∃ t, exec .invalidationAck s = .next t ∧ { t with clusters := s.clusters } = s ∧
      FMap.find (t.cluAt (s.ev.a / 16)).dir s.ev.b =
        some { d with sharers := [], coarse := false, owner := some c, request := none } := by
  refine ⟨_, exec_invalidationAck hd (Dir.awaits_last hr), ?_⟩
  rw [State.l1Give_absent hl, Dir.answer_last hr]
  exact State.settleDir_grant hg

theorem State.l1Notice_absent :
    s.l1Notice s.ev.a s.ev.b = (s.setDir (s.ev.a / 16) s.ev.b (d.evicted (s.ev.a % 16))).settleDir (s.ev.a / 16) s.ev.b := by
  simp only [State.l1Notice, State.l1Evict, State.l1Give_absent hl, cluOfCore, hd]

/-- An eviction notice that is the last answer lets the grant come (R283, R284). -/
theorem exec_evictionNotice_grant {c : Nat} {g : Grain} (hr : d.request = some (c, [s.ev.a % 16]))
    (hg : FMap.find (s.coreAt (s.ev.a / 16 * 16 + c)).l1 s.ev.b = some g) :
    ∃ t, exec .evictionNotice s = .next t ∧ { t with clusters := s.clusters } = s ∧
      FMap.find (t.cluAt (s.ev.a / 16)).dir s.ev.b =
        some { d with sharers := [], coarse := false, owner := some c, request := none } := by
  refine ⟨s.l1Notice s.ev.a s.ev.b, rfl, ?_⟩
  rw [State.l1Notice_absent hd hl, Dir.evicted_last hr]
  exact State.settleDir_grant hg

/-- The notice of the owner leaves the grain UNCACHED (R283). -/
theorem exec_evictionNotice_owner (ho : d.owner = some (s.ev.a % 16)) (hr : d.request = none) :
    ∃ t, exec .evictionNotice s = .next t ∧ { t with clusters := s.clusters } = s ∧
      FMap.find (t.cluAt (s.ev.a / 16)).dir s.ev.b = none := by
  have ha : d.awaits (s.ev.a % 16) = false := by simp only [Dir.awaits, hr]
  have he : d.evicted (s.ev.a % 16) = { d with owner := none, sharers := [] } := by
    simp only [Dir.evicted, ha, ho, Bool.false_eq_true, if_false, if_true]
  have hn : Dir.isNone { d with owner := none, sharers := [] } = true := by
    simp only [Dir.isNone, hr, Option.isNone_none, List.isEmpty_nil, Bool.and_self]
  have hf : FMap.find ((s.setDir (s.ev.a / 16) s.ev.b { d with owner := none, sharers := [] }).cluAt (s.ev.a / 16)).dir s.ev.b =
      none := by
    simp only [State.setDir, hn, if_true, State.modClu, State.cluAt_setClu_same, FMap.find_del]
  refine ⟨s.l1Notice s.ev.a s.ev.b, rfl, ?_⟩
  rw [State.l1Notice_absent hd hl, he]
  simp only [State.settleDir, hf]
  exact ⟨rfl, trivial⟩

end

end Sys2Proof.Machine
end

section
/-!
PROOFS. Peers (R96, R296), donations (R151), leases (R435, R436), residuals and the windows of QUOTA (R359, R364).
-/
namespace Sys2Proof.Machine

/-! ### Peers -/

section
variable {s : State}

theorem exec_peerReadRequest_host (h : s.ev.c = 1) : exec .peerReadRequest s =
    .next { s with hostData := (List.range s.ev.b).map fun i => s.deviceByte (s.ev.a + i) } := by
  show Host.Outcome.next (if s.ev.c = 1 then _ else _) = _
  rw [if_pos h]

theorem exec_peerReadRequest_line (h : s.ev.c ≠ 1) (hk : isPeerKey s.ev.b = true) :
    exec .peerReadRequest s = .next (s.remoteIn s.ev.a (s.ev.b / 64 * 64) (s.ev.v.toNat % 64)) := by
  show Host.Outcome.next (if s.ev.c = 1 then _ else if isPeerKey s.ev.b then _ else _) = _
  rw [if_neg h, if_pos hk]
  rfl

theorem exec_peerWrite_home (h : s.ev.c = 1) :
    exec .peerWrite s = .next (s.homeWrite s.ev.a (s.ev.bytes.take (s.memBytes - s.ev.a))) := by
  show Host.Outcome.next (if s.ev.c = 1 then _ else _) = _
  rw [if_pos h]

theorem exec_peerWrite_peer (h : s.ev.c = 2) : exec .peerWrite s = .next (s.performRemote s.ev.b s.ev.a s.ev.bytes) := by
  show Host.Outcome.next (if s.ev.c = 1 then _ else if s.ev.c = 2 then _ else _) = _
  rw [if_neg (by omega), if_pos h]

/-- The oldest write that a home passes on reaches its owner, which acknowledges it (R296). -/
theorem exec_peerWrite_passed (h : s.ev.c = 0) {w : RemoteWrite} {rest : List RemoteWrite}
    (hw : (s.homeAt s.ev.a).remoteOut = w :: rest) :
    exec .peerWrite s = .next (((s.modHome s.ev.a fun x => { x with remoteOut := rest }).modCore w.core fun c =>
      { c with remoteAcks := c.remoteAcks + 1 }).performRemote w.dev w.pa w.bytes) := by
  show Host.Outcome.next (if s.ev.c = 1 then _ else if s.ev.c = 2 then _ else s.stepRemote s.ev.a) = _
  rw [if_neg (by omega), if_neg (by omega)]
  simp only [State.stepRemote, hw]

theorem exec_remoteWriteAck : ∃ t, exec .remoteWriteAck s = .next t ∧ { t with cores := s.cores } = s ∧
    ∀ c, t.coreAt c = if c = s.ev.a then { s.coreAt c with remoteAcks := (s.coreAt s.ev.a).remoteAcks - 1 }
      else s.coreAt c := by
  refine ⟨s.modCore s.ev.a fun c => { c with remoteAcks := c.remoteAcks - 1 }, rfl, rfl, fun c => ?_⟩
  rw [State.modCore_eq, State.coreAt_setCore]
  split
  · next h => rw [h]
  · rfl

theorem exec_acquireDropNotice :
    ∃ t, exec .acquireDropNotice s = .next t ∧ { t with homes := s.homes } = s ∧ (t.homeAt s.ev.a).remote = [] := by
  refine ⟨s.modHome s.ev.a Home.dropRemote, rfl, rfl, ?_⟩
  rw [State.homeAt_modHome, if_pos rfl]
  rfl

/-! ### Donations -/

theorem exec_donationReceive {w lid hd : Nat} {d : List Byte} (h : s.donOut[s.ev.a]? = some (w, lid, hd, d))
    (hc : s.ev.c ≠ 1) :
    let n := s.donationAnswer hd
    let s1 := { s with donOut := s.donOut.take s.ev.a ++ s.donOut.drop (s.ev.a + 1) }
    exec .donationReceive s = .next (if n = 0 then s1.donationEnter hd 0 d
      else { s1 with donIn := s1.donIn ++ [(n, w, lid, hd, d)] }) := by
  show execDonationReceive s = _
  simp only [execDonationReceive, hc, if_false, h, dropIdx]

theorem State.donqAnswer_lt (s : State) (hd : Nat) : s.donqAnswer hd < 3 := by
  unfold State.donqAnswer
  simp only
  split
  · omega
  · split
    · omega
    · split
      · omega
      · split <;> omega

theorem State.donationAnswer_lt (s : State) (hd : Nat) : s.donationAnswer hd < 3 := by
  unfold State.donationAnswer
  split
  · exact s.donqAnswer_lt hd
  · split
    · omega
    · exact Nat.mod_lt _ (by decide)

theorem State.donationAnswer_here {hd : Nat} (h : hd / 2 ^ 32 % 2 ^ 12 = Config.deviceId % 2 ^ 12) :
    s.donationAnswer hd = s.donqAnswer hd := if_pos h

theorem State.donationAnswer_unknown {hd : Nat} (h : hd / 2 ^ 32 % 2 ^ 12 ≠ Config.deviceId % 2 ^ 12)
    (hk : Config.knownDevice (hd / 2 ^ 32 % 2 ^ 12) = false) : s.donationAnswer hd = 1 := by
  have hb : bitsOf hd 43 32 = hd / 2 ^ 32 % 2 ^ 12 := rfl
  rw [State.donationAnswer, hb, if_neg h, hk, Bool.not_false, if_pos rfl]

theorem State.postMsg_latch {w lid : Nat} (bs : List Byte) (h : (s.launch? lid).isSome = true) :
    ((s.postMsg w lid bs).slotAt w).latch = true := by
  have hn : (s.launch? lid).isNone = false := Option.isNone_eq_false_iff.mpr h
  simp only [State.postMsg, hn, Bool.false_eq_true, if_false, State.modSlot_eq, State.slotAt_setSlot_same]

theorem State.postMsg_gone {w lid : Nat} (bs : List Byte) (h : s.launch? lid = none) : s.postMsg w lid bs = s := by
  simp only [State.postMsg, h, Option.isNone_none, if_true]

theorem exec_donationReply {n w lid hd : Nat} {d : List Byte} (h : s.donIn[s.ev.a]? = some (n, w, lid, hd, d))
    (hr : (s.coreAt (w / 16)).inbox.length < 256) : exec .donationReply s =
      .next (State.postMsg { s with donIn := s.donIn.take s.ev.a ++ s.donIn.drop (s.ev.a + 1) } w lid
        (msgBytes (n + 1) 0 0 0 hd d)) := by
  show execDonationReply s = _
  simp only [execDonationReply, h, coreOf, Nat.not_le.mpr hr, if_false, dropIdx]

/-! ### Leases (R435, R436) -/

theorem FMap.find_map {α β : Type} (m : FMap α) (f : α → β) (k : Nat) :
    FMap.find (m.map fun c => (c.1, f c.2)) k = (FMap.find m k).map f := by
  induction m with
  | nil => rfl
  | cons c m ih =>
    obtain ⟨j, v⟩ := c
    rw [List.map_cons, FMap.find, FMap.find, ih]
    split <;> rfl

/-- What each home is after the same change of all of them. -/
theorem State.homeAt_map {t : State} {f : Home → Home} (h : t.homes = s.homes.map fun c => (c.1, f c.2)) (n : Nat) :
    t.homeAt n = f (s.homeAt n) ∨ t.homeAt n = {} := by
  rw [State.homeAt, State.homeAt, FMap.getD, FMap.getD, h, FMap.find_map]
  cases FMap.find s.homes n with
  | none => exact Or.inr rfl
  | some x => exact Or.inl rfl

/-- A home with the living leases of a cluster renewed. -/
def Home.renew (x : Home) (cl now : Nat) : Home :=
  { x with leases := x.leases.map fun l => if l.cl = cl && !l.dead then { l with beat := now } else l }

theorem Home.renew_beat {x : Home} {cl now : Nat} {l : Lease} (h : l ∈ (x.renew cl now).leases) (hk : l.cl = cl)
    (hd : l.dead = false) : l.beat = now := by
  obtain ⟨l0, -, rfl⟩ := List.mem_map.mp h
  by_cases h0 : (decide (l0.cl = cl) && !l0.dead) = true
  · rw [if_pos h0]
  · rw [if_neg h0] at hk hd
    exact absurd (by rw [hk, hd, decide_eq_true rfl]; rfl) h0

/-- What a heartbeat of a cluster leaves. -/
def State.heartbeat (s : State) (k : Nat) : State :=
  { s.modClu k fun c => { c with beatAt := s.clk } with homes := s.homes.map fun h => (h.1, h.2.renew k s.clk) }

theorem exec_leaseHeartbeat (hb : (s.cluAt s.ev.a).beatAt + 700 * s.lease ≤ s.clk)
    (hu : s.usable.testBit s.ev.a = true) : ∃ t, exec .leaseHeartbeat s = .next t ∧
      (t.cluAt s.ev.a).beatAt = s.clk ∧ t.mem = s.mem ∧
      ∀ n l, l ∈ (t.homeAt n).leases → l.cl = s.ev.a → l.dead = false → l.beat = s.clk := by
  have hc : (decide ((s.cluAt s.ev.a).beatAt + s.period ≤ s.clk) && bitOf s.usable s.ev.a) = true := by
    rw [bitOf_eq_testBit, hu, Bool.and_true, decide_eq_true_eq]
    exact hb
  refine ⟨s.heartbeat s.ev.a, congrArg Host.Outcome.next (if_pos hc), ?_, rfl, fun n l hl hk hd => ?_⟩
  · exact congrArg Cluster.beatAt (State.cluAt_setClu_same s s.ev.a _)
  · rcases State.homeAt_map (t := s.heartbeat s.ev.a) (f := fun x => x.renew s.ev.a s.clk) rfl n with h | h
    · exact Home.renew_beat (h ▸ hl) hk hd
    · rw [h] at hl
      cases hl

/-- The grain of a plain write lease that expires is tagged (R436). -/
theorem exec_writeLeaseExpiry {l : Lease}
    (h : ((s.homeAt s.ev.a).leases.find? fun l => !l.read && l.pa = s.ev.b && s.lapsed l && !s.usable.testBit l.cl) = some l)
    (hd : l.desc = false) : ∃ t, exec .writeLeaseExpiry s = .next t ∧
      FMap.find t.poison (l.pa / 2 ^ l.size * 2 ^ l.size) = some (2 ^ l.size) := by
  have hp : l.pa = s.ev.b := by
    have hq := List.find?_some h
    simp only [Bool.and_eq_true, decide_eq_true_eq] at hq
    exact hq.1.1.2
  have he : exec .writeLeaseExpiry s = .next ((s.poisonGrain s.ev.b l.size l.desc).modHome s.ev.a fun x =>
      { x with leases := x.leases.map fun y => if y = l then { y with dead := true } else y }) := by
    show execWriteLeaseExpiry s = _
    simp only [execWriteLeaseExpiry, State.at2, bitOf_eq_testBit, h]
  refine ⟨_, he, ?_⟩
  rw [State.modHome_poison, hd, hp]
  exact FMap.find_put_same _ _ _

/-- The remote grain of a read lease that expires is dropped (R436). -/
theorem exec_readLeaseExpiry {l : Lease}
    (h : ((s.homeAt s.ev.a).leases.find? fun l => l.read && l.pa = s.ev.b && s.lapsed l && !s.usable.testBit l.cl) = some l) :
    ∃ t, exec .readLeaseExpiry s = .next t ∧ { t with homes := s.homes } = s ∧
      FMap.find (t.homeAt s.ev.a).remote s.ev.b = none := by
  refine ⟨s.modHome s.ev.a fun x => { x with
    remote := FMap.del x.remote s.ev.b, leases := x.leases.filter fun y => y != l }, ?_, rfl, ?_⟩
  · show execReadLeaseExpiry s = _
    simp only [execReadLeaseExpiry, State.at2, bitOf_eq_testBit, h]
  · rw [State.homeAt_modHome, if_pos rfl, FMap.find_del, if_pos rfl]

/-! ### Residuals and QUOTA (R359, R364) -/

theorem exec_residualAgeExpiry {r : Residual}
    (h : ((s.coreAt s.ev.a).residuals.find? fun r => r.req.pa = s.ev.b && s.residualDue r) = some r) :
    exec .residualAgeExpiry s = .next (s.sendResidual s.ev.a r) := by
  show execResidualAgeExpiry s = _
  simp only [execResidualAgeExpiry, State.at2, h]

/-- What the start of a window of QUOTA leaves: every home counts afresh. -/
def State.freshQuota (s : State) : State :=
  { s with
    window := s.clk / 256, quotaNow := s.hqota
    homes := s.homes.map fun h => (h.1, { h.2 with quota := [] }) }

theorem exec_quotaWindowStart (h : s.clk / 256 ≠ s.window) : ∃ t, exec .quotaWindowStart s = .next t ∧
    t.window = s.clk / 256 ∧ t.quotaNow = s.hqota ∧ (∀ n, (t.homeAt n).quota = []) ∧ t.slots = s.slots ∧ t.mem = s.mem := by
  refine ⟨s.freshQuota, congrArg Host.Outcome.next (if_neg h), rfl, rfl, fun n => ?_, rfl, rfl⟩
  rcases State.homeAt_map (t := s.freshQuota) (f := fun x => { x with quota := [] }) rfl n with h | h <;> rw [h]

end

end Sys2Proof.Machine
end

section
/-!
PROOFS. The steps of memory, homes, engines and peers, from the lemmas about each of them.
-/
open Sys2Proof.Machine

/-- Settles O60: each step of memory, the homes, the engines and the peers, from the lemma about it. -/
theorem memorySteps : Obligations.MemorySteps := by
  unfold Obligations.MemorySteps
  intro s
  refine ⟨fun e r h => exec_wideCompletion h, fun e h hm => exec_storeBufferLeave h hm, exec_pageNotice,
    fun x hx => ⟨exec_swapOut_start hx, exec_swapOut_end hx, exec_swapIn_start hx, exec_swapIn_end hx,
      exec_nvmeCompletion hx⟩, ?_, makeRecord_fields, ?_,
    fun c hc hf => ⟨exec_copyArrival hc hf, exec_copyCompletion hc hf⟩, ?_,
    fun core lid bs hn => ⟨fun q off va n => State.pointRead_sram hn q off va n,
      fun q off j y => State.pointWrite_sram hn lid q off bs j y,
      fun pa ck g dom va n hck h0 hl hr hp => State.pointRead_phys hn hck h0 hl hr hp,
      fun pa ck g d dom hck hb hl hr y hy => State.pointWrite_phys hn lid g d hck hb hl hr hy⟩, ?_,
    fun st hs => ⟨fun hl hd els s1 h => exec_streamFetch hs hl hd h,
      fun hd hp v r fl s1 hb h => exec_streamWrite hs hd hp hb h⟩,
    fun i r h => exec_accumulateRequest h, fun i r h hr => exec_atomicRequest h hr,
    fun i r h hr => exec_accumulateAnswer h hr, fun i r h hr => exec_remapReturn h hr,
    fun e _ hm => exec_writeQueueApply hm, exec_releaseMarker s,
    fun h => ⟨exec_writeBack_cluster h, fun hg => ⟨_, exec_writeBack_cluster h, State.cluOut_absent _ _ _ hg⟩⟩,
    fun h => ⟨fun g hg hd => (exec_writeBack_l1 h).trans (congrArg _ (State.l1Push_dirty hg hd)),
      fun hg => (exec_writeBack_l1 h).trans (congrArg _ (State.l1Push_absent hg))⟩,
    exec_writeBack_line, fun x hx hm => exec_ownershipRequest hx hm, fun d hd ha => exec_invalidationAck hd ha,
    fun d c g hd hr hl hg => exec_invalidationAck_grant hd hl hr hg,
    fun d hd ho hr hl => exec_evictionNotice_owner hd hl ho hr,
    fun d c g hd hr hl hg => exec_evictionNotice_grant hd hl hr hg,
    fun h => ⟨exec_peerReadRequest_host h, exec_peerWrite_home h⟩, exec_peerReadRequest_line, exec_peerWrite_peer,
    fun h w rest hw => exec_peerWrite_passed h hw, exec_remoteWriteAck, exec_acquireDropNotice,
    fun w lid hd d h hc => exec_donationReceive h hc,
    fun hd => ⟨s.donationAnswer_lt hd, State.donationAnswer_here, State.donationAnswer_unknown⟩,
    fun n w lid hd d h hr => ⟨fun hl => ⟨_, exec_donationReply h hr, State.postMsg_latch _ hl⟩,
      fun hl => (exec_donationReply h hr).trans (congrArg _ (State.postMsg_gone _ hl))⟩,
    exec_leaseHeartbeat, fun l h hd => exec_writeLeaseExpiry h hd, fun l h => exec_readLeaseExpiry h,
    fun r h => exec_residualAgeExpiry h, exec_quotaWindowStart⟩
  · intro x hx ho
    refine ⟨fun hp => ?_, fun hp h8 hu => ⟨_, exec_swapOut_end hx ho hp, State.swapOutEnd_ends _ h8 hu⟩⟩
    have he := exec_swapOut_start hx ho hp
    refine ⟨fun h => he.trans (congrArg _ (State.swapOutStart_none _ h)), fun pa e h =>
      ⟨fun hm => he.trans (congrArg _ (State.swapOutStart_kept _ h hm)), fun hm => ?_⟩⟩
    rw [State.swapOutStart_leaves _ h hm] at he
    refine ⟨fun hb => ?_, fun hb => ⟨_, ?_, State.sendPage_record _ _ _ _ _⟩⟩
    · rw [he, if_pos hb]
    · rw [he, if_neg (ne_true_of_eq_false hb)]
  · intro x hx ho
    refine ⟨fun hp pa e h hV hS hT hd hw h8 hu => ⟨_, exec_swapIn_start hx ho hp,
      State.swapInStart_asks _ h hV hS hT hd hw h8 hu⟩, fun hp => ?_⟩
    have he := exec_swapIn_end hx ho hp
    refine ⟨fun code hc h8 hu => ⟨s.swapInFail s.ev.a x code, he.trans (congrArg _ ?_), State.swapInFail_ends _ code h8 hu⟩,
      fun kept hok hl h hk hw h8 hu => ⟨_, he, State.swapInEnd_ends _ hok hl h hk hw h8 hu⟩⟩
    rcases hc with ⟨hok | hl, rfl⟩ | ⟨hok, hl, h | ⟨h, hk, rfl⟩⟩
    · exact State.swapInEnd_error _ hok
    · exact State.swapInEnd_lost _ hl
    · exact State.swapInEnd_refused _ hok hl h
    · exact State.swapInEnd_unopened _ hok hl h hk
  · intro c hc hf ho hk hr
    have he := exec_copyArrival hc hf ho
    rw [if_pos hk] at he
    exact ⟨fun cause acc v s1 h => he.trans (congrArg _ (State.cpyStep_source_trap hr h)),
      fun cs s1 s2 h hp => he.trans (congrArg _ (State.cpyStep_source_poison hr h hp)),
      fun cs s1 new s2 cause acc v s3 h hp hd => he.trans (congrArg _ (State.cpyStep_dest_trap hr h hp hd)),
      fun cs s1 new s2 ds s3 h hp hd hl ha hb => he.trans (congrArg _ (State.cpyStep_moves hr h hp hd hl ha hb))⟩
  · intro c cs s1 row s2 hc hf ho hk hb h hp
    have he := exec_copyArrival hc hf ho
    rw [if_neg hk] at he
    exact ⟨_, he, fun hd hn r hr y hy => State.rowStep_later h hp hb hd hn hr hy,
      fun hd hk ht hh st y hm hy => State.rowStep_first h hp hb hd hk ht hh hm hy,
      fun hd hk ht st hst => State.rowStep_closed h hp hb hd hk ht hst⟩
end

section
/-!
PROOFS. Decoding is the inverse of encoding (R58 to R69): whatever halfwords a decoder accepts are the encoding of the
well-formed instruction that it answers.
-/
namespace Sys2Proof

/-! ### Fields of concatenated bits -/

theorem field_high {v w : Nat} (x : BitVec v) (y : BitVec w) : (x ++ y).extractLsb' w v = x :=
  (field_above x y 0 v).trans (field_top x)

theorem join_of_high {m n : Nat} {x : BitVec (m + n)} {z : BitVec m} (h : x.extractLsb' n m = z) :
    z ++ x.extractLsb' 0 n = x :=
  h ▸ BitVec.extractLsb'_append_extractLsb'

theorem eq_ofNat_of_toNat {n k : Nat} {x : BitVec n} (h : x.toNat = k) : x = BitVec.ofNat n k := by
  rw [← h, BitVec.ofNat_toNat, BitVec.setWidth_eq]

/-! ### A word is made of its fields (R60, R67) -/

theorem fmtS_fields (w : BitVec 32) :
    fmtS (w.extractLsb' 28 4) (w.extractLsb' 22 6) (w.extractLsb' 17 5) (w.extractLsb' 12 5) (w.extractLsb' 7 5)
      (w.extractLsb' 0 7) = w := by
  simp only [fmtS, BitVec.extractLsb'_append_extractLsb'_eq_extractLsb']
  exact BitVec.extractLsb'_eq_self
theorem fmtI_fields (w : BitVec 32) :
    fmtI (w.extractLsb' 17 15) (w.extractLsb' 12 5) (w.extractLsb' 7 5) (w.extractLsb' 0 7) = w := by
  simp only [fmtI, BitVec.extractLsb'_append_extractLsb'_eq_extractLsb']
  exact BitVec.extractLsb'_eq_self
theorem fmtSh_fields (w : BitVec 32) :
    fmtSh (w.extractLsb' 30 2) (w.extractLsb' 23 7) (w.extractLsb' 17 6) (w.extractLsb' 12 5) (w.extractLsb' 7 5)
      (w.extractLsb' 0 7) = w := by
  simp only [fmtSh, BitVec.extractLsb'_append_extractLsb'_eq_extractLsb']
  exact BitVec.extractLsb'_eq_self
theorem fmtBf_fields (w : BitVec 32) :
    fmtBf (w.extractLsb' 31 1) (w.extractLsb' 29 2) (w.extractLsb' 23 6) (w.extractLsb' 17 6) (w.extractLsb' 12 5)
      (w.extractLsb' 7 5) (w.extractLsb' 0 7) = w := by
  simp only [fmtBf, BitVec.extractLsb'_append_extractLsb'_eq_extractLsb']
  exact BitVec.extractLsb'_eq_self
theorem fmtU_fields (w : BitVec 32) :
    fmtU (w.extractLsb' 12 20) (w.extractLsb' 7 5) (w.extractLsb' 0 7) = w := by
  simp only [fmtU, BitVec.extractLsb'_append_extractLsb'_eq_extractLsb']
  exact BitVec.extractLsb'_eq_self
theorem fmtB_fields (w : BitVec 32) :
    fmtB (w.extractLsb' 20 12) (w.extractLsb' 17 3) (w.extractLsb' 12 5) (w.extractLsb' 7 5) (w.extractLsb' 0 7) = w := by
  simp only [fmtB, BitVec.extractLsb'_append_extractLsb'_eq_extractLsb']
  exact BitVec.extractLsb'_eq_self
theorem fmtJ_fields (w : BitVec 32) :
    fmtJ (w.extractLsb' 12 20) (w.extractLsb' 7 5) (w.extractLsb' 0 7) = w := by
  simp only [fmtJ, BitVec.extractLsb'_append_extractLsb'_eq_extractLsb']
  exact BitVec.extractLsb'_eq_self
theorem fmtSr_fields (w : BitVec 32) :
    fmtSr (w.extractLsb' 30 2) (w.extractLsb' 29 1) (w.extractLsb' 17 12) (w.extractLsb' 12 5) (w.extractLsb' 7 5)
      (w.extractLsb' 0 7) = w := by
  simp only [fmtSr, BitVec.extractLsb'_append_extractLsb'_eq_extractLsb']
  exact BitVec.extractLsb'_eq_self
theorem fmtM_fields (w : BitVec 32) :
    fmtM (w.extractLsb' 21 11) (w.extractLsb' 17 4) (w.extractLsb' 12 5) (w.extractLsb' 7 5) (w.extractLsb' 0 7) = w := by
  simp only [fmtM, BitVec.extractLsb'_append_extractLsb'_eq_extractLsb']
  exact BitVec.extractLsb'_eq_self
theorem fmtO_fields (w : BitVec 32) :
    fmtO (w.extractLsb' 29 3) (w.extractLsb' 25 4) (w.extractLsb' 22 3) (w.extractLsb' 17 5) (w.extractLsb' 12 5)
      (w.extractLsb' 7 5) (w.extractLsb' 0 7) = w := by
  simp only [fmtO, BitVec.extractLsb'_append_extractLsb'_eq_extractLsb']
  exact BitVec.extractLsb'_eq_self
theorem fmtA_fields (w : BitVec 32) :
    fmtA (w.extractLsb' 31 1) (w.extractLsb' 27 4) (w.extractLsb' 25 2) (w.extractLsb' 22 3) (w.extractLsb' 17 5)
      (w.extractLsb' 12 5) (w.extractLsb' 7 5) (w.extractLsb' 0 7) = w := by
  simp only [fmtA, BitVec.extractLsb'_append_extractLsb'_eq_extractLsb']
  exact BitVec.extractLsb'_eq_self
theorem fmtSs_fields (w : BitVec 32) :
    fmtSs (w.extractLsb' 28 4) (w.extractLsb' 22 6) (w.extractLsb' 20 2) (w.extractLsb' 17 3) (w.extractLsb' 12 5)
      (w.extractLsb' 7 5) (w.extractLsb' 0 7) = w := by
  simp only [fmtSs, BitVec.extractLsb'_append_extractLsb'_eq_extractLsb']
  exact BitVec.extractLsb'_eq_self
theorem fmtTr_fields (w : BitVec 32) :
    fmtTr (w.extractLsb' 28 4) (w.extractLsb' 17 11) (w.extractLsb' 12 5) (w.extractLsb' 7 5) (w.extractLsb' 0 7) = w := by
  simp only [fmtTr, BitVec.extractLsb'_append_extractLsb'_eq_extractLsb']
  exact BitVec.extractLsb'_eq_self
theorem fmtV_fields (w : BitVec 32) :
    fmtV (w.extractLsb' 28 4) (w.extractLsb' 25 3) (w.extractLsb' 19 6) (w.extractLsb' 13 6) (w.extractLsb' 7 6)
      (w.extractLsb' 0 7) = w := by
  simp only [fmtV, BitVec.extractLsb'_append_extractLsb'_eq_extractLsb']
  exact BitVec.extractLsb'_eq_self
theorem fmtV4_fields (w : BitVec 32) :
    fmtV4 (w.extractLsb' 31 1) (w.extractLsb' 25 6) (w.extractLsb' 19 6) (w.extractLsb' 13 6) (w.extractLsb' 7 6)
      (w.extractLsb' 0 7) = w := by
  simp only [fmtV4, BitVec.extractLsb'_append_extractLsb'_eq_extractLsb']
  exact BitVec.extractLsb'_eq_self
theorem fmtVM_fields (w : BitVec 32) :
    fmtVM (w.extractLsb' 29 3) (w.extractLsb' 26 3) (w.extractLsb' 23 3) (w.extractLsb' 18 5) (w.extractLsb' 13 5)
      (w.extractLsb' 7 6) (w.extractLsb' 0 7) = w := by
  simp only [fmtVM, BitVec.extractLsb'_append_extractLsb'_eq_extractLsb']
  exact BitVec.extractLsb'_eq_self
theorem fmtSB_fields (w : BitVec 32) :
    fmtSB (w.extractLsb' 28 4) (w.extractLsb' 22 6) (w.extractLsb' 18 4) (w.extractLsb' 13 5) (w.extractLsb' 7 6)
      (w.extractLsb' 0 7) = w := by
  simp only [fmtSB, BitVec.extractLsb'_append_extractLsb'_eq_extractLsb']
  exact BitVec.extractLsb'_eq_self
theorem fmtT_fields (w : BitVec 32) :
    fmtT (w.extractLsb' 27 5) (w.extractLsb' 23 4) (w.extractLsb' 19 4) (w.extractLsb' 15 4) (w.extractLsb' 11 4)
      (w.extractLsb' 7 4) (w.extractLsb' 0 7) = w := by
  simp only [fmtT, BitVec.extractLsb'_append_extractLsb'_eq_extractLsb']
  exact BitVec.extractLsb'_eq_self
theorem fmtTM_fields (w : BitVec 32) :
    fmtTM (w.extractLsb' 25 7) (w.extractLsb' 21 4) (w.extractLsb' 16 5) (w.extractLsb' 11 5) (w.extractLsb' 7 4)
      (w.extractLsb' 0 7) = w := by
  simp only [fmtTM, BitVec.extractLsb'_append_extractLsb'_eq_extractLsb']
  exact BitVec.extractLsb'_eq_self
theorem fmtC_fields (w : BitVec 32) :
    fmtC (w.extractLsb' 27 5) (w.extractLsb' 22 5) (w.extractLsb' 17 5) (w.extractLsb' 12 5) (w.extractLsb' 7 5)
      (w.extractLsb' 0 7) = w := by
  simp only [fmtC, BitVec.extractLsb'_append_extractLsb'_eq_extractLsb']
  exact BitVec.extractLsb'_eq_self

/-! ### What a decoder's answer stands for -/

/-- Every instruction that the answer `r` of a decoder can give is well-formed, is no step of another agent, and has the
halfwords `hs` as its encoding. -/
structure DecodesOnly (hs : List (BitVec 16)) (r : Except DecodeError Instr) : Prop where
  only : ∀ i, r = .ok i → i.wf = true ∧ i.isEvent = false ∧ encode i = hs

theorem decodesOnly_error (hs : List (BitVec 16)) (e : DecodeError) : DecodesOnly hs (.error e) := ⟨nofun⟩

theorem wf_iff {i : Instr} : i.wf = true ↔ firstFailure i.checks = none := by
  rw [Instr.wf, Option.isNone_iff_eq_none]

/-- An instruction accepted without a fixed field passes its own checks. -/
theorem decodesOnly_accept_nil {hs : List (BitVec 16)} {i : Instr} (he : i.isEvent = false) (h : encode i = hs) :
    DecodesOnly hs (accept [] i) := by
  refine ⟨fun j hj => ?_⟩
  unfold accept at hj
  split at hj
  · next hf =>
    obtain rfl : i = j := Except.ok.inj hj
    exact ⟨wf_iff.mpr hf, he, h⟩
  · nomatch hj

/-- What is accepted has the fixed field that the first check asks for. -/
theorem decodesOnly_accept_cons {hs : List (BitVec 16)} {p : Prop} [Decidable p] {e : DecodeError}
    {cs : List (Bool × DecodeError)} {i : Instr} (h : p → DecodesOnly hs (accept cs i)) :
    DecodesOnly hs (accept ((decide p, e) :: cs) i) := by
  refine ⟨fun j hj => ?_⟩
  by_cases hp : p
  · exact (h hp).only j (by simpa [accept, hp, firstFailure] using hj)
  · simp [accept, hp, firstFailure] at hj

theorem decodesOnly_ite {hs : List (BitVec 16)} {p : Prop} [Decidable p] {r r' : Except DecodeError Instr}
    (h : p → DecodesOnly hs r) (h' : DecodesOnly hs r') : DecodesOnly hs (if p then r else r') := by
  split
  · exact h ‹p›
  · exact h'

/-! ### The functions of each major opcode (R65)

In each function the code selects one instruction; the checks on the fixed fields say what stands in them, and with the
code and those fields in place the word is the instruction's own. Where an operand is cut from two fields, or lies beside
fixed bits of one, the pieces are joined again. -/

theorem decMajor00_decodesOnly (la : BitVec 4) (fn : BitVec 6) (b a d : BitVec 5) :
    DecodesOnly (halvesOfWord (fmtS la fn b a d 1#7)) (decMajor00 la fn b a d) := by
  unfold decMajor00
  split
  case h_36 => exact decodesOnly_error _ _
  all_goals
    obtain rfl := eq_ofNat_of_toNat ‹fn.toNat = _›
    repeat (refine decodesOnly_accept_cons ?_; rintro rfl)
    exact decodesOnly_accept_nil rfl rfl
theorem decMajor01_decodesOnly (imm : BitVec 15) (a d : BitVec 5) :
    DecodesOnly (halvesOfWord (fmtI imm a d 3#7)) (decMajor01 imm a d) :=
  decodesOnly_accept_nil rfl rfl
theorem decMajor02_decodesOnly (imm : BitVec 15) (a d : BitVec 5) :
    DecodesOnly (halvesOfWord (fmtI imm a d 5#7)) (decMajor02 imm a d) :=
  decodesOnly_accept_nil rfl rfl
theorem decMajor03_decodesOnly (imm : BitVec 15) (a d : BitVec 5) :
    DecodesOnly (halvesOfWord (fmtI imm a d 7#7)) (decMajor03 imm a d) :=
  decodesOnly_accept_nil rfl rfl
theorem decMajor04_decodesOnly (imm : BitVec 15) (a d : BitVec 5) :
    DecodesOnly (halvesOfWord (fmtI imm a d 9#7)) (decMajor04 imm a d) :=
  decodesOnly_accept_nil rfl rfl
theorem decMajor05_decodesOnly (imm : BitVec 15) (a d : BitVec 5) :
    DecodesOnly (halvesOfWord (fmtI imm a d 11#7)) (decMajor05 imm a d) :=
  decodesOnly_accept_nil rfl rfl
theorem decMajor06_decodesOnly (imm : BitVec 15) (a d : BitVec 5) :
    DecodesOnly (halvesOfWord (fmtI imm a d 13#7)) (decMajor06 imm a d) :=
  decodesOnly_accept_nil rfl rfl
theorem decMajor07_decodesOnly (imm : BitVec 15) (a d : BitVec 5) :
    DecodesOnly (halvesOfWord (fmtI imm a d 15#7)) (decMajor07 imm a d) :=
  decodesOnly_accept_nil rfl rfl
theorem decMajor08_decodesOnly (sel : BitVec 2) (z : BitVec 7) (amt : BitVec 6) (a d : BitVec 5) :
    DecodesOnly (halvesOfWord (fmtSh sel z amt a d 17#7)) (decMajor08 sel z amt a d) := by
  unfold decMajor08
  split
  case h_4 => exact decodesOnly_error _ _
  all_goals
    obtain rfl := eq_ofNat_of_toNat ‹sel.toNat = _›
    repeat (refine decodesOnly_accept_cons ?_; rintro rfl)
    exact decodesOnly_accept_nil rfl rfl
theorem decMajor09_decodesOnly (sel : BitVec 1) (z : BitVec 2) (pos len1 : BitVec 6) (a d : BitVec 5) :
    DecodesOnly (halvesOfWord (fmtBf sel z pos len1 a d 19#7)) (decMajor09 sel z pos len1 a d) := by
  unfold decMajor09
  split
  case h_3 => exact decodesOnly_error _ _
  all_goals
    obtain rfl := eq_ofNat_of_toNat ‹sel.toNat = _›
    repeat (refine decodesOnly_accept_cons ?_; rintro rfl)
    exact decodesOnly_accept_nil rfl rfl
theorem decMajor0A_decodesOnly (imm : BitVec 20) (d : BitVec 5) :
    DecodesOnly (halvesOfWord (fmtU imm d 21#7)) (decMajor0A imm d) :=
  decodesOnly_accept_nil rfl rfl
theorem decMajor0B_decodesOnly (imm : BitVec 20) (d : BitVec 5) :
    DecodesOnly (halvesOfWord (fmtU imm d 23#7)) (decMajor0B imm d) :=
  decodesOnly_accept_nil rfl rfl
theorem decMajor0C_decodesOnly (off : BitVec 12) (cond : BitVec 3) (b a : BitVec 5) :
    DecodesOnly (halvesOfWord (fmtB off cond b a 25#7)) (decMajor0C off cond b a) := by
  unfold decMajor0C
  split
  case h_7 => exact decodesOnly_error _ _
  all_goals
    obtain rfl := eq_ofNat_of_toNat ‹cond.toNat = _›
    exact decodesOnly_accept_nil rfl rfl
theorem decMajor0D_decodesOnly (off : BitVec 20) (d : BitVec 5) :
    DecodesOnly (halvesOfWord (fmtJ off d 27#7)) (decMajor0D off d) :=
  decodesOnly_accept_nil rfl rfl
theorem decMajor0E_decodesOnly (imm : BitVec 15) (a d : BitVec 5) :
    DecodesOnly (halvesOfWord (fmtI imm a d 29#7)) (decMajor0E imm a d) :=
  decodesOnly_accept_nil rfl rfl
theorem decMajor0F_decodesOnly (sel : BitVec 2) (z : BitVec 1) (sr : BitVec 12) (a d : BitVec 5) :
    DecodesOnly (halvesOfWord (fmtSr sel z sr a d 31#7)) (decMajor0F sel z sr a d) := by
  unfold decMajor0F
  split
  case h_5 => exact decodesOnly_error _ _
  all_goals
    obtain rfl := eq_ofNat_of_toNat ‹sel.toNat = _›
    repeat (refine decodesOnly_accept_cons ?_; rintro rfl)
    exact decodesOnly_accept_nil rfl rfl
theorem decMajor10_decodesOnly (imm : BitVec 11) (la : BitVec 4) (a d : BitVec 5) :
    DecodesOnly (halvesOfWord (fmtM imm la a d 33#7)) (decMajor10 imm la a d) :=
  decodesOnly_accept_nil rfl rfl
theorem decMajor11_decodesOnly (imm : BitVec 11) (la : BitVec 4) (a d : BitVec 5) :
    DecodesOnly (halvesOfWord (fmtM imm la a d 35#7)) (decMajor11 imm la a d) :=
  decodesOnly_accept_nil rfl rfl
theorem decMajor12_decodesOnly (imm : BitVec 11) (la : BitVec 4) (a d : BitVec 5) :
    DecodesOnly (halvesOfWord (fmtM imm la a d 37#7)) (decMajor12 imm la a d) :=
  decodesOnly_accept_nil rfl rfl
theorem decMajor13_decodesOnly (imm : BitVec 11) (la : BitVec 4) (a d : BitVec 5) :
    DecodesOnly (halvesOfWord (fmtM imm la a d 39#7)) (decMajor13 imm la a d) :=
  decodesOnly_accept_nil rfl rfl
theorem decMajor14_decodesOnly (imm : BitVec 11) (la : BitVec 4) (a d : BitVec 5) :
    DecodesOnly (halvesOfWord (fmtM imm la a d 41#7)) (decMajor14 imm la a d) :=
  decodesOnly_accept_nil rfl rfl
theorem decMajor15_decodesOnly (imm : BitVec 11) (la : BitVec 4) (a d : BitVec 5) :
    DecodesOnly (halvesOfWord (fmtM imm la a d 43#7)) (decMajor15 imm la a d) :=
  decodesOnly_accept_nil rfl rfl
theorem decMajor16_decodesOnly (imm : BitVec 11) (la : BitVec 4) (a d : BitVec 5) :
    DecodesOnly (halvesOfWord (fmtM imm la a d 45#7)) (decMajor16 imm la a d) :=
  decodesOnly_accept_nil rfl rfl
theorem decMajor17_decodesOnly (imm : BitVec 11) (la : BitVec 4) (a d : BitVec 5) :
    DecodesOnly (halvesOfWord (fmtM imm la a d 47#7)) (decMajor17 imm la a d) :=
  decodesOnly_accept_cons (by rintro rfl; exact decodesOnly_accept_nil rfl rfl)
theorem decMajor18_decodesOnly (imm : BitVec 11) (la : BitVec 4) (a d : BitVec 5) :
    DecodesOnly (halvesOfWord (fmtM imm la a d 49#7)) (decMajor18 imm la a d) :=
  decodesOnly_accept_cons (by rintro rfl; exact decodesOnly_accept_nil rfl rfl)
theorem decMajor19_decodesOnly (imm : BitVec 11) (la : BitVec 4) (a d : BitVec 5) :
    DecodesOnly (halvesOfWord (fmtM imm la a d 51#7)) (decMajor19 imm la a d) :=
  decodesOnly_accept_cons (by rintro rfl; exact decodesOnly_accept_nil rfl rfl)
theorem decMajor1A_decodesOnly (imm : BitVec 11) (la : BitVec 4) (a d : BitVec 5) :
    DecodesOnly (halvesOfWord (fmtM imm la a d 53#7)) (decMajor1A imm la a d) :=
  decodesOnly_accept_cons (by rintro rfl; exact decodesOnly_accept_nil rfl rfl)
theorem decMajor1B_decodesOnly (fn : BitVec 3) (la : BitVec 4) (scope : BitVec 3) (b a d : BitVec 5) :
    DecodesOnly (halvesOfWord (fmtO fn la scope b a d 55#7)) (decMajor1B fn la scope b a d) := by
  unfold decMajor1B
  split
  case h_5 => exact decodesOnly_error _ _
  all_goals
    obtain rfl := eq_ofNat_of_toNat ‹fn.toNat = _›
    repeat (refine decodesOnly_accept_cons ?_; rintro rfl)
    exact decodesOnly_accept_nil rfl rfl
theorem decMajor1C_decodesOnly (fn : BitVec 3) (la : BitVec 4) (scope : BitVec 3) (b a d : BitVec 5) :
    DecodesOnly (halvesOfWord (fmtO fn la scope b a d 57#7)) (decMajor1C fn la scope b a d) := by
  unfold decMajor1C
  split
  case h_8 => exact decodesOnly_error _ _
  all_goals
    obtain rfl := eq_ofNat_of_toNat ‹fn.toNat = _›
    repeat (refine decodesOnly_accept_cons ?_; rintro rfl)
    exact decodesOnly_accept_nil rfl rfl
theorem decMajor1D_decodesOnly (sz : BitVec 1) (fn : BitVec 4) (ord : BitVec 2) (scope : BitVec 3) (b a d : BitVec 5) :
    DecodesOnly (halvesOfWord (fmtA sz fn ord scope b a d 59#7)) (decMajor1D sz fn ord scope b a d) := by
  unfold decMajor1D
  split
  case h_11 => exact decodesOnly_error _ _
  all_goals
    obtain rfl := eq_ofNat_of_toNat ‹fn.toNat = _›
    exact decodesOnly_accept_nil rfl rfl
theorem decMajor1E_decodesOnly (sz : BitVec 1) (fn : BitVec 4) (ord : BitVec 2) (scope : BitVec 3) (b a d : BitVec 5) :
    DecodesOnly (halvesOfWord (fmtA sz fn ord scope b a d 61#7)) (decMajor1E sz fn ord scope b a d) := by
  unfold decMajor1E
  split
  case h_5 => exact decodesOnly_error _ _
  all_goals
    obtain rfl := eq_ofNat_of_toNat ‹fn.toNat = _›
    repeat (refine decodesOnly_accept_cons ?_; rintro rfl)
    exact decodesOnly_accept_nil rfl rfl
theorem decMajor1F_decodesOnly (la : BitVec 4) (fn : BitVec 6) (kind : BitVec 2) (sc : BitVec 3) (a d : BitVec 5) :
    DecodesOnly (halvesOfWord (fmtSs la fn kind sc a d 63#7)) (decMajor1F la fn kind sc a d) := by
  unfold decMajor1F
  split
  case h_14 => exact decodesOnly_error _ _
  -- bar.init, bar.exp, bar.wait, bar.wait.try: b is joined from two fields
  case h_8 | h_11 | h_12 | h_13 =>
    obtain rfl := eq_ofNat_of_toNat ‹fn.toNat = _›
    repeat (refine decodesOnly_accept_cons ?_; rintro rfl)
    exact decodesOnly_accept_nil rfl (by rw [encode, field_high, field_low])
  all_goals
    obtain rfl := eq_ofNat_of_toNat ‹fn.toNat = _›
    repeat (refine decodesOnly_accept_cons ?_; rintro rfl)
    exact decodesOnly_accept_nil rfl rfl
theorem decMajor20_decodesOnly (la : BitVec 4) (fn : BitVec 6) (b a d : BitVec 5) :
    DecodesOnly (halvesOfWord (fmtS la fn b a d 65#7)) (decMajor20 la fn b a d) := by
  unfold decMajor20
  split
  case h_12 => exact decodesOnly_error _ _
  all_goals
    obtain rfl := eq_ofNat_of_toNat ‹fn.toNat = _›
    repeat (refine decodesOnly_accept_cons ?_; rintro rfl)
    exact decodesOnly_accept_nil rfl rfl
theorem decMajor21_decodesOnly (sel : BitVec 4) (code : BitVec 11) (a d : BitVec 5) :
    DecodesOnly (halvesOfWord (fmtTr sel code a d 67#7)) (decMajor21 sel code a d) := by
  unfold decMajor21
  split
  case h_8 => exact decodesOnly_error _ _
  all_goals
    obtain rfl := eq_ofNat_of_toNat ‹sel.toNat = _›
    repeat (refine decodesOnly_accept_cons ?_; rintro rfl)
    exact decodesOnly_accept_nil rfl rfl
theorem decMajor24_decodesOnly (fn : BitVec 4) (k : BitVec 3) (b a d : BitVec 6) :
    DecodesOnly (halvesOfWord (fmtV fn k b a d 73#7)) (decMajor24 fn k b a d) := by
  unfold decMajor24
  split
  case h_17 => exact decodesOnly_error _ _
  all_goals
    obtain rfl := eq_ofNat_of_toNat ‹fn.toNat = _›
    exact decodesOnly_accept_nil rfl rfl
theorem decMajor25_decodesOnly (fn : BitVec 4) (k : BitVec 3) (b a d : BitVec 6) :
    DecodesOnly (halvesOfWord (fmtV fn k b a d 75#7)) (decMajor25 fn k b a d) := by
  unfold decMajor25
  split
  case h_17 => exact decodesOnly_error _ _
  all_goals
    obtain rfl := eq_ofNat_of_toNat ‹fn.toNat = _›
    repeat (refine decodesOnly_accept_cons ?_; rintro rfl)
    exact decodesOnly_accept_nil rfl rfl
theorem decMajor26_decodesOnly (fn : BitVec 4) (k : BitVec 3) (b a d : BitVec 6) :
    DecodesOnly (halvesOfWord (fmtV fn k b a d 77#7)) (decMajor26 fn k b a d) := by
  unfold decMajor26
  split
  case h_17 => exact decodesOnly_error _ _
  all_goals
    obtain rfl := eq_ofNat_of_toNat ‹fn.toNat = _›
    repeat (refine decodesOnly_accept_cons ?_; rintro rfl)
    exact decodesOnly_accept_nil rfl rfl
theorem decMajor27_decodesOnly (fn : BitVec 4) (k : BitVec 3) (b a d : BitVec 6) :
    DecodesOnly (halvesOfWord (fmtV fn k b a d 79#7)) (decMajor27 fn k b a d) := by
  unfold decMajor27
  split
  case h_14 => exact decodesOnly_error _ _
  -- vwin: the register form, or the immediate form, whose count is joined from two fields
  case h_13 =>
    obtain rfl := eq_ofNat_of_toNat ‹fn.toNat = _›
    refine decodesOnly_ite (fun hk => ?_) (decodesOnly_ite (fun _ => ?_) (decodesOnly_error _ _))
    · refine decodesOnly_accept_cons ?_
      rintro rfl
      exact decodesOnly_accept_nil rfl (by rw [encode, field_high, field_low, join_of_high hk])
    · repeat (refine decodesOnly_accept_cons ?_; rintro rfl)
      exact decodesOnly_accept_nil rfl rfl
  all_goals
    obtain rfl := eq_ofNat_of_toNat ‹fn.toNat = _›
    repeat (refine decodesOnly_accept_cons ?_; rintro rfl)
    exact decodesOnly_accept_nil rfl rfl
theorem decMajor28_decodesOnly (k1en : BitVec 1) (c b a d : BitVec 6) :
    DecodesOnly (halvesOfWord (fmtV4 k1en c b a d 81#7)) (decMajor28 k1en c b a d) :=
  decodesOnly_accept_nil rfl rfl
theorem decMajor29_decodesOnly (k1en : BitVec 1) (c b a d : BitVec 6) :
    DecodesOnly (halvesOfWord (fmtV4 k1en c b a d 83#7)) (decMajor29 k1en c b a d) :=
  decodesOnly_accept_nil rfl rfl
theorem decMajor2A_decodesOnly (k1en : BitVec 1) (c b a d : BitVec 6) :
    DecodesOnly (halvesOfWord (fmtV4 k1en c b a d 85#7)) (decMajor2A k1en c b a d) :=
  decodesOnly_accept_nil rfl rfl
theorem decMajor2C_decodesOnly (mode ty k : BitVec 3) (x s : BitVec 5) (v : BitVec 6) :
    DecodesOnly (halvesOfWord (fmtVM mode ty k x s v 89#7)) (decMajor2C mode ty k x s v) := by
  unfold decMajor2C
  split
  case h_4 => exact decodesOnly_error _ _
  all_goals
    obtain rfl := eq_ofNat_of_toNat ‹mode.toNat = _›
    repeat (refine decodesOnly_accept_cons ?_; rintro rfl)
    exact decodesOnly_accept_nil rfl rfl
theorem decMajor2D_decodesOnly (mode ty k : BitVec 3) (x s : BitVec 5) (v : BitVec 6) :
    DecodesOnly (halvesOfWord (fmtVM mode ty k x s v 91#7)) (decMajor2D mode ty k x s v) := by
  unfold decMajor2D
  split
  case h_4 => exact decodesOnly_error _ _
  all_goals
    obtain rfl := eq_ofNat_of_toNat ‹mode.toNat = _›
    repeat (refine decodesOnly_accept_cons ?_; rintro rfl)
    exact decodesOnly_accept_nil rfl rfl
theorem decMajor2E_decodesOnly (mode ty k : BitVec 3) (x s : BitVec 5) (v : BitVec 6) :
    DecodesOnly (halvesOfWord (fmtVM mode ty k x s v 93#7)) (decMajor2E mode ty k x s v) := by
  unfold decMajor2E
  split
  case h_7 => exact decodesOnly_error _ _
  -- vqnt.peb7, vqnt.peb3
  case h_4 =>
    obtain rfl := eq_ofNat_of_toNat ‹mode.toNat = _›
    refine decodesOnly_ite ?_ (decodesOnly_ite ?_ (decodesOnly_error _ _))
    all_goals
      rintro rfl
      repeat (refine decodesOnly_accept_cons ?_; rintro rfl)
      exact decodesOnly_accept_nil rfl rfl
  all_goals
    obtain rfl := eq_ofNat_of_toNat ‹mode.toNat = _›
    repeat (refine decodesOnly_accept_cons ?_; rintro rfl)
    exact decodesOnly_accept_nil rfl rfl
theorem decMajor2F_decodesOnly (z1 : BitVec 4) (fn : BitVec 6) (z2 : BitVec 4) (a : BitVec 5) (v : BitVec 6) :
    DecodesOnly (halvesOfWord (fmtSB z1 fn z2 a v 95#7)) (decMajor2F z1 fn z2 a v) := by
  unfold decMajor2F
  split
  case h_4 => exact decodesOnly_error _ _
  all_goals
    obtain rfl := eq_ofNat_of_toNat ‹fn.toNat = _›
    repeat (refine decodesOnly_accept_cons ?_; rintro rfl)
    exact decodesOnly_accept_nil rfl rfl
theorem decMajor30_decodesOnly (fn : BitVec 5) (kind tc tb ta td : BitVec 4) :
    DecodesOnly (halvesOfWord (fmtT fn kind tc tb ta td 97#7)) (decMajor30 fn kind tc tb ta td) := by
  unfold decMajor30
  split
  case h_14 => exact decodesOnly_error _ _
  all_goals obtain rfl := eq_ofNat_of_toNat ‹fn.toNat = _›
  case h_1 => -- mma, mma.dc
    refine decodesOnly_ite (fun _ => ?_) (decodesOnly_ite (fun h0 => ?_) (decodesOnly_error _ _))
    · repeat (refine decodesOnly_accept_cons ?_; rintro rfl)
      exact decodesOnly_accept_nil rfl rfl
    · refine decodesOnly_accept_cons fun h2 => decodesOnly_accept_cons ?_
      rintro rfl
      have hk : 0#2 ++ kind.extractLsb' 1 1 ++ 1#1 = kind := by
        rw [← h2, ← h0]
        simp only [BitVec.extractLsb'_append_extractLsb'_eq_extractLsb']
        exact BitVec.extractLsb'_eq_self
      exact decodesOnly_accept_nil rfl (by rw [encode, hk])
  case h_2 => -- mmab
    refine decodesOnly_accept_cons fun h2 => decodesOnly_accept_cons ?_
    rintro rfl
    exact decodesOnly_accept_nil rfl (by rw [encode, join_of_high h2])
  case h_6 => -- mscl
    refine decodesOnly_accept_cons ?_
    rintro rfl
    refine decodesOnly_accept_cons fun h1 => ?_
    exact decodesOnly_accept_nil rfl (by rw [encode, field_high, field_low, join_of_high h1])
  case h_8 => -- mcvt
    refine decodesOnly_accept_cons fun h3 => decodesOnly_accept_cons ?_
    rintro rfl
    exact decodesOnly_accept_nil rfl (by rw [encode, join_of_high h3])
  case h_9 => -- mtrn
    refine decodesOnly_accept_cons ?_
    rintro rfl
    refine decodesOnly_accept_cons fun h1 => decodesOnly_accept_cons ?_
    rintro rfl
    exact decodesOnly_accept_nil rfl (by rw [encode, join_of_high h1])
  case h_11 => -- mtrsv
    refine decodesOnly_accept_cons fun h2 => decodesOnly_accept_cons fun h2' => decodesOnly_accept_cons ?_
    rintro rfl
    exact decodesOnly_accept_nil rfl
      (by rw [encode, field_high, field_low, join_of_high h2, join_of_high h2'])
  case h_12 => -- mstat
    refine decodesOnly_accept_cons ?_
    rintro rfl
    refine decodesOnly_accept_cons fun h1 => decodesOnly_accept_cons ?_
    rintro rfl
    exact decodesOnly_accept_nil rfl (by rw [encode, field_high, field_low, join_of_high h1])
  case h_13 => -- twin
    refine decodesOnly_ite ?_ (decodesOnly_ite ?_ (decodesOnly_error _ _))
    all_goals
      rintro rfl
      refine decodesOnly_accept_cons fun h1 => ?_
      repeat (refine decodesOnly_accept_cons ?_; rintro rfl)
      exact decodesOnly_accept_nil rfl (by rw [encode, field_high, field_low, join_of_high h1])
  all_goals
    repeat (refine decodesOnly_accept_cons ?_; rintro rfl)
    exact decodesOnly_accept_nil rfl rfl
theorem decMajor31_decodesOnly (z : BitVec 7) (tag : BitVec 4) (stride s : BitVec 5) (d : BitVec 4) :
    DecodesOnly (halvesOfWord (fmtTM z tag stride s d 99#7)) (decMajor31 z tag stride s d) :=
  decodesOnly_accept_cons (by rintro rfl; exact decodesOnly_accept_nil rfl rfl)
theorem decMajor32_decodesOnly (z : BitVec 7) (tag : BitVec 4) (stride s : BitVec 5) (d : BitVec 4) :
    DecodesOnly (halvesOfWord (fmtTM z tag stride s d 101#7)) (decMajor32 z tag stride s d) :=
  decodesOnly_accept_cons (by rintro rfl; exact decodesOnly_accept_nil rfl rfl)
theorem decMajor33_decodesOnly (fn c b a d : BitVec 5) :
    DecodesOnly (halvesOfWord (fmtC fn c b a d 103#7)) (decMajor33 fn c b a d) := by
  unfold decMajor33
  split
  case h_9 => exact decodesOnly_error _ _
  all_goals
    obtain rfl := eq_ofNat_of_toNat ‹fn.toNat = _›
    repeat (refine decodesOnly_accept_cons ?_; rintro rfl)
    exact decodesOnly_accept_nil rfl rfl

theorem decCompact_decodesOnly (m : BitVec 1) (b d : BitVec 5) (op4 : BitVec 4) :
    DecodesOnly [fmtCompact m b d op4] (decCompact m b d op4) := by
  unfold decCompact
  split
  case h_16 =>
    obtain rfl : op4 = 15#4 := by revert op4; decide
    exact decodesOnly_accept_nil rfl rfl
  all_goals
    obtain rfl := eq_ofNat_of_toNat ‹op4.toNat = _›
    exact decodesOnly_accept_nil rfl rfl

/-! ### Words, halfwords and bytes (R58, R60, R63) -/

/-- A word whose op field is `k` is its layout `f` at that field, and what decodes from the one decodes from the other. -/
theorem DecodesOnly.of_fields {w : BitVec 32} {k : Nat} {f : BitVec 7 → BitVec 32} {r : Except DecodeError Instr}
    (hw : f (w.extractLsb' 0 7) = w) (hop : (w.extractLsb' 0 7).toNat = k)
    (h : DecodesOnly (halvesOfWord (f (BitVec.ofNat 7 k))) r) : DecodesOnly (halvesOfWord w) r := by
  rwa [← eq_ofNat_of_toNat hop, hw] at h

theorem decodeWord_decodesOnly (w : BitVec 32) : DecodesOnly (halvesOfWord w) (decodeWord w) := by
  unfold decodeWord
  split
  · next hop => exact .of_fields (fmtS_fields w) hop (decMajor00_decodesOnly ..)
  · next hop => exact .of_fields (fmtI_fields w) hop (decMajor01_decodesOnly ..)
  · next hop => exact .of_fields (fmtI_fields w) hop (decMajor02_decodesOnly ..)
  · next hop => exact .of_fields (fmtI_fields w) hop (decMajor03_decodesOnly ..)
  · next hop => exact .of_fields (fmtI_fields w) hop (decMajor04_decodesOnly ..)
  · next hop => exact .of_fields (fmtI_fields w) hop (decMajor05_decodesOnly ..)
  · next hop => exact .of_fields (fmtI_fields w) hop (decMajor06_decodesOnly ..)
  · next hop => exact .of_fields (fmtI_fields w) hop (decMajor07_decodesOnly ..)
  · next hop => exact .of_fields (fmtSh_fields w) hop (decMajor08_decodesOnly ..)
  · next hop => exact .of_fields (fmtBf_fields w) hop (decMajor09_decodesOnly ..)
  · next hop => exact .of_fields (fmtU_fields w) hop (decMajor0A_decodesOnly ..)
  · next hop => exact .of_fields (fmtU_fields w) hop (decMajor0B_decodesOnly ..)
  · next hop => exact .of_fields (fmtB_fields w) hop (decMajor0C_decodesOnly ..)
  · next hop => exact .of_fields (fmtJ_fields w) hop (decMajor0D_decodesOnly ..)
  · next hop => exact .of_fields (fmtI_fields w) hop (decMajor0E_decodesOnly ..)
  · next hop => exact .of_fields (fmtSr_fields w) hop (decMajor0F_decodesOnly ..)
  · next hop => exact .of_fields (fmtM_fields w) hop (decMajor10_decodesOnly ..)
  · next hop => exact .of_fields (fmtM_fields w) hop (decMajor11_decodesOnly ..)
  · next hop => exact .of_fields (fmtM_fields w) hop (decMajor12_decodesOnly ..)
  · next hop => exact .of_fields (fmtM_fields w) hop (decMajor13_decodesOnly ..)
  · next hop => exact .of_fields (fmtM_fields w) hop (decMajor14_decodesOnly ..)
  · next hop => exact .of_fields (fmtM_fields w) hop (decMajor15_decodesOnly ..)
  · next hop => exact .of_fields (fmtM_fields w) hop (decMajor16_decodesOnly ..)
  · next hop => exact .of_fields (fmtM_fields w) hop (decMajor17_decodesOnly ..)
  · next hop => exact .of_fields (fmtM_fields w) hop (decMajor18_decodesOnly ..)
  · next hop => exact .of_fields (fmtM_fields w) hop (decMajor19_decodesOnly ..)
  · next hop => exact .of_fields (fmtM_fields w) hop (decMajor1A_decodesOnly ..)
  · next hop => exact .of_fields (fmtO_fields w) hop (decMajor1B_decodesOnly ..)
  · next hop => exact .of_fields (fmtO_fields w) hop (decMajor1C_decodesOnly ..)
  · next hop => exact .of_fields (fmtA_fields w) hop (decMajor1D_decodesOnly ..)
  · next hop => exact .of_fields (fmtA_fields w) hop (decMajor1E_decodesOnly ..)
  · next hop => exact .of_fields (fmtSs_fields w) hop (decMajor1F_decodesOnly ..)
  · next hop => exact .of_fields (fmtS_fields w) hop (decMajor20_decodesOnly ..)
  · next hop => exact .of_fields (fmtTr_fields w) hop (decMajor21_decodesOnly ..)
  · next hop => exact .of_fields (fmtV_fields w) hop (decMajor24_decodesOnly ..)
  · next hop => exact .of_fields (fmtV_fields w) hop (decMajor25_decodesOnly ..)
  · next hop => exact .of_fields (fmtV_fields w) hop (decMajor26_decodesOnly ..)
  · next hop => exact .of_fields (fmtV_fields w) hop (decMajor27_decodesOnly ..)
  · next hop => exact .of_fields (fmtV4_fields w) hop (decMajor28_decodesOnly ..)
  · next hop => exact .of_fields (fmtV4_fields w) hop (decMajor29_decodesOnly ..)
  · next hop => exact .of_fields (fmtV4_fields w) hop (decMajor2A_decodesOnly ..)
  · next hop => exact .of_fields (fmtVM_fields w) hop (decMajor2C_decodesOnly ..)
  · next hop => exact .of_fields (fmtVM_fields w) hop (decMajor2D_decodesOnly ..)
  · next hop => exact .of_fields (fmtVM_fields w) hop (decMajor2E_decodesOnly ..)
  · next hop => exact .of_fields (fmtSB_fields w) hop (decMajor2F_decodesOnly ..)
  · next hop => exact .of_fields (fmtT_fields w) hop (decMajor30_decodesOnly ..)
  · next hop => exact .of_fields (fmtTM_fields w) hop (decMajor31_decodesOnly ..)
  · next hop => exact .of_fields (fmtTM_fields w) hop (decMajor32_decodesOnly ..)
  · next hop => exact .of_fields (fmtC_fields w) hop (decMajor33_decodesOnly ..)
  · exact decodesOnly_error _ _

/-- The field of bit 0 alone. -/
theorem field_bit0 {n : Nat} {x : BitVec n} {v : Bool} (h : x.getLsbD 0 = v) : x.extractLsb' 0 1 = BitVec.ofBool v := by
  apply BitVec.eq_of_getLsbD_eq
  intro j hj
  obtain rfl : j = 0 := by omega
  simpa using h

theorem halvesOfWord_append (h h2 : BitVec 16) : halvesOfWord (h2 ++ h) = [h, h2] := by
  rw [halvesOfWord, field_low, field_high]

theorem fmtCompact_fields {h : BitVec 16} (h0 : h.getLsbD 0 = false) :
    fmtCompact (h.extractLsb' 15 1) (h.extractLsb' 10 5) (h.extractLsb' 5 5) (h.extractLsb' 1 4) = h := by
  rw [fmtCompact, show 0#1 = BitVec.ofBool false from rfl, ← field_bit0 h0]
  simp only [BitVec.extractLsb'_append_extractLsb'_eq_extractLsb']
  exact BitVec.extractLsb'_eq_self

theorem decodeHalf_decodesOnly {h : BitVec 16} (h0 : h.getLsbD 0 = false) : DecodesOnly [h] (decodeHalf h) := by
  have := decCompact_decodesOnly (h.extractLsb' 15 1) (h.extractLsb' 10 5) (h.extractLsb' 5 5) (h.extractLsb' 1 4)
  rwa [fmtCompact_fields h0] at this

/-- Halfwords that decode begin with the encoding of the instruction, and it is what was taken of them. -/
theorem decodeHalves_eq_ok {hs : List (BitVec 16)} {i : Instr} {n : Nat} (h : decodeHalves hs = .ok (i, n)) :
    i.wf = true ∧ i.isEvent = false ∧ n = (encode i).length ∧ ∃ tail, hs = encode i ++ tail := by
  match hs with
  | [] => nomatch h
  | h1 :: rest =>
    simp only [decodeHalves] at h
    split at h
    · match rest with
      | [] => nomatch h
      | h2 :: tail =>
        dsimp only at h
        split at h
        · next j hj =>
          obtain ⟨rfl, rfl⟩ : j = i ∧ 2 = n := by simpa using h
          obtain ⟨hw, he, hc⟩ := (decodeWord_decodesOnly _).only _ hj
          rw [halvesOfWord_append] at hc
          exact ⟨hw, he, by rw [hc]; rfl, tail, by rw [hc]; rfl⟩
        · nomatch h
    · next h0 =>
      split at h
      · next j hj =>
        obtain ⟨rfl, rfl⟩ : j = i ∧ 1 = n := by simpa using h
        obtain ⟨hw, he, hc⟩ := (decodeHalf_decodesOnly (Bool.eq_false_iff.mpr h0)).only _ hj
        exact ⟨hw, he, by rw [hc]; rfl, rest, by rw [hc]; rfl⟩
      · nomatch h

/-- Bytes whose halfwords begin with `hs` begin with the bytes of `hs`. -/
theorem bytes_of_halvesOfBytes {bs : List (BitVec 8)} {hs tail : List (BitVec 16)} (h : halvesOfBytes bs = hs ++ tail) :
    bs = hs.flatMap bytesOfHalf ++ bs.drop (2 * hs.length) := by
  induction hs generalizing bs with
  | nil => simp
  | cons h1 hs ih =>
    match bs with
    | [] | [_] => nomatch h
    | a :: b :: rest =>
      obtain ⟨rfl, hr⟩ := List.cons.inj h
      have hb : bytesOfHalf (b ++ a) = [a, b] := by rw [bytesOfHalf, field_low, field_high]
      rw [List.flatMap_cons, hb, List.length_cons, Nat.mul_succ]
      exact congrArg (a :: b :: ·) (ih hr)

theorem decode_eq_ok {bs rest : List (BitVec 8)} {i : Instr} (h : decode bs = .ok (i, rest)) :
    i.wf = true ∧ i.isEvent = false ∧ bs = encodeBytes i ++ rest := by
  unfold decode at h
  split at h
  · next j n hj =>
    obtain ⟨rfl, rfl⟩ : j = i ∧ bs.drop (2 * n) = rest := by simpa using h
    obtain ⟨hw, he, rfl, tail, ht⟩ := decodeHalves_eq_ok hj
    exact ⟨hw, he, bytes_of_halvesOfBytes ht⟩
  · nomatch h

/-! ### Which halfwords and words decode (R64, R65) -/

theorem decodeHalf_zero : decodeHalf 0 = .error .zeroHalfword := rfl

/-- The compact forms have no check of their own but that of the halfword 0. -/
theorem decCompact_ok {m : BitVec 1} {b d : BitVec 5} {op4 : BitVec 4}
    (h : op4.toNat = 0 → ¬(d.toNat = 0 ∧ b.toNat = 0 ∧ m.toNat = 0)) : ∃ i, decCompact m b d op4 = .ok i := by
  unfold decCompact
  split
  case h_1 h0 => exact ⟨_, accept_ok (by simp only [Instr.checks, decide_eq_true (h h0)]; rfl)⟩
  all_goals exact ⟨_, accept_ok rfl⟩

theorem decodeHalf_ok_iff {h : BitVec 16} (h0 : h.getLsbD 0 = false) : (∃ i, decodeHalf h = .ok i) ↔ h ≠ 0 := by
  constructor
  · rintro ⟨i, hi⟩ rfl
    rw [decodeHalf_zero] at hi
    nomatch hi
  · intro hne
    refine decCompact_ok fun hop ⟨hd, hb, hm⟩ => hne ?_
    rw [← fmtCompact_fields h0, eq_ofNat_of_toNat hop, eq_ofNat_of_toNat hd, eq_ofNat_of_toNat hb, eq_ofNat_of_toNat hm]
    rfl

theorem decodeHalves_half_ok_iff {h : BitVec 16} (h0 : h.getLsbD 0 = false) :
    (∃ i, decodeHalves [h] = .ok (i, 1)) ↔ h ≠ 0 := by
  rw [← decodeHalf_ok_iff h0]
  simp only [decodeHalves, h0, Bool.false_eq_true, if_false]
  cases decodeHalf h <;> simp

/-- The op field of a word whose bit 0 is set is its major opcode, with that bit below it. -/
theorem opField_toNat {w : BitVec 32} (h0 : w.getLsbD 0 = true) :
    (w.extractLsb' 0 7).toNat = 2 * (w.extractLsb' 1 6).toNat + 1 := by
  have hw : w.extractLsb' 0 7 = w.extractLsb' 1 6 ++ 1#1 := by
    rw [show 1#1 = BitVec.ofBool true from rfl, ← field_bit0 h0]
    exact (BitVec.extractLsb'_append_extractLsb'_eq_extractLsb' (len₁ := 1) (len₂ := 6) rfl).symm
  rw [hw, BitVec.toNat_append, ← Nat.shiftLeft_add_eq_or_of_lt (by decide), Nat.shiftLeft_eq, Nat.mul_comm]
  rfl

/-- The majors that no list of R65 gives a function. -/
theorem decodeWord_reserved {w : BitVec 32} (h0 : w.getLsbD 0 = true)
    (hm : w.extractLsb' 1 6 ∈ [0x22#6, 0x23, 0x2B, 0x34, 0x35, 0x36, 0x37, 0x38, 0x39, 0x3A, 0x3B, 0x3C, 0x3D, 0x3E,
      0x3F]) :
    decodeWord w = .error .reservedMajor := by
  have hop := opField_toNat h0
  generalize w.extractLsb' 1 6 = m at hm hop
  simp only [List.mem_cons, List.not_mem_nil, or_false] at hm
  rcases hm with rfl | rfl | rfl | rfl | rfl | rfl | rfl | rfl | rfl | rfl | rfl | rfl | rfl | rfl | rfl <;>
    rw [decodeWord, hop] <;> rfl

/-! ### Encoding and decoding (R58) -/

namespace Laws.RoundTrip

/-- Every instruction has its round trip; a step of another agent has no encoding. -/
theorem statement (i : Instr) : Statement i := by
  cases i with
  | add => exact add _ _ _ | sub => exact sub _ _ _ | and => exact and _ _ _ | or => exact or _ _ _
  | xor => exact xor _ _ _ | andn => exact andn _ _ _ | orn => exact orn _ _ _ | shl => exact shl _ _ _
  | shr => exact shr _ _ _ | sar => exact sar _ _ _ | rol => exact rol _ _ _ | ror => exact ror _ _ _
  | mul => exact mul _ _ _ | mulh => exact mulh _ _ _ _ | mulhu => exact mulhu _ _ _ _ | div => exact div _ _ _ _
  | divu => exact divu _ _ _ _ | rem => exact rem _ _ _ _ | remu => exact remu _ _ _ _ | min => exact min _ _ _
  | max => exact max _ _ _ | minu => exact minu _ _ _ | maxu => exact maxu _ _ _ | slt => exact slt _ _ _
  | sltu => exact sltu _ _ _ | seq => exact seq _ _ _ | sel => exact sel _ _ _ | clz => exact clz _ _
  | ctz => exact ctz _ _ | popc => exact popc _ _ | brev => exact brev _ _ | bswap => exact bswap _ _
  | sextb => exact sextb _ _ | sexth => exact sexth _ _ | sextw => exact sextw _ _ | addi => exact addi _ _ _
  | andi => exact andi _ _ _ | ori => exact ori _ _ _ | xori => exact xori _ _ _ | slti => exact slti _ _ _
  | sltiu => exact sltiu _ _ _ | muli => exact muli _ _ _ | shli => exact shli _ _ _ | shri => exact shri _ _ _
  | sari => exact sari _ _ _ | bext => exact bext _ _ _ _ | bins => exact bins _ _ _ _ | lui => exact lui _ _
  | adpc => exact adpc _ _ | beq => exact beq _ _ _ | bne => exact bne _ _ _ | blt => exact blt _ _ _
  | bge => exact bge _ _ _ | bltu => exact bltu _ _ _ | bgeu => exact bgeu _ _ _ | jal => exact jal _ _
  | jalr => exact jalr _ _ _ | mfs => exact mfs _ _ | mts => exact mts _ _ | mtsset => exact mtsset _ _
  | mtsclr => exact mtsclr _ _ | ldb => exact ldb _ _ _ _ | ldbu => exact ldbu _ _ _ _ | ldh => exact ldh _ _ _ _
  | ldhu => exact ldhu _ _ _ _ | ldw => exact ldw _ _ _ _ | ldwu => exact ldwu _ _ _ _ | ldd => exact ldd _ _ _ _
  | stb => exact stb _ _ _ | sth => exact sth _ _ _ | stw => exact stw _ _ _ | std => exact std _ _ _
  | ldaD => exact ldaD _ _ _ _ | ldaW => exact ldaW _ _ _ _ | stlD => exact stlD _ _ _ | stlW => exact stlW _ _ _
  | lde => exact lde _ _ _ | ldx => exact ldx _ _ _ | stf => exact stf _ _ | sto => exact sto _ _
  | ldeTry => exact ldeTry _ _ _ | ldxTry => exact ldxTry _ _ _ | stfTry => exact stfTry _ _ _
  | amoAdd => exact amoAdd _ _ _ _ _ _ | amoAnd => exact amoAnd _ _ _ _ _ _ | amoOr => exact amoOr _ _ _ _ _ _
  | amoXor => exact amoXor _ _ _ _ _ _ | amoMin => exact amoMin _ _ _ _ _ _ | amoMax => exact amoMax _ _ _ _ _ _
  | amoMinu => exact amoMinu _ _ _ _ _ _ | amoMaxu => exact amoMaxu _ _ _ _ _ _ | amoSwp => exact amoSwp _ _ _ _ _ _
  | cas => exact cas _ _ _ _ _ _ | accsI32 => exact accsI32 _ _ | accsI64 => exact accsI64 _ _
  | accsF32 => exact accsF32 _ _ | accsF64 => exact accsF64 _ _ | fence => exact fence _ _ | wbr => exact wbr _ _ _
  | invr => exact invr _ _ _ | flr => exact flr _ _ _ | drain => exact drain _ | barInit => exact barInit _ _
  | barArv => exact barArv _ _ | barDrop => exact barDrop _ _ | barExp => exact barExp _ _
  | barWait => exact barWait _ _ | barWaitTry => exact barWaitTry _ _ _ | fpub => exact fpub _ _
  | spawn => exact spawn _ _ | syncTry => exact syncTry _ | launch => exact launch _ _ | donate => exact donate _ _
  | dtake => exact dtake _ _ _ | dtakeTry => exact dtakeTry _ _ _ | dqstat => exact dqstat _ _ | trap => exact trap _
  | brk => exact brk _ | tlbi => exact tlbi _ | tlbia => exact tlbia _ | vadd => exact vadd _ _ _ _
  | vsub => exact vsub _ _ _ _ | vmul => exact vmul _ _ _ _ | vmulh => exact vmulh _ _ _ _
  | vand => exact vand _ _ _ _ | vor => exact vor _ _ _ _ | vxor => exact vxor _ _ _ _ | vandn => exact vandn _ _ _ _
  | vshl => exact vshl _ _ _ _ | vshr => exact vshr _ _ _ _ | vsar => exact vsar _ _ _ _ | vmin => exact vmin _ _ _ _
  | vmax => exact vmax _ _ _ _ | vminu => exact vminu _ _ _ _ | vmaxu => exact vmaxu _ _ _ _
  | vsel => exact vsel _ _ _ _ | vcmpEq => exact vcmpEq _ _ _ _ | vcmpNe => exact vcmpNe _ _ _ _
  | vcmpLt => exact vcmpLt _ _ _ _ | vcmpGe => exact vcmpGe _ _ _ _ | vcmpLtu => exact vcmpLtu _ _ _ _
  | vcmpGeu => exact vcmpGeu _ _ _ _ | vredadd => exact vredadd _ _ _ | vredmin => exact vredmin _ _ _
  | vredmax => exact vredmax _ _ _ | vperm => exact vperm _ _ _ _ | vslideup => exact vslideup _ _ _ _
  | vslidedn => exact vslidedn _ _ _ _ | vbcast => exact vbcast _ _ _ | vins => exact vins _ _ _ _
  | vext => exact vext _ _ _ _ | vmov => exact vmov _ _ _ | fadd => exact fadd _ _ _ _ | fsub => exact fsub _ _ _ _
  | fmul => exact fmul _ _ _ _ | fdiv => exact fdiv _ _ _ _ | fsqrt => exact fsqrt _ _ _ | fmin => exact fmin _ _ _ _
  | fmax => exact fmax _ _ _ _ | fabs => exact fabs _ _ _ | fneg => exact fneg _ _ _ | fcmpEq => exact fcmpEq _ _ _ _
  | fcmpLt => exact fcmpLt _ _ _ _ | fcmpLe => exact fcmpLe _ _ _ _ | fcmpUn => exact fcmpUn _ _ _ _
  | fclass => exact fclass _ _ _ | fscl => exact fscl _ _ _ _ | fround => exact fround _ _ _
  | fcvtFi => exact fcvtFi _ _ _ | fcvtIf => exact fcvtIf _ _ _ | fredsum => exact fredsum _ _ _
  | fredmax => exact fredmax _ _ _ | fredmin => exact fredmin _ _ _ | fdot => exact fdot _ _ _ _
  | kand => exact kand _ _ _ | kor => exact kor _ _ _ | kxor => exact kxor _ _ _ | knot => exact knot _ _
  | kfs => exact kfs _ _ | ksf => exact ksf _ _ | vwinImm => exact vwinImm _ _ | vwinReg => exact vwinReg _ _
  | ffma => exact ffma _ _ _ _ _ | ffms => exact ffms _ _ _ _ _ | fnma => exact fnma _ _ _ _ _
  | vldUnit => exact vldUnit _ _ _ _ | vldStrided => exact vldStrided _ _ _ _ _
  | vldGather => exact vldGather _ _ _ _ _ | vstUnit => exact vstUnit _ _ _ _
  | vstStrided => exact vstStrided _ _ _ _ _ | vstScatter => exact vstScatter _ _ _ _ _ | vldd => exact vldd _ _ _ _
  | vstd => exact vstd _ _ _ _ | vstdp => exact vstdp _ _ _ _ | vqntPeb7 => exact vqntPeb7 _ _
  | vqntPeb3 => exact vqntPeb3 _ _ | acc => exact acc _ _ _ _ | accD => exact accD _ _ _ _ | sbind => exact sbind _ _
  | sunbind => exact sunbind _ | sstat => exact sstat _ _ | mma => exact mma _ _ _ | mmaDc => exact mmaDc _ _ _ _
  | mmab => exact mmab _ _ _ _ | mmas => exact mmas _ _ _ _ | maddt => exact maddt _ _ _ | msubt => exact msubt _ _ _
  | mscl => exact mscl _ _ _ | mzero => exact mzero _ _ | mcvt => exact mcvt _ _ _ _ | mtrn => exact mtrn _ _ _
  | mchol => exact mchol _ _ | mtrsv => exact mtrsv _ _ _ | mstat => exact mstat _ _ | twinImm => exact twinImm _
  | twinReg => exact twinReg _ | mldt => exact mldt _ _ _ _ | mstt => exact mstt _ _ _ _ | cpy => exact cpy _ _ _ _
  | cpyt => exact cpyt _ _ _ _ | cpym => exact cpym _ _ _ _ | ibxRecv => exact ibxRecv _ _
  | ibxTry => exact ibxTry _ _ | swpout => exact swpout _ _ _ _ | swpin => exact swpin _ _ _ _
  | swpstat => exact swpstat _ _ _ | cVadd => exact cVadd _ _ _ | cVsub => exact cVsub _ _ _
  | cVand => exact cVand _ _ _ | cVor => exact cVor _ _ _ | cVxor => exact cVxor _ _ _ | cVshl => exact cVshl _ _ _
  | cVshr => exact cVshr _ _ _ | cVmin => exact cVmin _ _ _ | cVmax => exact cVmax _ _ _ | cFadd => exact cFadd _ _ _
  | cFsub => exact cFsub _ _ _ | cFmul => exact cFmul _ _ _ | cFmin => exact cFmin _ _ _ | cFmax => exact cFmax _ _ _
  | cFneg => exact cFneg _ _ _ | cFabs => exact cFabs _ _ _ | flushr => exact flushr | ifence => exact ifence
  | sync => exact sync | tend => exact tend | yield => exact yield | rett => exact rett | replay => exact replay
  | wfi => exact wfi
  | _ => exact fun _ h => nomatch h

end Laws.RoundTrip

/-- The bytes of an instruction decode to it, and what follows them is left. -/
theorem decode_encodeBytes {i : Instr} (rest : List Byte) (hw : i.wf = true) (he : i.isEvent = false) :
    decode (encodeBytes i ++ rest) = .ok (i, rest) := by
  have hd : (encodeBytes i ++ rest).drop (2 * (encode i).length) = rest := by
    rw [encodeBytes, ← flatMap_bytesOfHalf_length, List.drop_left]
  rw [decode, encodeBytes, halvesOfBytes_flatMap, Laws.RoundTrip.statement i hw he]
  exact congrArg (fun r => Except.ok (i, r)) hd

end Sys2Proof
end

section
/-!
PROOFS. The statements of the encodings (chapter 03), from the round trip of each instruction and its converse.
-/
open Sys2Proof

/-- Settles O1: the halfwords of each instruction decode to it, whatever follows, and bytes are halfwords. -/
theorem decodeEncode : Obligations.DecodeEncode := by
  unfold Obligations.DecodeEncode
  exact fun _ rest hw he => decode_encodeBytes rest hw he

/-- Settles O2: what a major's function accepts is the encoding of its answer, and the codes without a function are
refused. -/
theorem encodeDecode : Obligations.EncodeDecode := by
  unfold Obligations.EncodeDecode
  refine ⟨fun _ _ _ h => decode_eq_ok h, fun _ h0 => decodeHalves_half_ok_iff h0, fun _ h0 hm i hi => ?_⟩
  rw [decodeWord_reserved h0 hm] at hi
  nomatch hi

/-- Settles O3: the decoder evaluated on each word. -/
theorem decodeWords : Obligations.DecodeWords := by
  unfold Obligations.DecodeWords
  decide
end

section
/-!
PROOFS. Illegal instructions (R70, R143, R213, R214, R399, R419, R427): what raises ILL, and in which state. And the end of
an issue on a slot that a debugger steps (R438).
-/
namespace Sys2Proof.Machine

/-! ### Accesses to special registers (R213 to R215) -/

theorem State.sprBad_iff (s : State) (sr : BitVec 12) : s.sprBad sr = true ↔ ¬sprReachable s sr := by
  simp only [State.sprBad, sprReachable, Bool.or_eq_true, Bool.and_eq_true, Bool.not_eq_true', decide_eq_true_eq]
  rw [Classical.not_and_iff_not_or_not, not_or, Bool.not_eq_true, Nat.not_lt, Bool.not_eq_true]

/-- The instructions that name a special register. -/
theorem sprNamed_eq_some {i : Instr} {sr : BitVec 12} (h : sprNamed i = some sr) :
    ∃ r, i = .mfs r sr ∨ i = .mts r sr ∨ i = .mtsset r sr ∨ i = .mtsclr r sr := by
  cases i with
  | mfs r _ | mts r _ | mtsset r _ | mtsclr r _ =>
    obtain rfl := Option.some.inj h
    exact ⟨r, by simp⟩
  | _ => nomatch h

/-- An id that the slot's level does not reach raises ILL before anything else (R70, R213). -/
theorem exec_spr_unreachable {i : Instr} {s : State} {sr : BitVec 12} (h : sprNamed i = some sr)
    (hr : ¬sprReachable s sr) : exec i s = .next (s.ill i) := by
  have hb := (s.sprBad_iff sr).mpr hr
  obtain ⟨r, rfl | rfl | rfl | rfl⟩ := sprNamed_eq_some h
  all_goals exact if_pos hb

/-- The wait for wide instructions leaves the current slot and its level. -/
theorem sprState_me (s : State) (sr : BitVec 12) :
    (sprState s sr).cur = s.cur ∧ (sprState s sr).me.sup = s.me.sup := by
  unfold sprState
  split
  · have hd := s.drainWide_done s.cur
    refine ⟨hd.cur, ?_⟩
    rw [State.me, hd.cur, State.me, ← hd.slot s.cur]
  · exact ⟨rfl, rfl⟩

theorem State.sprWrite_refused {s : State} (i : Instr) {sr : BitVec 12} {v : Word}
    (h : s.writeSpr s.cur s.me.sup sr.toNat v = none) : s.sprWrite i sr v = s.ill i := by
  rw [State.sprWrite, h]

/-- A value that the register refuses raises ILL once the access has waited (R213, R215). -/
theorem exec_spr_refused {i : Instr} {s : State} {sr : BitVec 12} {v : Word} (h : sprNamed i = some sr)
    (hr : sprReachable s sr) (hv : sprWritten i (sprState s sr) = some (sr, v))
    (hw : (sprState s sr).writeSpr s.cur s.me.sup sr.toNat v = none) : exec i s = .next ((sprState s sr).ill i) := by
  have hb : ¬s.sprBad sr = true := by rw [State.sprBad_iff, Classical.not_not]; exact hr
  obtain ⟨hc, hs⟩ := sprState_me s sr
  have hill : (sprState s sr).sprWrite i sr v = (sprState s sr).ill i := State.sprWrite_refused i (by rw [hc, hs]; exact hw)
  obtain ⟨r, rfl | rfl | rfl | rfl⟩ := sprNamed_eq_some h
  · nomatch hv
  all_goals
    obtain rfl : _ = v := congrArg Prod.snd (Option.some.inj hv)
    exact (if_neg hb).trans (congrArg Host.Outcome.next hill)

/-! ### Instructions that a trap handler may not issue (R143, R399, R427) -/

theorem exec_forbiddenInHandler {i : Instr} {s : State} (hi : forbiddenInHandler i = true) (hh : s.me.inHandler = true) :
    exec i s = .next (s.ill i) := by
  cases i with
  | lde | ldx | stf | barWait | fpub | spawn | sync | tend | yield | dtake | wfi | ibxRecv => exact if_pos hh
  | _ => nomatch hi

/-! ### The end of an issue on a stepped slot (R438) -/

/-- A slot that a debugger steps, and whose vector load is still in the wide queue of its core. -/
def steppedWithLoad : State :=
  { State.reset with
    dstate := 2
    slots := [(0, { mode := .running, stepOne := true, vcount := 1, pc := 0x1000 })]
    cores := [(0, { wideq := [{ tid := 0, vd := 0, cls := 0, lanes := [(0, 1)], act := 1, flags := 0 }] })] }

/-- The step of the slot ends with its pipe drained: the load completes and leaves the queue. -/
theorem steppedWithLoad_endIssue : ((steppedWithLoad.endIssue 0).coreAt 0).wideq = [] := by decide

/-- A state that differs in one slot only has the cores of the other. -/
theorem onlySlot_cores {t : Nat} {s s' : State} (h : onlySlot t s s') : s'.cores = s.cores := by
  have e := congrArg State.cores h.2
  exact e

end Sys2Proof.Machine
end

section
/-!
PROOFS. Illegal instructions, from the lemmas about each kind of them; and a step on a slot that a debugger steps.
-/
open Sys2Proof.Machine

/-- Settles O14: ILL of an unreachable id, of a refused value, and of an instruction that a handler may not issue. -/
theorem illegalInstructions : Obligations.IllegalInstructions := by
  unfold Obligations.IllegalInstructions
  refine ⟨fun i s sr hi => ⟨fun hr => exec_spr_unreachable hi hr, fun v hr hv hw => ?_⟩, fun i s hi hh => ?_⟩
  · exact exec_spr_refused hi hr hv hw
  · exact exec_forbiddenInHandler hi hh

/-- Refutes O4: the issue on a slot that a debugger steps ends with the slot's pipe drained (R438), so that its pending
vector load leaves the wide queue of its core, and more than the slot has changed. -/
theorem not_stepRunsDecoded : ¬ Obligations.StepRunsDecoded := by
  unfold Obligations.StepRunsDecoded
  intro h
  obtain ⟨-, -, hend, -⟩ := h steppedWithLoad
  obtain ⟨-, honly, -, -⟩ := hend 0
  have hq : ((steppedWithLoad.endIssue 0).coreAt 0).wideq = (steppedWithLoad.coreAt 0).wideq := by
    rw [State.coreAt, onlySlot_cores honly, State.coreAt]
  rw [steppedWithLoad_endIssue] at hq
  nomatch hq
end
